-- ==== Sys2Proof/Word.lean ====
section
/-! DEFINITION. The word types of the part (00 R3; 02 R25, R28) and the association list that every table of the
state is. -/
namespace Sys2Proof

/-- A 32-bit lane, instruction word or mode register (03 R54). -/
abbrev Word := BitVec 32
/-- A 64-bit scalar register, pointer or table register (02 R28). -/
abbrev DWord := BitVec 64
/-- A byte of any address space (00 R3). -/
abbrev Byte := BitVec 8
/-- One bit for each of the 32 lanes of a group: lane L is bit L (03 R77). -/
abbrev LaneMask := BitVec 32
/-- The 1,024 bits of a vector register: lane L is bits [32L+31:32L] (09 R191). -/
abbrev VReg := BitVec 1024

/-- A table of the state: key and value pairs, one pair a key, the keys in the order they were first entered. -/
abbrev AList (α β : Type) := List (α × β)

namespace AList
variable {α β : Type} [DecidableEq α]

/-- The value under a key. -/
def get? (t : AList α β) (k : α) : Option β :=
  match t with
  | [] => none
  | (a, b) :: r => if a = k then some b else get? r k

/-- The value under a key, or a default for a key with no pair. -/
def getD (t : AList α β) (k : α) (d : β) : β := (get? t k).getD d

/-- Whether a key has a pair. -/
def has (t : AList α β) (k : α) : Bool := (get? t k).isSome

/-- Sets the value under a key. -/
def put (t : AList α β) (k : α) (v : β) : AList α β :=
  match t with
  | [] => [(k, v)]
  | (a, b) :: r => if a = k then (a, v) :: r else (a, b) :: put r k v

/-- Removes a key. -/
def del (t : AList α β) (k : α) : AList α β := t.filter fun p => decide (p.1 ≠ k)

/-- Changes the value under a key that has a pair; a key without one stays without. -/
def upd (t : AList α β) (k : α) (f : β → β) : AList α β :=
  match t with
  | [] => []
  | (a, b) :: r => if a = k then (a, f b) :: r else (a, b) :: upd r k f

/-- Changes every value. -/
def mapVal (t : AList α β) (f : α → β → β) : AList α β := t.map fun p => (p.1, f p.1 p.2)

/-- The keys whose pair passes a test, in table order. -/
def keysWhere (t : AList α β) (f : α → β → Bool) : List α := (t.filter fun p => f p.1 p.2).map Prod.fst

end AList

/-- The natural numbers below n, ascending. -/
def upTo : Nat → List Nat
  | 0 => []
  | n + 1 => upTo n ++ [n]

/-- The 32 lane positions, ascending. -/
def lanes : List Nat := [0, 1, 2, 3, 4, 5, 6, 7, 8, 9, 10, 11, 12, 13, 14, 15,
  16, 17, 18, 19, 20, 21, 22, 23, 24, 25, 26, 27, 28, 29, 30, 31]

end Sys2Proof
end

