-- ==== Sys2Proof/Machine/Bits.lean ====
section
/-! DEFINITION. Bit fields, two's complement, byte order and the lanes of a vector register (00 R3, R6; 02 R25, R28). -/
namespace Sys2Proof

/-- Bit i of a natural number. -/
def bitOf (n i : Nat) : Bool := (n / 2 ^ i) % 2 == 1

/-- The field of `width` bits of n whose lowest bit is lo. -/
def fieldOf (n lo width : Nat) : Nat := (n / 2 ^ lo) % 2 ^ width

/-- n with the field of `width` bits at lo replaced by v. -/
def setField (n lo width v : Nat) : Nat :=
  n - fieldOf n lo width * 2 ^ lo + (v % 2 ^ width) * 2 ^ lo

/-- The two's complement value of the low w bits of n. -/
def signedOf (w n : Nat) : Int :=
  let m := n % 2 ^ w
  if m < 2 ^ (w - 1) then (m : Int) else (m : Int) - (2 ^ w : Nat)

/-- The low w bits of an integer, two's complement. -/
def unsignedOf (w : Nat) (z : Int) : Nat := (z % ((2 ^ w : Nat) : Int)).toNat

/-- Ceil(a / b) (00 R6). -/
def ceilDiv (a b : Nat) : Nat := (a + (b - 1)) / b

/-- How many bits of n are set among its low w bits. -/
def popOf : Nat → Nat → Nat
  | 0, _ => 0
  | w + 1, n => n % 2 + popOf w (n / 2)

/-- The low w bits of n in reverse order. -/
def revOf : Nat → Nat → Nat
  | 0, _ => 0
  | w + 1, n => (n % 2) * 2 ^ w + revOf w (n / 2)

/-- The number of bits of n: 0 for 0. -/
def bitLen (n : Nat) : Nat := if n = 0 then 0 else Nat.log2 n + 1

/-- Lane L of a vector register. -/
def laneOf (v : VReg) (l : Nat) : Word := BitVec.ofNat 32 (v.toNat / 2 ^ (32 * l))

/-- The number whose base 2^32 digits are f 0 to f (n - 1), lowest first. -/
def digits32 : Nat → (Nat → Word) → Nat
  | 0, _ => 0
  | n + 1, f => digits32 n f + (f n).toNat * 2 ^ (32 * n)

/-- The vector register that holds f L in lane L. -/
def vregOf (f : Nat → Word) : VReg := BitVec.ofNat 1024 (digits32 32 f)

/-- The mask that holds f L in bit L. -/
def maskBits : Nat → (Nat → Bool) → Nat
  | 0, _ => 0
  | n + 1, f => maskBits n f + if f n then 2 ^ n else 0

/-- The lane mask that holds f L in bit L. -/
def maskOf (f : Nat → Bool) : LaneMask := BitVec.ofNat 32 (maskBits 32 f)

/-- Bit L of a lane mask. -/
def laneAt (m : LaneMask) (l : Nat) : Bool := m.getLsbD l

/-- The lanes of a mask, ascending. -/
def lanesIn (m : LaneMask) : List Nat := lanes.filter (laneAt m)

/-- The lowest lane of a mask (09 R202: the lowest-numbered faulting lane). -/
def lowestLane (m : LaneMask) : Option Nat := (lanesIn m).head?

/-- The bytes of a number, `n` of them, lowest first (00 R3). -/
def bytesOf : Nat → Nat → List Byte
  | 0, _ => []
  | n + 1, v => BitVec.ofNat 8 v :: bytesOf n (v / 256)

/-- The number that bytes make, lowest first (00 R3). -/
def ofBytes : List Byte → Nat
  | [] => 0
  | b :: r => b.toNat + 256 * ofBytes r

end Sys2Proof
end

