-- ==== Sys2Proof/Syntax.lean ====
section
/-! DEFINITION. The steps of the part: one constructor of Instr for each row of spec/opcode_table.json. A row with a word
(03 R54) carries its switch marker k and its operand fields; a row without one is a named step of the device, of the host
or of system software, and carries what the row's own rule needs to name the party it concerns. -/
namespace Sys2Proof

/-- A group slot of a core of a chip (01 R13). Chip 4p + c is chip c of package p. -/
structure GroupRef where
  /-- Chip, 0 to 15 over four packages. -/
  chip : Nat
  /-- Core of the chip, 0 to 95. -/
  core : Nat
  /-- Group slot of the core, 0 to 511. -/
  slot : Nat
  deriving DecidableEq, Repr, Inhabited

/-- A fragment: an entry of a group's split table (08 R165). -/
structure FragRef where
  /-- The group. -/
  grp : GroupRef
  /-- The split-table entry, 0 to 31. -/
  entry : Nat
  deriving DecidableEq, Repr, Inhabited

/-- What a MOVE gathers room by (07 R149): a software cluster to another hardware cluster, or one block to other cores of
its own hardware cluster, named by the core that its first group goes to. -/
inductive MoveUnit
  | cluster (id hwcl : Nat)
  | block (id core : Nat)
  deriving DecidableEq, Repr

/-- How physical training of a link ended (18 R410, R418). -/
inductive Training
  | up (width rate : Nat)
  | noFlitMode
  deriving DecidableEq, Repr

/-- A firmware stage image as the management processor loads it (20 R440, R442). -/
structure StageImage where
  /-- Stage 1 to 3. -/
  stage : Nat
  /-- The whole image. -/
  bytes : List Byte
  /-- Security version number. -/
  version : Nat
  /-- Key slot, 0 to 3. -/
  slot : Nat
  /-- The public key of the slot. -/
  key : List Byte
  /-- The signature over the image. -/
  signature : List Byte
  deriving DecidableEq, Repr

/-- What a signed command makes stage 1 blow (20 R442). -/
structure FuseCommand where
  /-- Key slots to revoke, one bit each. -/
  revoke : BitVec 4
  /-- Bits to raise in the minimum version, one fuse for each version. -/
  version : BitVec 32
  /-- The signature over the command. -/
  signature : List Byte
  deriving DecidableEq, Repr

/-- The steps of the part, one constructor a row of the table. -/
inductive Instr
  /-- R208: Adds va and vb in each enabled lane under %mode.E, rounding or saturating. -/
  | vadd (k : Bool) (d : BitVec 7) (a : BitVec 7) (b : BitVec 7)
  /-- R208: Subtracts vb from va in each enabled lane. -/
  | vsub (k : Bool) (d : BitVec 7) (a : BitVec 7) (b : BitVec 7)
  /-- R208: Multiplies va by vb in each enabled lane. -/
  | vmul (k : Bool) (d : BitVec 7) (a : BitVec 7) (b : BitVec 7)
  /-- R208: Writes the high half of the exact integer product of va and vb. -/
  | vmulh (k : Bool) (d : BitVec 7) (a : BitVec 7) (b : BitVec 7)
  /-- R208: Divides va by vb, integers by R38 and floats correctly rounded, with variable latency. -/
  | vdiv (k : Bool) (d : BitVec 7) (a : BitVec 7) (b : BitVec 7)
  /-- R38: Writes the integer remainder of va by vb, with variable latency. -/
  | vrem (k : Bool) (d : BitVec 7) (a : BitVec 7) (b : BitVec 7)
  /-- R208: Writes the smaller of va and vb. -/
  | vmin (k : Bool) (d : BitVec 7) (a : BitVec 7) (b : BitVec 7)
  /-- R208: Writes the larger of va and vb. -/
  | vmax (k : Bool) (d : BitVec 7) (a : BitVec 7) (b : BitVec 7)
  /-- R208: Writes the bitwise and of va and vb. -/
  | vand (k : Bool) (d : BitVec 7) (a : BitVec 7) (b : BitVec 7)
  /-- R208: Writes the bitwise or of va and vb. -/
  | vor (k : Bool) (d : BitVec 7) (a : BitVec 7) (b : BitVec 7)
  /-- R208: Writes the bitwise xor of va and vb. -/
  | vxor (k : Bool) (d : BitVec 7) (a : BitVec 7) (b : BitVec 7)
  /-- R209: Shifts va left by the amount in vb. -/
  | vshl (k : Bool) (d : BitVec 7) (a : BitVec 7) (b : BitVec 7)
  /-- R209: Shifts va logically right by the amount in vb. -/
  | vshr (k : Bool) (d : BitVec 7) (a : BitVec 7) (b : BitVec 7)
  /-- R209: Shifts va arithmetically right by the amount in vb. -/
  | vsra (k : Bool) (d : BitVec 7) (a : BitVec 7) (b : BitVec 7)
  /-- R209: Rotates va left by the amount in vb. -/
  | vrot (k : Bool) (d : BitVec 7) (a : BitVec 7) (b : BitVec 7)
  /-- R210: Selects va or vb per active lane using the guard as data. -/
  | vsel (k : Bool) (d : BitVec 7) (a : BitVec 7) (b : BitVec 7)
  /-- R208: Writes the absolute difference of va and vb. -/
  | vabsd (k : Bool) (d : BitVec 7) (a : BitVec 7) (b : BitVec 7)
  /-- R211: Writes the magnitude of va with the sign of vb. -/
  | vcsgn (k : Bool) (d : BitVec 7) (a : BitVec 7) (b : BitVec 7)
  /-- R212: Converts va and vb from X to E and packs them into each lane. -/
  | vpk (k : Bool) (d : BitVec 7) (a : BitVec 7) (b : BitVec 7)
  /-- R213: Computes va times vb plus vd with one rounding. -/
  | vmad (k : Bool) (d : BitVec 7) (a : BitVec 7) (b : BitVec 7)
  /-- R213: Computes va times vb minus vd with one rounding. -/
  | vmsb (k : Bool) (d : BitVec 7) (a : BitVec 7) (b : BitVec 7)
  /-- R213: Clamps vd between va and vb. -/
  | vclmp (k : Bool) (d : BitVec 7) (a : BitVec 7) (b : BitVec 7)
  /-- R48: Adds the four packed products of va and vb into vd. -/
  | vdot4 (k : Bool) (d : BitVec 7) (a : BitVec 7) (b : BitVec 7)
  /-- R213: Copies va raw into vd. -/
  | vmov (k : Bool) (d : BitVec 7) (a : BitVec 7)
  /-- R213: Negates va. -/
  | vneg (k : Bool) (d : BitVec 7) (a : BitVec 7)
  /-- R213: Writes the absolute value of va. -/
  | vabs (k : Bool) (d : BitVec 7) (a : BitVec 7)
  /-- R213: Writes the bitwise complement of va. -/
  | vnot (k : Bool) (d : BitVec 7) (a : BitVec 7)
  /-- R213: Counts the leading zero bits of va. -/
  | vclz (k : Bool) (d : BitVec 7) (a : BitVec 7)
  /-- R213: Counts the one bits of va (population count). -/
  | vpop (k : Bool) (d : BitVec 7) (a : BitVec 7)
  /-- R213: Reverses the bits of va. -/
  | vbrev (k : Bool) (d : BitVec 7) (a : BitVec 7)
  /-- R39: Converts va from %mode.X to %mode.E. -/
  | vcvt (k : Bool) (d : BitVec 7) (a : BitVec 7)
  /-- R214: Writes the correctly rounded reciprocal of va. -/
  | vrcp (k : Bool) (d : BitVec 7) (a : BitVec 7)
  /-- R214: Writes the correctly rounded reciprocal square root of va. -/
  | vrsq (k : Bool) (d : BitVec 7) (a : BitVec 7)
  /-- R214: Writes the correctly rounded square root of va. -/
  | vsqrt (k : Bool) (d : BitVec 7) (a : BitVec 7)
  /-- R214: Writes 2 to the power va, correctly rounded. -/
  | vexp2 (k : Bool) (d : BitVec 7) (a : BitVec 7)
  /-- R214: Writes the base-2 logarithm of va, correctly rounded. -/
  | vlog2 (k : Bool) (d : BitVec 7) (a : BitVec 7)
  /-- R214: Writes the sine of va, correctly rounded. -/
  | vsin (k : Bool) (d : BitVec 7) (a : BitVec 7)
  /-- R214: Writes the cosine of va, correctly rounded. -/
  | vcos (k : Bool) (d : BitVec 7) (a : BitVec 7)
  /-- R215: Rounds va down to an integral value. -/
  | vfloor (k : Bool) (d : BitVec 7) (a : BitVec 7)
  /-- R215: Rounds va up to an integral value. -/
  | vceil (k : Bool) (d : BitVec 7) (a : BitVec 7)
  /-- R215: Rounds va toward zero to an integral value. -/
  | vtrunc (k : Bool) (d : BitVec 7) (a : BitVec 7)
  /-- R215: Rounds va to an integral value by %mode.R. -/
  | vrint (k : Bool) (d : BitVec 7) (a : BitVec 7)
  /-- R215: Writes the fractional part of va. -/
  | vfrac (k : Bool) (d : BitVec 7) (a : BitVec 7)
  /-- R216: Writes a one-hot class mask of va. -/
  | vclass (k : Bool) (d : BitVec 7) (a : BitVec 7)
  /-- R217: Maps vd to the zero register and drops its old mapping. -/
  | vfree (k : Bool) (d : BitVec 7)
  /-- R218: Adds a scalar to va. -/
  | vadds (k : Bool) (s : BitVec 8) (d : BitVec 7) (a : BitVec 7)
  /-- R218: Subtracts a scalar from va. -/
  | vsubs (k : Bool) (s : BitVec 8) (d : BitVec 7) (a : BitVec 7)
  /-- R218: Subtracts va from a scalar. -/
  | vrsubs (k : Bool) (s : BitVec 8) (d : BitVec 7) (a : BitVec 7)
  /-- R218: Multiplies va by a scalar. -/
  | vmuls (k : Bool) (s : BitVec 8) (d : BitVec 7) (a : BitVec 7)
  /-- R218: Computes va times a scalar plus vd. -/
  | vmads (k : Bool) (s : BitVec 8) (d : BitVec 7) (a : BitVec 7)
  /-- R218: Writes the smaller of va and a scalar. -/
  | vmins (k : Bool) (s : BitVec 8) (d : BitVec 7) (a : BitVec 7)
  /-- R218: Writes the larger of va and a scalar. -/
  | vmaxs (k : Bool) (s : BitVec 8) (d : BitVec 7) (a : BitVec 7)
  /-- R218: Ands va with a scalar. -/
  | vands (k : Bool) (s : BitVec 8) (d : BitVec 7) (a : BitVec 7)
  /-- R218: Ors va with a scalar. -/
  | vors (k : Bool) (s : BitVec 8) (d : BitVec 7) (a : BitVec 7)
  /-- R218: Xors va with a scalar. -/
  | vxors (k : Bool) (s : BitVec 8) (d : BitVec 7) (a : BitVec 7)
  /-- R218: Shifts va left by a scalar amount. -/
  | vshls (k : Bool) (s : BitVec 8) (d : BitVec 7) (a : BitVec 7)
  /-- R218: Shifts va logically right by a scalar amount. -/
  | vshrs (k : Bool) (s : BitVec 8) (d : BitVec 7) (a : BitVec 7)
  /-- R218: Shifts va arithmetically right by a scalar amount. -/
  | vsras (k : Bool) (s : BitVec 8) (d : BitVec 7) (a : BitVec 7)
  /-- R218: Broadcasts a scalar into every enabled lane of vd. -/
  | vbcs (k : Bool) (s : BitVec 8) (d : BitVec 7)
  /-- R219: Adds a sign-extended immediate to va. -/
  | vaddi (k : Bool) (d : BitVec 7) (a : BitVec 7) (i : BitVec 10)
  /-- R219: Multiplies va by a sign-extended immediate. -/
  | vmuli (k : Bool) (d : BitVec 7) (a : BitVec 7) (i : BitVec 10)
  /-- R219: Ands va with an immediate. -/
  | vandi (k : Bool) (d : BitVec 7) (a : BitVec 7) (i : BitVec 10)
  /-- R219: Ors va with an immediate. -/
  | vori (k : Bool) (d : BitVec 7) (a : BitVec 7) (i : BitVec 10)
  /-- R219: Xors va with an immediate. -/
  | vxori (k : Bool) (d : BitVec 7) (a : BitVec 7) (i : BitVec 10)
  /-- R219: Shifts va left by an immediate. -/
  | vshli (k : Bool) (d : BitVec 7) (a : BitVec 7) (i : BitVec 6)
  /-- R219: Shifts va logically right by an immediate. -/
  | vshri (k : Bool) (d : BitVec 7) (a : BitVec 7) (i : BitVec 6)
  /-- R219: Shifts va arithmetically right by an immediate. -/
  | vsrai (k : Bool) (d : BitVec 7) (a : BitVec 7) (i : BitVec 6)
  /-- R220: Adds two scalars modulo 2^64. -/
  | sadd (k : Bool) (d : BitVec 8) (a : BitVec 8) (b : BitVec 8)
  /-- R220: Subtracts two scalars modulo 2^64. -/
  | ssub (k : Bool) (d : BitVec 8) (a : BitVec 8) (b : BitVec 8)
  /-- R220: Writes the low 64 bits of a scalar product. -/
  | smul (k : Bool) (d : BitVec 8) (a : BitVec 8) (b : BitVec 8)
  /-- R220: Writes the high 64 bits of a signed scalar product. -/
  | smulh (k : Bool) (d : BitVec 8) (a : BitVec 8) (b : BitVec 8)
  /-- R220: Writes the signed scalar quotient by R38. -/
  | sdiv (k : Bool) (d : BitVec 8) (a : BitVec 8) (b : BitVec 8)
  /-- R220: Writes the signed scalar remainder by R38. -/
  | srem (k : Bool) (d : BitVec 8) (a : BitVec 8) (b : BitVec 8)
  /-- R220: Writes the signed scalar minimum. -/
  | smin (k : Bool) (d : BitVec 8) (a : BitVec 8) (b : BitVec 8)
  /-- R220: Writes the signed scalar maximum. -/
  | smax (k : Bool) (d : BitVec 8) (a : BitVec 8) (b : BitVec 8)
  /-- R220: Ands two scalars. -/
  | sand (k : Bool) (d : BitVec 8) (a : BitVec 8) (b : BitVec 8)
  /-- R220: Ors two scalars. -/
  | sor (k : Bool) (d : BitVec 8) (a : BitVec 8) (b : BitVec 8)
  /-- R220: Xors two scalars. -/
  | sxor (k : Bool) (d : BitVec 8) (a : BitVec 8) (b : BitVec 8)
  /-- R220: Shifts a scalar left by b[5:0]. -/
  | sshl (k : Bool) (d : BitVec 8) (a : BitVec 8) (b : BitVec 8)
  /-- R220: Shifts a scalar logically right by b[5:0]. -/
  | sshr (k : Bool) (d : BitVec 8) (a : BitVec 8) (b : BitVec 8)
  /-- R220: Shifts a scalar arithmetically right by b[5:0]. -/
  | ssra (k : Bool) (d : BitVec 8) (a : BitVec 8) (b : BitVec 8)
  /-- R220: Sets sd to 1 if a is less than b signed. -/
  | sslt (k : Bool) (d : BitVec 8) (a : BitVec 8) (b : BitVec 8)
  /-- R220: Sets sd to 1 if a is less than b unsigned. -/
  | ssln (k : Bool) (d : BitVec 8) (a : BitVec 8) (b : BitVec 8)
  /-- R220: Adds a sign-extended 8-bit immediate to a scalar. -/
  | saddi (k : Bool) (d : BitVec 8) (a : BitVec 8) (i : BitVec 8)
  /-- R220: Ands a scalar with a sign-extended immediate. -/
  | sandi (k : Bool) (d : BitVec 8) (a : BitVec 8) (i : BitVec 8)
  /-- R220: Ors a scalar with a sign-extended immediate. -/
  | sori (k : Bool) (d : BitVec 8) (a : BitVec 8) (i : BitVec 8)
  /-- R220: Xors a scalar with a sign-extended immediate. -/
  | sxori (k : Bool) (d : BitVec 8) (a : BitVec 8) (i : BitVec 8)
  /-- R220: Shifts a scalar left by an immediate. -/
  | sshli (k : Bool) (d : BitVec 8) (a : BitVec 8) (i : BitVec 6)
  /-- R220: Shifts a scalar logically right by an immediate. -/
  | sshri (k : Bool) (d : BitVec 8) (a : BitVec 8) (i : BitVec 6)
  /-- R220: Shifts a scalar arithmetically right by an immediate. -/
  | ssrai (k : Bool) (d : BitVec 8) (a : BitVec 8) (i : BitVec 6)
  /-- R220: Sets sd to 1 if a scalar is less than the immediate, signed. -/
  | sslti (k : Bool) (d : BitVec 8) (a : BitVec 8) (i : BitVec 8)
  /-- R221: Loads a sign-extended 18-bit immediate into a scalar. -/
  | sli (k : Bool) (d : BitVec 8) (i : BitVec 18)
  /-- R221: Shifts a scalar left by 18 and appends an unsigned immediate. -/
  | slu (k : Bool) (d : BitVec 8) (i : BitVec 18)
  /-- R172: Branches the fragment to a PC-relative target. -/
  | br (k : Bool) (o : BitVec 23)
  /-- R172: Writes the return address into s191 and branches. -/
  | call (k : Bool) (o : BitVec 23)
  /-- R172: Jumps to the address held in a scalar. -/
  | jmp (k : Bool) (s : BitVec 8)
  /-- R172: Jumps to the address held in s191. -/
  | ret (k : Bool)
  /-- R172: Branches uniformly when every active lane's predicate equals sense. -/
  | bp (k : Bool) (p : BitVec 4) (e : BitVec 1) (o : BitVec 18)
  /-- R172: Divergent branch that may split the fragment. -/
  | brd (k : Bool) (p : BitVec 4) (e : BitVec 1) (o : BitVec 18)
  /-- R172: Sets the rejoin address for the next split. -/
  | rcv (k : Bool) (o : BitVec 23)
  /-- R168: Fusion point: waits and fuses a child with its partner at the rejoin address. -/
  | join (k : Bool)
  /-- R172: Branches if a scalar is zero. -/
  | bz (k : Bool) (s : BitVec 8) (o : BitVec 15)
  /-- R172: Branches if a scalar is nonzero. -/
  | bnz (k : Bool) (s : BitVec 8) (o : BitVec 15)
  /-- R172: Decrements a scalar and branches if it is nonzero. -/
  | loop (k : Bool) (s : BitVec 8) (o : BitVec 15)
  /-- R169: Exits the active lanes, freeing or hollowing their entry. -/
  | exit (k : Bool)
  /-- R174: Sets pd where va equals vb. -/
  | vceq (k : Bool) (d : BitVec 4) (a : BitVec 7) (b : BitVec 7)
  /-- R174: Sets pd where va differs from vb. -/
  | vcne (k : Bool) (d : BitVec 4) (a : BitVec 7) (b : BitVec 7)
  /-- R174: Sets pd where va is less than vb. -/
  | vclt (k : Bool) (d : BitVec 4) (a : BitVec 7) (b : BitVec 7)
  /-- R174: Sets pd where va is at most vb. -/
  | vcle (k : Bool) (d : BitVec 4) (a : BitVec 7) (b : BitVec 7)
  /-- R174: Sets pd where either operand is a NaN. -/
  | vcun (k : Bool) (d : BitVec 4) (a : BitVec 7) (b : BitVec 7)
  /-- R175: Ands two predicates in enabled lanes. -/
  | pand (k : Bool) (d : BitVec 4) (a : BitVec 4) (b : BitVec 4)
  /-- R175: Ors two predicates in enabled lanes. -/
  | por (k : Bool) (d : BitVec 4) (a : BitVec 4) (b : BitVec 4)
  /-- R175: Xors two predicates in enabled lanes. -/
  | pxor (k : Bool) (d : BitVec 4) (a : BitVec 4) (b : BitVec 4)
  /-- R175: Ands a predicate with the complement of another. -/
  | pandn (k : Bool) (d : BitVec 4) (a : BitVec 4) (b : BitVec 4)
  /-- R175: Complements a predicate in enabled lanes. -/
  | pnot (k : Bool) (d : BitVec 4) (a : BitVec 4)
  /-- R175: Copies a predicate in enabled lanes. -/
  | pmov (k : Bool) (d : BitVec 4) (a : BitVec 4)
  /-- R175: Sets enabled bits of pd to a constant. -/
  | pset (k : Bool) (d : BitVec 4) (e : BitVec 1)
  /-- R175: Sets pd where the vector lane is nonzero. -/
  | pfromv (k : Bool) (d : BitVec 4) (a : BitVec 7)
  /-- R175: Writes a predicate as 0 or 1 into enabled vector lanes. -/
  | ptov (k : Bool) (a : BitVec 4) (d : BitVec 7)
  /-- R177: Exchanges lanes by xor with a constant. -/
  | vbfly (k : Bool) (d : BitVec 7) (a : BitVec 7) (m : BitVec 5)
  /-- R177: Permutes lanes by per-lane indices. -/
  | vshfl (k : Bool) (d : BitVec 7) (a : BitVec 7) (i : BitVec 7)
  /-- R177: Broadcasts one lane to all enabled lanes. -/
  | vbcast (k : Bool) (d : BitVec 7) (a : BitVec 7) (l : BitVec 5)
  /-- R177: Rotates lanes by a constant. -/
  | vrotl (k : Bool) (d : BitVec 7) (a : BitVec 7) (r : BitVec 5)
  /-- R178: Moves one vector lane into a scalar. -/
  | vtos (k : Bool) (d : BitVec 8) (a : BitVec 7) (l : BitVec 5)
  /-- R178: Writes a scalar into one vector lane. -/
  | stov (k : Bool) (d : BitVec 7) (s : BitVec 8) (l : BitVec 5)
  /-- R179: Writes the enabled bits of a predicate into a scalar. -/
  | vballot (k : Bool) (d : BitVec 8) (p : BitVec 4)
  /-- R179: Writes the lowest enabled lane with its predicate set. -/
  | vfind (k : Bool) (d : BitVec 8) (p : BitVec 4)
  /-- R180: Writes the inclusive prefix sum over enabled lanes. -/
  | vscan (k : Bool) (d : BitVec 7) (a : BitVec 7)
  /-- R180: Sums enabled lanes into a scalar. -/
  | vred (k : Bool) (d : BitVec 8) (a : BitVec 7)
  /-- R177: Writes each lane's position. -/
  | vlane (k : Bool) (d : BitVec 7)
  /-- R177: Writes each lane's %tid. -/
  | vtid (k : Bool) (d : BitVec 7)
  /-- R181: Arrives at the block rendezvous that compacts live lanes. -/
  | regrp (k : Bool)
  /-- R328: Loads an element per enabled lane. -/
  | vld (k : Bool) (s : BitVec 8) (d : BitVec 7) (o : BitVec 7)
  /-- R328: Stores an element per enabled lane. -/
  | vst (k : Bool) (s : BitVec 8) (v : BitVec 7) (o : BitVec 7)
  /-- R328: Hints a fetch of each lane's line. -/
  | prf (k : Bool) (s : BitVec 8) (o : BitVec 7)
  /-- R329: Atomic add returning the old value. -/
  | vaadd (k : Bool) (s : BitVec 8) (d : BitVec 7) (o : BitVec 7)
  /-- R329: Atomic minimum returning the old value. -/
  | vamin (k : Bool) (s : BitVec 8) (d : BitVec 7) (o : BitVec 7)
  /-- R329: Atomic maximum returning the old value. -/
  | vamax (k : Bool) (s : BitVec 8) (d : BitVec 7) (o : BitVec 7)
  /-- R329: Atomic and returning the old value. -/
  | vaand (k : Bool) (s : BitVec 8) (d : BitVec 7) (o : BitVec 7)
  /-- R329: Atomic or returning the old value. -/
  | vaor (k : Bool) (s : BitVec 8) (d : BitVec 7) (o : BitVec 7)
  /-- R329: Atomic xor returning the old value. -/
  | vaxor (k : Bool) (s : BitVec 8) (d : BitVec 7) (o : BitVec 7)
  /-- R329: Atomic exchange returning the old value. -/
  | vaxch (k : Bool) (s : BitVec 8) (d : BitVec 7) (o : BitVec 7)
  /-- R329: Atomic compare-and-swap returning the old value. -/
  | vacas (k : Bool) (s : BitVec 8) (d : BitVec 7) (o : BitVec 7)
  /-- R334: Contributes an add reduction at memory. -/
  | vredadd (k : Bool) (s : BitVec 8) (d : BitVec 7) (o : BitVec 7)
  /-- R334: Contributes a min reduction at memory. -/
  | vredmin (k : Bool) (s : BitVec 8) (d : BitVec 7) (o : BitVec 7)
  /-- R334: Contributes a max reduction at memory. -/
  | vredmax (k : Bool) (s : BitVec 8) (d : BitVec 7) (o : BitVec 7)
  /-- R202: Reads per lane from a register indexed through a window. -/
  | vldx (k : Bool) (w : BitVec 2) (d : BitVec 7) (i : BitVec 7)
  /-- R203: Writes per lane into a register indexed through a window. -/
  | vstx (k : Bool) (w : BitVec 2) (v : BitVec 7) (i : BitVec 7)
  /-- R330: Pushes all 32 lanes of a register onto the spill stack. -/
  | vpush (k : Bool) (v : BitVec 7)
  /-- R330: Pops all 32 lanes of a register from the spill stack. -/
  | vpopSpill (k : Bool) (v : BitVec 7)
  /-- R332: Loads 8 bytes into a scalar. -/
  | sld (k : Bool) (d : BitVec 8) (a : BitVec 8) (i : BitVec 6)
  /-- R332: Stores a scalar's 8 bytes. -/
  | sst (k : Bool) (d : BitVec 8) (a : BitVec 8) (i : BitVec 6)
  /-- R332: Atomic 64-bit add returning the old value into a scalar. -/
  | saadd (k : Bool) (d : BitVec 8) (a : BitVec 8) (i : BitVec 6)
  /-- R246: Tries to take an engine of the home core for the block. -/
  | macq (k : Bool) (p : BitVec 4)
  /-- R247: Ends the block's engine hold once its operations complete. -/
  | mrel (k : Bool)
  /-- R252: Sets the group's quorum list. -/
  | mquor (k : Bool) (s : BitVec 8)
  /-- R255: Issues a matrix product accumulated into td. -/
  | mma (k : Bool) (d : BitVec 5) (a : BitVec 5) (b : BitVec 5)
  /-- R255: Issues a scaled matrix product accumulated into td. -/
  | mmas (k : Bool) (d : BitVec 5) (a : BitVec 5) (b : BitVec 5) (c : BitVec 5)
  /-- R255: Issues an engine operation zeroing td. -/
  | mzero (k : Bool) (d : BitVec 5)
  /-- R256: Issues a conversion of accumulator ta into td. -/
  | mdrain (k : Bool) (d : BitVec 5) (a : BitVec 5)
  /-- R240: Writes a tile's control register. -/
  | tcfg (k : Bool) (t : BitVec 5) (s : BitVec 8)
  /-- R241: Empties and zeroes a tile and starts its parked copy. -/
  | tfree (k : Bool) (t : BitVec 5)
  /-- R242: Reads a tile's state and control register. -/
  | tstate (k : Bool) (t : BitVec 5) (d : BitVec 8)
  /-- R243: Writes one row segment of a tile from a vector. -/
  | vtot (k : Bool) (t : BitVec 5) (s : BitVec 8) (v : BitVec 7)
  /-- R243: Reads one row segment of a tile into a vector. -/
  | ttov (k : Bool) (t : BitVec 5) (s : BitVec 8) (v : BitVec 7)
  /-- R263: Sets the engine's knot registers. -/
  | kset (k : Bool) (s : BitVec 8)
  /-- R266: Loads a coefficient group from a tile into the engine. -/
  | spld (k : Bool) (a : BitVec 5) (g : BitVec 2)
  /-- R266: Stores a coefficient group into a tile. -/
  | spst (k : Bool) (d : BitVec 5) (g : BitVec 2)
  /-- R272: Evaluates the spline layer over the samples of ta. -/
  | spev (k : Bool) (d : BitVec 5) (a : BitVec 5)
  /-- R274: Computes spline input gradients. -/
  | spbwd (k : Bool) (d : BitVec 5) (a : BitVec 5) (b : BitVec 5)
  /-- R275: Scatters spline coefficient gradients into a gradient tile. -/
  | spgrd (k : Bool) (d : BitVec 5) (a : BitVec 5) (b : BitVec 5) (g : BitVec 3)
  /-- R276: Refines every cell's grid from G to 2G intervals. -/
  | sprf (k : Bool)
  /-- R278: Reads and clears the out-of-grid count. -/
  | spoog (k : Bool) (d : BitVec 8)
  /-- R293: Issues a template copy between memory, tiles and shared memory. -/
  | cpy (k : Bool) (t : BitVec 4) (x : BitVec 8) (y : BitVec 8) (r : BitVec 2)
  /-- R291: Loads a copy template from eight scalars. -/
  | cpyt (k : Bool) (t : BitVec 4) (s : BitVec 8)
  /-- R295: Issues a multicast into shared memory of blocks of the cluster. -/
  | mcast (k : Bool) (t : BitVec 4) (s : BitVec 8) (m : BitVec 8)
  /-- R283: Seals the open batch of a class. -/
  | seal (k : Bool) (c : BitVec 2)
  /-- R284: Waits until at most n sealed batches of a class remain. -/
  | waitb (k : Bool) (c : BitVec 2) (n : BitVec 4)
  /-- R285: Reads and clears the batch error record of a class. -/
  | bstat (k : Bool) (c : BitVec 2) (d : BitVec 8)
  /-- R231: Arrives at a barrier and waits for its phase. -/
  | bar (k : Bool) (l : BitVec 2) (i : BitVec 4)
  /-- R231: Arrives at a barrier without waiting. -/
  | bara (k : Bool) (l : BitVec 2) (i : BitVec 4)
  /-- R231: Waits on a barrier phase for a pending arrival. -/
  | barw (k : Bool) (l : BitVec 2) (i : BitVec 4)
  /-- R232: Reads a barrier's state. -/
  | barq (k : Bool) (l : BitVec 2) (i : BitVec 4) (d : BitVec 8)
  /-- R339: Writes lanes into peer collective windows. -/
  | cput (k : Bool) (d : BitVec 7) (p : BitVec 7) (a : BitVec 7)
  /-- R339: Reads lanes from peer collective windows. -/
  | cget (k : Bool) (d : BitVec 7) (p : BitVec 7) (a : BitVec 7)
  /-- R340: Adds lanes into peer collective windows over the live paths. -/
  | cred (k : Bool) (d : BitVec 7) (p : BitVec 7) (a : BitVec 7)
  /-- R342: Reads and clears the order signature. -/
  | osig (k : Bool) (d : BitVec 8)
  /-- R335: Opens an ordered reduction window. -/
  | rwin (k : Bool) (s : BitVec 8)
  /-- R336: Closes the group's reduction window contributions. -/
  | rwcl (k : Bool)
  /-- R205: Writes a block scalar. -/
  | bset (k : Bool) (b : BitVec 4) (s : BitVec 8)
  /-- R206: Reads a block scalar. -/
  | bget (k : Bool) (b : BitVec 4) (d : BitVec 8)
  /-- R86: Issues with no effect. -/
  | nop (k : Bool)
  /-- R78: Writes one half of %mode, optionally with a counted restore. -/
  | mode (k : Bool) (i : BitVec 22)
  /-- R83: Writes %fmt persistently. -/
  | fmt (k : Bool) (i : BitVec 22)
  /-- R85: Reads a system register into a scalar. -/
  | srd (k : Bool) (d : BitVec 8) (s : BitVec 10)
  /-- R85: Writes a scalar into a system register. -/
  | swr (k : Bool) (a : BitVec 8) (s : BitVec 10)
  /-- R333: Acquire and release at %mode.SC for the fragment's lanes. -/
  | fence (k : Bool)
  /-- R114: Raises fault TRAP with an immediate. -/
  | trap (k : Bool) (i : BitVec 16)
  /-- R115: Returns from the trap handler. -/
  | eret (k : Bool)
  /-- R438: Raises fault BREAK with an immediate. -/
  | brk (k : Bool) (i : BitVec 16)
  /-- R114: Stops the group with a HALTED event. -/
  | halt (k : Bool)
  /-- R187: Moves the group last in rotation and may demote it. -/
  | yield (k : Bool)
  /-- R190: Replaces the group's opf set of the operand buffer. -/
  | opf (k : Bool) (b : BitVec 6) (m : BitVec 16)
  /-- R201: Sets an index window's base and length. -/
  | ixw (k : Bool) (w : BitVec 2) (b : BitVec 7) (l : BitVec 7)
  /-- R371: Opens an atomic region and checkpoints the group. -/
  | ab (k : Bool) (o : BitVec 22)
  /-- R381: Sends the region record for commit and waits for the outcome. -/
  | ac (k : Bool)
  /-- R372: Aborts the region to its fallback. -/
  | aa (k : Bool)
  /-- R360: Takes a table turn with no memory effect. -/
  | turn (k : Bool)
  /-- R361: Waits until every seat has applied this seat's earlier stores. -/
  | tsync (k : Bool)
  /-- R362: Reads an item of the seat's table state. -/
  | tblq (k : Bool) (d : BitVec 8) (i : BitVec 8)
  /-- R135: Appends a launch record to a device-fed queue as a co operation. -/
  | launch (k : Bool) (s : BitVec 8)
  /-- R438: Writes a MARK record and drives trigger source 3. -/
  | probe (k : Bool) (i : BitVec 16)
  /-- R438: Reads the global time base into a scalar. -/
  | rdtime (k : Bool) (d : BitVec 8)
  /-- R78: A pending restore's count reaches zero and the half reverts. -/
  | modeRestore (f : FragRef)
  /-- R56: A variable-latency result and its flags are written; a parked group may unpark. -/
  | resultWriteback (g : GroupRef) (id : Nat)
  /-- R111: Delivers a fault once V-class results are written, entering the handler or stopping the group. -/
  | trapDeliver (g : GroupRef)
  /-- R107: Assigns a FREE context slot to the caller. -/
  | create (pkg slot : Nat)
  /-- R106: Checks the descriptor and takes partition, carve-out and queues. -/
  | bind (pkg slot addr : Nat)
  /-- R107: Pre-empts every resident cluster and stops placing. -/
  | suspend (pkg slot : Nat)
  /-- R107: Resumes placing and restores saved clusters. -/
  | resume (pkg slot : Nat)
  /-- R107: Stops queues, discards saved state and drains the context. -/
  | release (pkg slot : Nat)
  /-- R107: All copies, engine operations and sent commits complete; scrubbing begins. -/
  | contextDrainEnd (pkg slot : Nat)
  /-- R120: A CLD reports its scrub done; the slot frees once all four have. -/
  | scrubDone (chip slot : Nat)
  /-- R125: A QCFG write that sets EN, with its checks. -/
  | queueEnable (chip queue : Nat) (value : DWord)
  /-- R125: A QCFG write that clears EN and stops reading records. -/
  | queueDisable (chip queue : Nat) (value : DWord)
  /-- R126: A QTAIL write that sets TAIL and checks overflow. -/
  | doorbell (chip queue : Nat) (value : DWord)
  /-- R124: Writing 1 to QSTAT.STOP clears the error and resumes reading. -/
  | queueStopClear (chip queue : Nat)
  /-- R128: The queue reads and checks the launch record at HEAD. -/
  | recordRead (chip queue : Nat)
  /-- R131: The 1 µs tick re-evaluates the waits of PENDING launches. -/
  | waitEvaluate (chip : Nat)
  /-- R148: The distributor places a software cluster whole, or restores a saved one. -/
  | clusterPlace (launch hwcl : Nat)
  /-- R143: Reads the launch's argument block when it enters PLACING. -/
  | argsRead (launch : Nat)
  /-- R134: The distributor pre-empts a lower-priority cluster for a waiting one. -/
  | preempt (launch cluster : Nat)
  /-- R116: Writes a stopped cluster to the save area once its operations complete. -/
  | clusterSave (cluster : Nat)
  /-- R149: Moves an unpinned cluster or block to gather room. -/
  | move (unit : MoveUnit)
  /-- R152: A cluster has waited 100 µs; event raised and drain mode entered. -/
  | gangstarve (launch : Nat)
  /-- R160: A ready RESIDENT group becomes ACTIVE. -/
  | promotion (g : GroupRef)
  /-- R159: An ACTIVE group waiting 64 cycles becomes RESIDENT. -/
  | demotion (g : GroupRef)
  /-- R161: After 4,096 cycles a ready group displaces the longest-active group. -/
  | forcedRotation (g : GroupRef)
  /-- R282: A sealed batch retires in seal order, recording any error. -/
  | batchRetire (g : GroupRef) (cls : Nat)
  /-- R155: A DRAINING launch completes its final release and becomes DONE. -/
  | launchDone (launch : Nat)
  /-- R135: The CLD checks and appends a device-side launch record. -/
  | launchAppend (op : Nat)
  /-- R245: A copy leaves the head of the copy queue, starting or parking. -/
  | copyStart (chip core : Nat)
  /-- R297: A copy or multicast completes with a status. -/
  | copyComplete (op : Nat)
  /-- R298: A copy walk meets a fault and is handed to the management processor. -/
  | copyWalkFault (op : Nat)
  /-- R298: System software's RESUME continues the walk at the faulting element. -/
  | copyxlateResume (chip request : Nat)
  /-- R298: System software's REFUSE completes the copy with XLATE. -/
  | copyxlateRefuse (chip request : Nat)
  /-- R298: A held copy whose link stays out for 1 ms completes with LINK. -/
  | copyLinkTimeout (op : Nat)
  /-- R296: A multicast arrival lands or is discarded as LATE. -/
  | mcastArrival (op dest : Nat)
  /-- R257: An engine operation completes, moving its tiles and starting the next. -/
  | engineOpComplete (chip core engine : Nat)
  /-- R243: A vtot write lands and its tile leaves FILLING. -/
  | vtotLand (block tile : Nat)
  /-- R253: All listed groups are held on matching words and the tiles allow issue; the operation issues once. -/
  | rendezvousComplete (block : Nat)
  /-- R254: A group held 1 ms in the latch makes every held group take QUORUM. -/
  | latchTimeout (block : Nat)
  /-- R313: A plain store performs within 4 µs of issue. -/
  | storePerform (g : GroupRef) (id : Nat)
  /-- R319: A line write becomes visible at its home once the lease horizon passes. -/
  | writeVisible (line : Nat)
  /-- R324: A destination acknowledges the flush markers of every path; the release may perform. -/
  | flushAck (g : GroupRef) (dest : Nat)
  /-- R337: The home CLD combines a reduction window once all rwcl arrive. -/
  | windowCombine (base : Nat)
  /-- R382: The commit engine locks lines, rereads and commits or aborts a region. -/
  | regionCommit (g : GroupRef)
  /-- R381: The commit outcome arrives and the group fixes up or restores. -/
  | regionOutcome (g : GroupRef)
  /-- R346: A TBCFG write setting EN zero-fills the region and enters FORMING. -/
  | seatEnable (chip : Nat) (value : DWord)
  /-- R346: A TBCFG write clearing EN removes or releases the seat. -/
  | seatDisable (chip : Nat) (value : DWord)
  /-- R345: Any TBCFG write to a DEPARTED seat with EN 0 moves it to OFF first. -/
  | seatRelease (chip : Nat) (value : DWord)
  /-- R363: A TBEVICT write with GO starts removal of a seat. -/
  | tbevict (chip : Nat) (value : DWord)
  /-- R346: A formation hello arrives; a FORMING seat enters LIVE once all have answered. -/
  | hello (chip sender : Nat)
  /-- R351: An update or turn packet arrives, is racked and eligible ones are applied. -/
  | tablePacketReceive (chip packet : Nat)
  /-- R356: A turn request reaches the shooter and is granted or redirected. -/
  | turnRequest (message : Nat)
  /-- R356: A grant reaches the issuer, which broadcasts the strong packet. -/
  | turnGrant (message : Nat)
  /-- R358: A redirect makes the requester re-send to the new shooter. -/
  | turnRedirect (message : Nat)
  /-- R358: After 1,023 turns the shooter grants itself a handoff turn. -/
  | handoff (chip : Nat)
  /-- R366: An applied entry reaching 2^23 makes the shooter grant a rebase turn. -/
  | rebase (chip : Nat)
  /-- R354: Every 2 µs a seat broadcasts its applied vector. -/
  | vectorBroadcast (chip : Nat)
  /-- R354: An applied vector arrives and stability, retirement and rebase switch advance. -/
  | vectorReceive (chip message : Nat)
  /-- R365: Every 1 ms while the recent-write table is 75 % full without progress, event LAG. -/
  | lag (chip : Nat)
  /-- R363: The coordinator gathers seat reports and relays the prefix and turns. -/
  | memberCollect (chip : Nat)
  /-- R363: Once all seats apply through H, the view rises and MEMBER is raised. -/
  | viewInstall (chip : Nat)
  /-- R392: A page walk returns a leaf or a fault. -/
  | walkComplete (chip ctx page : Nat)
  /-- R403: At least every 1 µs a walk stalled on MIG is retried. -/
  | migRewalk (chip ctx page : Nat)
  /-- R407: XINV GO with scope 0 removes leaves covering one page. -/
  | invalidatePage (chip : Nat) (value : DWord)
  /-- R407: XINV GO with scope 1 removes every translation of a context. -/
  | invalidateContext (chip : Nat) (value : DWord)
  /-- R407: XINV GO with scope 2 removes one cached aperture entry. -/
  | invalidateAperture (chip : Nat) (value : DWord)
  /-- R407: An invalidation's conditions are met and BUSY clears. -/
  | invalidateDone (chip : Nat)
  /-- R411: A host CXL.mem write back-invalidates and performs, or gets a poisoned completion. -/
  | hostMemWrite (pkg addr : Nat) (bytes : List Byte)
  /-- R411: A host CXL.mem read returns the frame's bytes. -/
  | hostMemRead (pkg addr len : Nat)
  /-- R414: A die-to-die flit arrives; a CRC failure is replayed. -/
  | flitReceive (pkg link : Nat) (flit : List Byte)
  /-- R416: A transport packet arrives, is acknowledged and duplicates dropped. -/
  | fabricPacketReceive (src dest seq path : Nat)
  /-- R416: A packet unacknowledged for 20 µs is resent on another path; the path may die. -/
  | retransmitTimeout (src dest seq : Nat)
  /-- R416: Every 100 µs a dead path is probed and may live again. -/
  | pathProbe (src dest path : Nat) (answered : Bool)
  /-- R418: A link partner is detected and training starts. -/
  | partnerDetect (pkg link : Nat)
  /-- R418: Physical training ends and versions are exchanged. -/
  | physicalUp (pkg link : Nat) (outcome : Training)
  /-- R418: A link not up in 100 ms returns to DOWN. -/
  | trainingTimeout (pkg link : Nat)
  /-- R419: The partner's version advertisement arrives; the link goes UP, DEGRADED or FENCED. -/
  | negotiate (pkg link lowest highest : Nat)
  /-- R418: Lanes, modules or the Ethernet link are lost. -/
  | laneLoss (pkg link remaining : Nat)
  /-- R418: Lanes, modules or a path are regained. -/
  | laneRegain (pkg link width : Nat)
  /-- R420: LKCTL.FENCE fences a link. -/
  | linkFence (pkg link : Nat)
  /-- R420: LKCTL.RETRAIN retrains a FENCED or DOWN link. -/
  | linkRetrain (pkg link : Nat)
  /-- R424: Selects context and core and snapshots the counters. -/
  | prselWrite (chip : Nat) (value : DWord)
  /-- R424: PRCFG.CLR zeroes the selected core's counters. -/
  | counterClear (chip : Nat) (value : DWord)
  /-- R431: TRG.ARM arms the trace trigger. -/
  | triggerArm (chip : Nat) (value : DWord)
  /-- R437: Resumes one or all STOPPED groups. -/
  | prres (chip : Nat) (value : DWord)
  /-- R426: Each sampling period a core writes a SAMPLE record. -/
  | sampleTick (chip core ctx : Nat)
  /-- R434: After the halt and drains, writes the core dump and raises DUMPDONE. -/
  | dumpWrite (chip ctx : Nat)
  /-- R440: Power-on runs ROM and clears measurements and chain head. -/
  | powerOn (pkg : Nat)
  /-- R442: A stage image is measured and verified, then runs or leaves RECOVERY. -/
  | bootStage (chip : Nat) (image : StageImage)
  /-- R442: A signed command makes stage 1 blow fuses. -/
  | fuseWrite (chip : Nat) (command : FuseCommand)
  /-- R444: SPDM GET_VERSION request. -/
  | getVersion (pkg : Nat)
  /-- R444: SPDM GET_CAPABILITIES request. -/
  | getCapabilities (pkg version : Nat)
  /-- R444: SPDM NEGOTIATE_ALGORITHMS request. -/
  | negotiateAlgorithms (pkg version : Nat)
  /-- R444: SPDM GET_DIGESTS request. -/
  | getDigests (pkg version : Nat)
  /-- R444: SPDM GET_CERTIFICATE request. -/
  | getCertificate (pkg version offset len : Nat)
  /-- R444: SPDM CHALLENGE request. -/
  | challenge (pkg version : Nat) (nonce : List Byte)
  /-- R444: SPDM GET_MEASUREMENTS request. -/
  | getMeasurements (pkg version index : Nat) (nonce : List Byte)
  /-- R445: Firmware submits a FIRMWARE audit record. -/
  | firmwareRecord (chip ctx : Nat) (payload : List Byte)
  /-- R447: An AUDCTL.RD write frees ring room and releases stalled appends. -/
  | auditConsume (chip : Nat) (value : DWord)
  /-- R448: Every 10 µs sensors are read; over 110 °C the chip goes SAFE. -/
  | sensorRead (chip temp ring : Nat)
  /-- R448: Every 1 ms the clock is lowered or raised one step with THERMAL or VOLTAGE. -/
  | clockStep (chip : Nat)
  /-- R448: A droop beyond 8 % for 4 cycles stretches the clock. -/
  | droop (chip hwcl percent cycles : Nat)
  /-- R450: No group resident for 100 µs moves the chip to IDLE. -/
  | idleTimer (chip : Nat)
  /-- R4: A write to a register with no behaviour of its own sets its RW fields. -/
  | registerWrite (chip offset : Nat) (value : DWord)
  /-- R59: A group issues a word of class 0xF, a reserved function code or a bad field, which raises fault ILLEGAL before any
  effect. -/
  | illegalWord (w : Word)
  /-- R315: An unordered vredadd, vredmin or vredmax is applied atomically at its home and its rd batch operation completes. -/
  | reductionComplete (op : Nat)
  /-- R339: A cput, cget or cred reaches its peer target, is applied or read, and its co batch operation completes with a
  status. -/
  | collectiveComplete (op : Nat)
  /-- R448: The droop detector reports the droop over and the clock stretch ends. -/
  | droopEnd (chip hwcl : Nat)
  /-- R449: The package loses power, which alone ends a SAFE chip's state and every other state. -/
  | powerOff (pkg : Nat)
  /-- R122: Space frees in a chip's event ring and the management processor writes the records it held in order. -/
  | eventSpaceFreed (chip records : Nat)
  /-- R420: System software reads a register whose fields are RC, such as LKSTAT, which returns and clears REPLAY. -/
  | registerRead (chip offset : Nat)
  deriving DecidableEq, Repr

end Sys2Proof
end

