-- ==== Sys2Proof/WellFormed.lean ====
section
/-! DEFINITION. The encoding limits of an instruction word (03 R59, R71 to R75, R78, R84): what makes an instruction of the
syntax one that a word can hold. -/
namespace Sys2Proof

/-- Why a word is ILLEGAL (03 R59). -/
inductive Reject
  /-- Fewer than four bytes. -/
  | shortWord
  /-- Class 0xF. -/
  | noClass
  /-- A function code marked reserved. -/
  | reservedFunction
  /-- A field marked — holds a nonzero value. -/
  | strayField
  /-- A scalar field holds 192 to 255, or a multi-register operand extends beyond s191. -/
  | noScalar
  /-- A predicate field holds 12 to 15. -/
  | noPredicate
  /-- An operand breaks a limit of its class map. -/
  | brokenLimit
  deriving DecidableEq, Repr

/-- A scalar register field (03 R59). -/
def scalar (r : BitVec 8) : Option Reject := if r.toNat < 192 then none else some .noScalar
/-- A scalar operand of n registers (03 R59, R73, R74). -/
def scalars (r : BitVec 8) (n : Nat) : Option Reject := if r.toNat + n ≤ 192 then none else some .noScalar
/-- A predicate register field (03 R59). -/
def predicate (p : BitVec 4) : Option Reject := if p.toNat < 12 then none else some .noPredicate
/-- A limit of a class map (03 R59). -/
def limit (c : Bool) : Option Reject := if c then none else some .brokenLimit
/-- The second operand of `cpy`: a tile in its low five bits for directions 1 and 2, a scalar otherwise (03 R74). -/
def copyOperand (y : BitVec 8) (r : BitVec 2) : Option Reject :=
  if r = 1 ∨ r = 2 then (if y.toNat < 32 then none else some .strayField) else scalar y

/-- The mask of `opf` names no register above v127 (03 R75). -/
def opfInRange (b : BitVec 6) (m : BitVec 16) : Bool :=
  (upTo 16).all fun i => !m.getLsbD i || decide (2 * b.toNat + i < 128)
/-- With H set, value[17:7] of `mode` is zero (03 R78). -/
def modeHighClean (i : BitVec 22) : Bool := !i.getLsbD 18 || fieldOf i.toNat 7 11 == 0
/-- The system-register numbers that are listed (03 R84). -/
def sysListed (n : Nat) : Bool :=
  decide (n < 8) || (decide (0x10 ≤ n) && decide (n < 0x18)) || n == 0x20 || (decide (0x100 ≤ n) && decide (n < 0x107))
/-- A barrier id within its level's count (03 R74). -/
def barrierIdOk (l : BitVec 2) (i : BitVec 4) : Bool :=
  decide (i.toNat ≤ match l.toNat with | 0 => 0 | 1 => 15 | 2 => 7 | _ => 3)

/-- The first of several checks that fails. -/
def firstReject : List (Option Reject) → Option Reject
  | [] => none
  | none :: r => firstReject r
  | some e :: _ => some e

/-- The encoding limit an instruction breaks, if any; a step without a word breaks none. -/
def rejectOf (i : Instr) : Option Reject :=
  match i with
  | .vadd _ _ _ _ => none
  | .vsub _ _ _ _ => none
  | .vmul _ _ _ _ => none
  | .vmulh _ _ _ _ => none
  | .vdiv _ _ _ _ => none
  | .vrem _ _ _ _ => none
  | .vmin _ _ _ _ => none
  | .vmax _ _ _ _ => none
  | .vand _ _ _ _ => none
  | .vor _ _ _ _ => none
  | .vxor _ _ _ _ => none
  | .vshl _ _ _ _ => none
  | .vshr _ _ _ _ => none
  | .vsra _ _ _ _ => none
  | .vrot _ _ _ _ => none
  | .vsel _ _ _ _ => none
  | .vabsd _ _ _ _ => none
  | .vcsgn _ _ _ _ => none
  | .vpk _ _ _ _ => none
  | .vmad _ _ _ _ => none
  | .vmsb _ _ _ _ => none
  | .vclmp _ _ _ _ => none
  | .vdot4 _ _ _ _ => none
  | .vmov _ _ _ => none
  | .vneg _ _ _ => none
  | .vabs _ _ _ => none
  | .vnot _ _ _ => none
  | .vclz _ _ _ => none
  | .vpop _ _ _ => none
  | .vbrev _ _ _ => none
  | .vcvt _ _ _ => none
  | .vrcp _ _ _ => none
  | .vrsq _ _ _ => none
  | .vsqrt _ _ _ => none
  | .vexp2 _ _ _ => none
  | .vlog2 _ _ _ => none
  | .vsin _ _ _ => none
  | .vcos _ _ _ => none
  | .vfloor _ _ _ => none
  | .vceil _ _ _ => none
  | .vtrunc _ _ _ => none
  | .vrint _ _ _ => none
  | .vfrac _ _ _ => none
  | .vclass _ _ _ => none
  | .vfree _ _ => none
  | .vadds _ s _ _ => scalar s
  | .vsubs _ s _ _ => scalar s
  | .vrsubs _ s _ _ => scalar s
  | .vmuls _ s _ _ => scalar s
  | .vmads _ s _ _ => scalar s
  | .vmins _ s _ _ => scalar s
  | .vmaxs _ s _ _ => scalar s
  | .vands _ s _ _ => scalar s
  | .vors _ s _ _ => scalar s
  | .vxors _ s _ _ => scalar s
  | .vshls _ s _ _ => scalar s
  | .vshrs _ s _ _ => scalar s
  | .vsras _ s _ _ => scalar s
  | .vbcs _ s _ => scalar s
  | .vaddi _ _ _ _ => none
  | .vmuli _ _ _ _ => none
  | .vandi _ _ _ _ => none
  | .vori _ _ _ _ => none
  | .vxori _ _ _ _ => none
  | .vshli _ _ _ _ => none
  | .vshri _ _ _ _ => none
  | .vsrai _ _ _ _ => none
  | .sadd _ d a b => firstReject [scalar d, scalar a, scalar b]
  | .ssub _ d a b => firstReject [scalar d, scalar a, scalar b]
  | .smul _ d a b => firstReject [scalar d, scalar a, scalar b]
  | .smulh _ d a b => firstReject [scalar d, scalar a, scalar b]
  | .sdiv _ d a b => firstReject [scalar d, scalar a, scalar b]
  | .srem _ d a b => firstReject [scalar d, scalar a, scalar b]
  | .smin _ d a b => firstReject [scalar d, scalar a, scalar b]
  | .smax _ d a b => firstReject [scalar d, scalar a, scalar b]
  | .sand _ d a b => firstReject [scalar d, scalar a, scalar b]
  | .sor _ d a b => firstReject [scalar d, scalar a, scalar b]
  | .sxor _ d a b => firstReject [scalar d, scalar a, scalar b]
  | .sshl _ d a b => firstReject [scalar d, scalar a, scalar b]
  | .sshr _ d a b => firstReject [scalar d, scalar a, scalar b]
  | .ssra _ d a b => firstReject [scalar d, scalar a, scalar b]
  | .sslt _ d a b => firstReject [scalar d, scalar a, scalar b]
  | .ssln _ d a b => firstReject [scalar d, scalar a, scalar b]
  | .saddi _ d a _ => firstReject [scalar d, scalar a]
  | .sandi _ d a _ => firstReject [scalar d, scalar a]
  | .sori _ d a _ => firstReject [scalar d, scalar a]
  | .sxori _ d a _ => firstReject [scalar d, scalar a]
  | .sshli _ d a _ => firstReject [scalar d, scalar a]
  | .sshri _ d a _ => firstReject [scalar d, scalar a]
  | .ssrai _ d a _ => firstReject [scalar d, scalar a]
  | .sslti _ d a _ => firstReject [scalar d, scalar a]
  | .sli _ d _ => scalar d
  | .slu _ d _ => scalar d
  | .br _ _ => none
  | .call _ _ => none
  | .jmp _ s => scalar s
  | .ret _ => none
  | .bp _ p _ _ => predicate p
  | .brd _ p _ _ => predicate p
  | .rcv _ _ => none
  | .join _ => none
  | .bz _ s _ => scalar s
  | .bnz _ s _ => scalar s
  | .loop _ s _ => scalar s
  | .exit _ => none
  | .vceq _ d _ _ => predicate d
  | .vcne _ d _ _ => predicate d
  | .vclt _ d _ _ => predicate d
  | .vcle _ d _ _ => predicate d
  | .vcun _ d _ _ => predicate d
  | .pand _ d a b => firstReject [predicate d, predicate a, predicate b]
  | .por _ d a b => firstReject [predicate d, predicate a, predicate b]
  | .pxor _ d a b => firstReject [predicate d, predicate a, predicate b]
  | .pandn _ d a b => firstReject [predicate d, predicate a, predicate b]
  | .pnot _ d a => firstReject [predicate d, predicate a]
  | .pmov _ d a => firstReject [predicate d, predicate a]
  | .pset _ d _ => predicate d
  | .pfromv _ d _ => predicate d
  | .ptov _ a _ => predicate a
  | .vbfly _ _ _ m => limit (m != 0)
  | .vshfl _ _ _ _ => none
  | .vbcast _ _ _ _ => none
  | .vrotl _ _ _ _ => none
  | .vtos _ d _ _ => scalar d
  | .stov _ _ s _ => scalar s
  | .vballot _ d p => firstReject [scalar d, predicate p]
  | .vfind _ d p => firstReject [scalar d, predicate p]
  | .vscan _ _ _ => none
  | .vred _ d _ => scalar d
  | .vlane _ _ => none
  | .vtid _ _ => none
  | .regrp _ => none
  | .vld _ s _ _ => scalar s
  | .vst _ s _ _ => scalar s
  | .prf _ s _ => scalar s
  | .vaadd _ s _ _ => scalar s
  | .vamin _ s _ _ => scalar s
  | .vamax _ s _ _ => scalar s
  | .vaand _ s _ _ => scalar s
  | .vaor _ s _ _ => scalar s
  | .vaxor _ s _ _ => scalar s
  | .vaxch _ s _ _ => scalar s
  | .vacas _ s d _ => firstReject [scalar s, limit (d.toNat % 2 == 0 && decide (d.toNat < 127))]
  | .vredadd _ s _ _ => scalar s
  | .vredmin _ s _ _ => scalar s
  | .vredmax _ s _ _ => scalar s
  | .vldx _ _ _ _ => none
  | .vstx _ _ _ _ => none
  | .vpush _ _ => none
  | .vpopSpill _ _ => none
  | .sld _ d a _ => firstReject [scalar d, scalar a]
  | .sst _ d a _ => firstReject [scalar d, scalar a]
  | .saadd _ d a _ => firstReject [scalar d, scalar a]
  | .macq _ p => predicate p
  | .mrel _ => none
  | .mquor _ s => scalar s
  | .mma _ _ _ _ => none
  | .mmas _ _ _ _ _ => none
  | .mzero _ _ => none
  | .mdrain _ _ _ => none
  | .tcfg _ _ s => scalar s
  | .tfree _ _ => none
  | .tstate _ _ d => scalar d
  | .vtot _ _ s _ => scalar s
  | .ttov _ _ s _ => scalar s
  | .kset _ s => scalars s 3
  | .spld _ _ _ => none
  | .spst _ _ _ => none
  | .spev _ _ _ => none
  | .spbwd _ _ _ _ => none
  | .spgrd _ _ _ _ _ => none
  | .sprf _ => none
  | .spoog _ d => scalar d
  | .cpy _ _ x y r => firstReject [scalar x, copyOperand y r]
  | .cpyt _ _ s => scalars s 8
  | .mcast _ _ s m => firstReject [scalar s, scalar m]
  | .seal _ _ => none
  | .waitb _ _ _ => none
  | .bstat _ _ d => scalar d
  | .bar _ l i => limit (barrierIdOk l i)
  | .bara _ l i => limit (barrierIdOk l i)
  | .barw _ l i => limit (barrierIdOk l i)
  | .barq _ l i d => firstReject [scalar d, limit (barrierIdOk l i)]
  | .cput _ _ _ _ => none
  | .cget _ _ _ _ => none
  | .cred _ _ _ _ => none
  | .osig _ d => scalar d
  | .rwin _ s => scalars s 3
  | .rwcl _ => none
  | .bset _ _ s => scalar s
  | .bget _ _ d => scalar d
  | .nop _ => none
  | .mode _ i => limit (modeHighClean i)
  | .fmt _ _ => none
  | .srd _ d s => firstReject [scalar d, limit (sysListed s.toNat)]
  | .swr _ a s => firstReject [scalar a, limit (sysListed s.toNat)]
  | .fence _ => none
  | .trap _ _ => none
  | .eret _ => none
  | .brk _ _ => none
  | .halt _ => none
  | .yield _ => none
  | .opf _ b m => limit (opfInRange b m)
  | .ixw _ _ b l => limit (l != 0 && decide (b.toNat + l.toNat ≤ 128))
  | .ab _ _ => none
  | .ac _ => none
  | .aa _ => none
  | .turn _ => none
  | .tsync _ => none
  | .tblq _ d _ => scalar d
  | .launch _ s => scalar s
  | .probe _ _ => none
  | .rdtime _ d => scalar d
  | .modeRestore _ => none
  | .resultWriteback _ _ => none
  | .trapDeliver _ => none
  | .create _ _ => none
  | .bind _ _ _ => none
  | .suspend _ _ => none
  | .resume _ _ => none
  | .release _ _ => none
  | .contextDrainEnd _ _ => none
  | .scrubDone _ _ => none
  | .queueEnable _ _ _ => none
  | .queueDisable _ _ _ => none
  | .doorbell _ _ _ => none
  | .queueStopClear _ _ => none
  | .recordRead _ _ => none
  | .waitEvaluate _ => none
  | .clusterPlace _ _ => none
  | .argsRead _ => none
  | .preempt _ _ => none
  | .clusterSave _ => none
  | .move _ => none
  | .gangstarve _ => none
  | .promotion _ => none
  | .demotion _ => none
  | .forcedRotation _ => none
  | .batchRetire _ _ => none
  | .launchDone _ => none
  | .launchAppend _ => none
  | .copyStart _ _ => none
  | .copyComplete _ => none
  | .copyWalkFault _ => none
  | .copyxlateResume _ _ => none
  | .copyxlateRefuse _ _ => none
  | .copyLinkTimeout _ => none
  | .mcastArrival _ _ => none
  | .engineOpComplete _ _ _ => none
  | .vtotLand _ _ => none
  | .rendezvousComplete _ => none
  | .latchTimeout _ => none
  | .storePerform _ _ => none
  | .writeVisible _ => none
  | .flushAck _ _ => none
  | .windowCombine _ => none
  | .regionCommit _ => none
  | .regionOutcome _ => none
  | .seatEnable _ _ => none
  | .seatDisable _ _ => none
  | .seatRelease _ _ => none
  | .tbevict _ _ => none
  | .hello _ _ => none
  | .tablePacketReceive _ _ => none
  | .turnRequest _ => none
  | .turnGrant _ => none
  | .turnRedirect _ => none
  | .handoff _ => none
  | .rebase _ => none
  | .vectorBroadcast _ => none
  | .vectorReceive _ _ => none
  | .lag _ => none
  | .memberCollect _ => none
  | .viewInstall _ => none
  | .walkComplete _ _ _ => none
  | .migRewalk _ _ _ => none
  | .invalidatePage _ _ => none
  | .invalidateContext _ _ => none
  | .invalidateAperture _ _ => none
  | .invalidateDone _ => none
  | .hostMemWrite _ _ _ => none
  | .hostMemRead _ _ _ => none
  | .flitReceive _ _ _ => none
  | .fabricPacketReceive _ _ _ _ => none
  | .retransmitTimeout _ _ _ => none
  | .pathProbe _ _ _ _ => none
  | .partnerDetect _ _ => none
  | .physicalUp _ _ _ => none
  | .trainingTimeout _ _ => none
  | .negotiate _ _ _ _ => none
  | .laneLoss _ _ _ => none
  | .laneRegain _ _ _ => none
  | .linkFence _ _ => none
  | .linkRetrain _ _ => none
  | .prselWrite _ _ => none
  | .counterClear _ _ => none
  | .triggerArm _ _ => none
  | .prres _ _ => none
  | .sampleTick _ _ _ => none
  | .dumpWrite _ _ => none
  | .powerOn _ => none
  | .bootStage _ _ => none
  | .fuseWrite _ _ => none
  | .getVersion _ => none
  | .getCapabilities _ _ => none
  | .negotiateAlgorithms _ _ => none
  | .getDigests _ _ => none
  | .getCertificate _ _ _ _ => none
  | .challenge _ _ _ => none
  | .getMeasurements _ _ _ _ => none
  | .firmwareRecord _ _ _ => none
  | .auditConsume _ _ => none
  | .sensorRead _ _ _ => none
  | .clockStep _ => none
  | .droop _ _ _ _ => none
  | .idleTimer _ => none
  | .registerWrite _ _ _ => none
  | .illegalWord _ => none
  | .reductionComplete _ => none
  | .collectiveComplete _ => none
  | .droopEnd _ _ => none
  | .powerOff _ => none
  | .eventSpaceFreed _ _ => none
  | .registerRead _ _ => none

/-- The instruction keeps every encoding limit. -/
def WellFormed (i : Instr) : Prop := rejectOf i = none

end Sys2Proof
end

