-- ==== Sys2Proof/Decode.lean ====
section
/-! DEFINITION. Instruction words: which word means which instruction (03 R54, R58, R59, R61, R63 to R75), and the word of
each instruction. A field is a quotient and a remainder of the word, a word is a sum of fields in their places. -/
namespace Sys2Proof

/-- The field of w of a width whose lowest bit is lo. -/
def wordField (w lo width : Nat) : BitVec width := BitVec.ofNat width (w / 2 ^ lo)

/-- Whether the bits of w from lo up, `width` of them, are zero: a field marked — (03 R59). -/
def zeroField (w lo width : Nat) : Bool := w / 2 ^ lo % 2 ^ width == 0

/-- The switch marker of a word (03 R54). -/
def wordK (w : Nat) : Bool := w / 2 ^ 31 % 2 == 1

/-- An instruction whose — fields are as given. -/
def decoded (clean : Bool) (i : Instr) : Except Reject Instr := if clean then .ok i else .error .strayField

/-- The VR class (03 R63). -/
def decodeVR (w : Nat) : Except Reject Instr :=
  match w / 2 ^ 21 % 2 ^ 6 with
  | 1 => .ok (.vadd (wordK w) (wordField w 14 7) (wordField w 7 7) (wordField w 0 7))
  | 2 => .ok (.vsub (wordK w) (wordField w 14 7) (wordField w 7 7) (wordField w 0 7))
  | 3 => .ok (.vmul (wordK w) (wordField w 14 7) (wordField w 7 7) (wordField w 0 7))
  | 4 => .ok (.vmulh (wordK w) (wordField w 14 7) (wordField w 7 7) (wordField w 0 7))
  | 5 => .ok (.vdiv (wordK w) (wordField w 14 7) (wordField w 7 7) (wordField w 0 7))
  | 6 => .ok (.vrem (wordK w) (wordField w 14 7) (wordField w 7 7) (wordField w 0 7))
  | 7 => .ok (.vmin (wordK w) (wordField w 14 7) (wordField w 7 7) (wordField w 0 7))
  | 8 => .ok (.vmax (wordK w) (wordField w 14 7) (wordField w 7 7) (wordField w 0 7))
  | 9 => .ok (.vand (wordK w) (wordField w 14 7) (wordField w 7 7) (wordField w 0 7))
  | 10 => .ok (.vor (wordK w) (wordField w 14 7) (wordField w 7 7) (wordField w 0 7))
  | 11 => .ok (.vxor (wordK w) (wordField w 14 7) (wordField w 7 7) (wordField w 0 7))
  | 12 => .ok (.vshl (wordK w) (wordField w 14 7) (wordField w 7 7) (wordField w 0 7))
  | 13 => .ok (.vshr (wordK w) (wordField w 14 7) (wordField w 7 7) (wordField w 0 7))
  | 14 => .ok (.vsra (wordK w) (wordField w 14 7) (wordField w 7 7) (wordField w 0 7))
  | 15 => .ok (.vrot (wordK w) (wordField w 14 7) (wordField w 7 7) (wordField w 0 7))
  | 16 => .ok (.vsel (wordK w) (wordField w 14 7) (wordField w 7 7) (wordField w 0 7))
  | 17 => .ok (.vabsd (wordK w) (wordField w 14 7) (wordField w 7 7) (wordField w 0 7))
  | 18 => .ok (.vcsgn (wordK w) (wordField w 14 7) (wordField w 7 7) (wordField w 0 7))
  | 19 => .ok (.vpk (wordK w) (wordField w 14 7) (wordField w 7 7) (wordField w 0 7))
  | _ => .error .reservedFunction

/-- The VU class (03 R64). -/
def decodeVU (w : Nat) : Except Reject Instr :=
  match w / 2 ^ 21 % 2 ^ 6 with
  | 1 => .ok (.vmad (wordK w) (wordField w 14 7) (wordField w 7 7) (wordField w 0 7))
  | 2 => .ok (.vmsb (wordK w) (wordField w 14 7) (wordField w 7 7) (wordField w 0 7))
  | 3 => .ok (.vclmp (wordK w) (wordField w 14 7) (wordField w 7 7) (wordField w 0 7))
  | 4 => .ok (.vdot4 (wordK w) (wordField w 14 7) (wordField w 7 7) (wordField w 0 7))
  | 5 => decoded (zeroField w 0 7) (.vmov (wordK w) (wordField w 14 7) (wordField w 7 7))
  | 6 => decoded (zeroField w 0 7) (.vneg (wordK w) (wordField w 14 7) (wordField w 7 7))
  | 7 => decoded (zeroField w 0 7) (.vabs (wordK w) (wordField w 14 7) (wordField w 7 7))
  | 8 => decoded (zeroField w 0 7) (.vnot (wordK w) (wordField w 14 7) (wordField w 7 7))
  | 9 => decoded (zeroField w 0 7) (.vclz (wordK w) (wordField w 14 7) (wordField w 7 7))
  | 10 => decoded (zeroField w 0 7) (.vpop (wordK w) (wordField w 14 7) (wordField w 7 7))
  | 11 => decoded (zeroField w 0 7) (.vbrev (wordK w) (wordField w 14 7) (wordField w 7 7))
  | 12 => decoded (zeroField w 0 7) (.vcvt (wordK w) (wordField w 14 7) (wordField w 7 7))
  | 13 => decoded (zeroField w 0 7) (.vrcp (wordK w) (wordField w 14 7) (wordField w 7 7))
  | 14 => decoded (zeroField w 0 7) (.vrsq (wordK w) (wordField w 14 7) (wordField w 7 7))
  | 15 => decoded (zeroField w 0 7) (.vsqrt (wordK w) (wordField w 14 7) (wordField w 7 7))
  | 16 => decoded (zeroField w 0 7) (.vexp2 (wordK w) (wordField w 14 7) (wordField w 7 7))
  | 17 => decoded (zeroField w 0 7) (.vlog2 (wordK w) (wordField w 14 7) (wordField w 7 7))
  | 18 => decoded (zeroField w 0 7) (.vsin (wordK w) (wordField w 14 7) (wordField w 7 7))
  | 19 => decoded (zeroField w 0 7) (.vcos (wordK w) (wordField w 14 7) (wordField w 7 7))
  | 20 => decoded (zeroField w 0 7) (.vfloor (wordK w) (wordField w 14 7) (wordField w 7 7))
  | 21 => decoded (zeroField w 0 7) (.vceil (wordK w) (wordField w 14 7) (wordField w 7 7))
  | 22 => decoded (zeroField w 0 7) (.vtrunc (wordK w) (wordField w 14 7) (wordField w 7 7))
  | 23 => decoded (zeroField w 0 7) (.vrint (wordK w) (wordField w 14 7) (wordField w 7 7))
  | 24 => decoded (zeroField w 0 7) (.vfrac (wordK w) (wordField w 14 7) (wordField w 7 7))
  | 25 => decoded (zeroField w 0 7) (.vclass (wordK w) (wordField w 14 7) (wordField w 7 7))
  | 26 => decoded (zeroField w 0 14) (.vfree (wordK w) (wordField w 14 7))
  | _ => .error .reservedFunction

/-- The VS class (03 R66). -/
def decodeVS (w : Nat) : Except Reject Instr :=
  match w / 2 ^ 22 % 2 ^ 5 with
  | 1 => .ok (.vadds (wordK w) (wordField w 14 8) (wordField w 7 7) (wordField w 0 7))
  | 2 => .ok (.vsubs (wordK w) (wordField w 14 8) (wordField w 7 7) (wordField w 0 7))
  | 3 => .ok (.vrsubs (wordK w) (wordField w 14 8) (wordField w 7 7) (wordField w 0 7))
  | 4 => .ok (.vmuls (wordK w) (wordField w 14 8) (wordField w 7 7) (wordField w 0 7))
  | 5 => .ok (.vmads (wordK w) (wordField w 14 8) (wordField w 7 7) (wordField w 0 7))
  | 6 => .ok (.vmins (wordK w) (wordField w 14 8) (wordField w 7 7) (wordField w 0 7))
  | 7 => .ok (.vmaxs (wordK w) (wordField w 14 8) (wordField w 7 7) (wordField w 0 7))
  | 8 => .ok (.vands (wordK w) (wordField w 14 8) (wordField w 7 7) (wordField w 0 7))
  | 9 => .ok (.vors (wordK w) (wordField w 14 8) (wordField w 7 7) (wordField w 0 7))
  | 10 => .ok (.vxors (wordK w) (wordField w 14 8) (wordField w 7 7) (wordField w 0 7))
  | 11 => .ok (.vshls (wordK w) (wordField w 14 8) (wordField w 7 7) (wordField w 0 7))
  | 12 => .ok (.vshrs (wordK w) (wordField w 14 8) (wordField w 7 7) (wordField w 0 7))
  | 13 => .ok (.vsras (wordK w) (wordField w 14 8) (wordField w 7 7) (wordField w 0 7))
  | 14 => decoded (zeroField w 0 7) (.vbcs (wordK w) (wordField w 14 8) (wordField w 7 7))
  | _ => .error .reservedFunction

/-- The VI class (03 R67). -/
def decodeVI (w : Nat) : Except Reject Instr :=
  match w / 2 ^ 24 % 2 ^ 3 with
  | 0 => .ok (.vaddi (wordK w) (wordField w 17 7) (wordField w 10 7) (wordField w 0 10))
  | 1 => .ok (.vmuli (wordK w) (wordField w 17 7) (wordField w 10 7) (wordField w 0 10))
  | 2 => .ok (.vandi (wordK w) (wordField w 17 7) (wordField w 10 7) (wordField w 0 10))
  | 3 => .ok (.vori (wordK w) (wordField w 17 7) (wordField w 10 7) (wordField w 0 10))
  | 4 => .ok (.vxori (wordK w) (wordField w 17 7) (wordField w 10 7) (wordField w 0 10))
  | 5 => decoded (zeroField w 6 4) (.vshli (wordK w) (wordField w 17 7) (wordField w 10 7) (wordField w 0 6))
  | 6 => decoded (zeroField w 6 4) (.vshri (wordK w) (wordField w 17 7) (wordField w 10 7) (wordField w 0 6))
  | 7 => decoded (zeroField w 6 4) (.vsrai (wordK w) (wordField w 17 7) (wordField w 10 7) (wordField w 0 6))
  | _ => .error .reservedFunction

/-- The SA class (03 R68). -/
def decodeSA (w : Nat) : Except Reject Instr :=
  match w / 2 ^ 24 % 2 ^ 3 with
  | 0 => .ok (.sadd (wordK w) (wordField w 16 8) (wordField w 8 8) (wordField w 0 8))
  | 1 => .ok (.ssub (wordK w) (wordField w 16 8) (wordField w 8 8) (wordField w 0 8))
  | 2 => .ok (.smul (wordK w) (wordField w 16 8) (wordField w 8 8) (wordField w 0 8))
  | 3 => .ok (.smulh (wordK w) (wordField w 16 8) (wordField w 8 8) (wordField w 0 8))
  | 4 => .ok (.sdiv (wordK w) (wordField w 16 8) (wordField w 8 8) (wordField w 0 8))
  | 5 => .ok (.srem (wordK w) (wordField w 16 8) (wordField w 8 8) (wordField w 0 8))
  | 6 => .ok (.smin (wordK w) (wordField w 16 8) (wordField w 8 8) (wordField w 0 8))
  | 7 => .ok (.smax (wordK w) (wordField w 16 8) (wordField w 8 8) (wordField w 0 8))
  | _ => .error .reservedFunction

/-- The SB class (03 R68). -/
def decodeSB (w : Nat) : Except Reject Instr :=
  match w / 2 ^ 24 % 2 ^ 3 with
  | 0 => .ok (.sand (wordK w) (wordField w 16 8) (wordField w 8 8) (wordField w 0 8))
  | 1 => .ok (.sor (wordK w) (wordField w 16 8) (wordField w 8 8) (wordField w 0 8))
  | 2 => .ok (.sxor (wordK w) (wordField w 16 8) (wordField w 8 8) (wordField w 0 8))
  | 3 => .ok (.sshl (wordK w) (wordField w 16 8) (wordField w 8 8) (wordField w 0 8))
  | 4 => .ok (.sshr (wordK w) (wordField w 16 8) (wordField w 8 8) (wordField w 0 8))
  | 5 => .ok (.ssra (wordK w) (wordField w 16 8) (wordField w 8 8) (wordField w 0 8))
  | 6 => .ok (.sslt (wordK w) (wordField w 16 8) (wordField w 8 8) (wordField w 0 8))
  | 7 => .ok (.ssln (wordK w) (wordField w 16 8) (wordField w 8 8) (wordField w 0 8))
  | _ => .error .reservedFunction

/-- The SI class (03 R68). -/
def decodeSI (w : Nat) : Except Reject Instr :=
  match w / 2 ^ 24 % 2 ^ 3 with
  | 0 => .ok (.saddi (wordK w) (wordField w 16 8) (wordField w 8 8) (wordField w 0 8))
  | 1 => .ok (.sandi (wordK w) (wordField w 16 8) (wordField w 8 8) (wordField w 0 8))
  | 2 => .ok (.sori (wordK w) (wordField w 16 8) (wordField w 8 8) (wordField w 0 8))
  | 3 => .ok (.sxori (wordK w) (wordField w 16 8) (wordField w 8 8) (wordField w 0 8))
  | 4 => decoded (zeroField w 6 2) (.sshli (wordK w) (wordField w 16 8) (wordField w 8 8) (wordField w 0 6))
  | 5 => decoded (zeroField w 6 2) (.sshri (wordK w) (wordField w 16 8) (wordField w 8 8) (wordField w 0 6))
  | 6 => decoded (zeroField w 6 2) (.ssrai (wordK w) (wordField w 16 8) (wordField w 8 8) (wordField w 0 6))
  | 7 => .ok (.sslti (wordK w) (wordField w 16 8) (wordField w 8 8) (wordField w 0 8))
  | _ => .error .reservedFunction

/-- The SL class (03 R68). -/
def decodeSL (w : Nat) : Except Reject Instr :=
  match w / 2 ^ 26 % 2 ^ 1 with
  | 0 => .ok (.sli (wordK w) (wordField w 18 8) (wordField w 0 18))
  | 1 => .ok (.slu (wordK w) (wordField w 18 8) (wordField w 0 18))
  | _ => .error .reservedFunction

/-- The CF class (03 R69). -/
def decodeCF (w : Nat) : Except Reject Instr :=
  match w / 2 ^ 23 % 2 ^ 4 with
  | 1 => .ok (.br (wordK w) (wordField w 0 23))
  | 2 => .ok (.call (wordK w) (wordField w 0 23))
  | 3 => decoded (zeroField w 0 15) (.jmp (wordK w) (wordField w 15 8))
  | 4 => decoded (zeroField w 0 23) (.ret (wordK w))
  | 5 => .ok (.bp (wordK w) (wordField w 19 4) (wordField w 18 1) (wordField w 0 18))
  | 6 => .ok (.brd (wordK w) (wordField w 19 4) (wordField w 18 1) (wordField w 0 18))
  | 7 => .ok (.rcv (wordK w) (wordField w 0 23))
  | 8 => decoded (zeroField w 0 23) (.join (wordK w))
  | 9 => .ok (.bz (wordK w) (wordField w 15 8) (wordField w 0 15))
  | 10 => .ok (.bnz (wordK w) (wordField w 15 8) (wordField w 0 15))
  | 11 => .ok (.loop (wordK w) (wordField w 15 8) (wordField w 0 15))
  | 12 => decoded (zeroField w 0 23) (.exit (wordK w))
  | _ => .error .reservedFunction

/-- The PV class (03 R70). -/
def decodePV (w : Nat) : Except Reject Instr :=
  match w / 2 ^ 23 % 2 ^ 4 with
  | 1 => decoded (zeroField w 0 5) (.vceq (wordK w) (wordField w 19 4) (wordField w 12 7) (wordField w 5 7))
  | 2 => decoded (zeroField w 0 5) (.vcne (wordK w) (wordField w 19 4) (wordField w 12 7) (wordField w 5 7))
  | 3 => decoded (zeroField w 0 5) (.vclt (wordK w) (wordField w 19 4) (wordField w 12 7) (wordField w 5 7))
  | 4 => decoded (zeroField w 0 5) (.vcle (wordK w) (wordField w 19 4) (wordField w 12 7) (wordField w 5 7))
  | 5 => decoded (zeroField w 0 5) (.vcun (wordK w) (wordField w 19 4) (wordField w 12 7) (wordField w 5 7))
  | 6 => decoded (zeroField w 0 11) (.pand (wordK w) (wordField w 19 4) (wordField w 15 4) (wordField w 11 4))
  | 7 => decoded (zeroField w 0 11) (.por (wordK w) (wordField w 19 4) (wordField w 15 4) (wordField w 11 4))
  | 8 => decoded (zeroField w 0 11) (.pxor (wordK w) (wordField w 19 4) (wordField w 15 4) (wordField w 11 4))
  | 9 => decoded (zeroField w 0 11) (.pandn (wordK w) (wordField w 19 4) (wordField w 15 4) (wordField w 11 4))
  | 10 => decoded (zeroField w 0 15) (.pnot (wordK w) (wordField w 19 4) (wordField w 15 4))
  | 11 => decoded (zeroField w 0 15) (.pmov (wordK w) (wordField w 19 4) (wordField w 15 4))
  | 12 => decoded (zeroField w 0 18) (.pset (wordK w) (wordField w 19 4) (wordField w 18 1))
  | 13 => decoded (zeroField w 0 12) (.pfromv (wordK w) (wordField w 19 4) (wordField w 12 7))
  | 14 => decoded (zeroField w 0 12) (.ptov (wordK w) (wordField w 19 4) (wordField w 12 7))
  | _ => .error .reservedFunction

/-- The LX class (03 R71). -/
def decodeLX (w : Nat) : Except Reject Instr :=
  match w / 2 ^ 22 % 2 ^ 5 with
  | 1 => decoded (zeroField w 5 3) (.vbfly (wordK w) (wordField w 15 7) (wordField w 8 7) (wordField w 0 5))
  | 2 => decoded (zeroField w 0 1) (.vshfl (wordK w) (wordField w 15 7) (wordField w 8 7) (wordField w 1 7))
  | 3 => decoded (zeroField w 5 3) (.vbcast (wordK w) (wordField w 15 7) (wordField w 8 7) (wordField w 0 5))
  | 4 => decoded (zeroField w 5 3) (.vrotl (wordK w) (wordField w 15 7) (wordField w 8 7) (wordField w 0 5))
  | 5 => decoded (zeroField w 5 2) (.vtos (wordK w) (wordField w 14 8) (wordField w 7 7) (wordField w 0 5))
  | 6 => decoded (zeroField w 5 2) (.stov (wordK w) (wordField w 15 7) (wordField w 7 8) (wordField w 0 5))
  | 7 => decoded (zeroField w 0 10) (.vballot (wordK w) (wordField w 14 8) (wordField w 10 4))
  | 8 => decoded (zeroField w 0 10) (.vfind (wordK w) (wordField w 14 8) (wordField w 10 4))
  | 9 => decoded (zeroField w 0 8) (.vscan (wordK w) (wordField w 15 7) (wordField w 8 7))
  | 10 => decoded (zeroField w 0 7) (.vred (wordK w) (wordField w 14 8) (wordField w 7 7))
  | 11 => decoded (zeroField w 0 15) (.vlane (wordK w) (wordField w 15 7))
  | 12 => decoded (zeroField w 0 15) (.vtid (wordK w) (wordField w 15 7))
  | 13 => decoded (zeroField w 0 22) (.regrp (wordK w))
  | _ => .error .reservedFunction

/-- The MEM class (03 R72). -/
def decodeMEM (w : Nat) : Except Reject Instr :=
  match w / 2 ^ 22 % 2 ^ 5 with
  | 1 => .ok (.vld (wordK w) (wordField w 14 8) (wordField w 7 7) (wordField w 0 7))
  | 2 => .ok (.vst (wordK w) (wordField w 14 8) (wordField w 7 7) (wordField w 0 7))
  | 3 => decoded (zeroField w 7 7) (.prf (wordK w) (wordField w 14 8) (wordField w 0 7))
  | 4 => .ok (.vaadd (wordK w) (wordField w 14 8) (wordField w 7 7) (wordField w 0 7))
  | 5 => .ok (.vamin (wordK w) (wordField w 14 8) (wordField w 7 7) (wordField w 0 7))
  | 6 => .ok (.vamax (wordK w) (wordField w 14 8) (wordField w 7 7) (wordField w 0 7))
  | 7 => .ok (.vaand (wordK w) (wordField w 14 8) (wordField w 7 7) (wordField w 0 7))
  | 8 => .ok (.vaor (wordK w) (wordField w 14 8) (wordField w 7 7) (wordField w 0 7))
  | 9 => .ok (.vaxor (wordK w) (wordField w 14 8) (wordField w 7 7) (wordField w 0 7))
  | 10 => .ok (.vaxch (wordK w) (wordField w 14 8) (wordField w 7 7) (wordField w 0 7))
  | 11 => .ok (.vacas (wordK w) (wordField w 14 8) (wordField w 7 7) (wordField w 0 7))
  | 12 => .ok (.vredadd (wordK w) (wordField w 14 8) (wordField w 7 7) (wordField w 0 7))
  | 13 => .ok (.vredmin (wordK w) (wordField w 14 8) (wordField w 7 7) (wordField w 0 7))
  | 14 => .ok (.vredmax (wordK w) (wordField w 14 8) (wordField w 7 7) (wordField w 0 7))
  | 15 => decoded (zeroField w 16 6) (.vldx (wordK w) (wordField w 14 2) (wordField w 7 7) (wordField w 0 7))
  | 16 => decoded (zeroField w 16 6) (.vstx (wordK w) (wordField w 14 2) (wordField w 7 7) (wordField w 0 7))
  | 17 => decoded (zeroField w 0 7 && zeroField w 14 8) (.vpush (wordK w) (wordField w 7 7))
  | 18 => decoded (zeroField w 0 7 && zeroField w 14 8) (.vpopSpill (wordK w) (wordField w 7 7))
  | 19 => .ok (.sld (wordK w) (wordField w 14 8) (wordField w 6 8) (wordField w 0 6))
  | 20 => .ok (.sst (wordK w) (wordField w 14 8) (wordField w 6 8) (wordField w 0 6))
  | 21 => .ok (.saadd (wordK w) (wordField w 14 8) (wordField w 6 8) (wordField w 0 6))
  | _ => .error .reservedFunction

/-- The MX class (03 R73). -/
def decodeMX (w : Nat) : Except Reject Instr :=
  match w / 2 ^ 22 % 2 ^ 5 with
  | 1 => decoded (zeroField w 0 18) (.macq (wordK w) (wordField w 18 4))
  | 2 => decoded (zeroField w 0 22) (.mrel (wordK w))
  | 3 => decoded (zeroField w 0 9 && zeroField w 17 5) (.mquor (wordK w) (wordField w 9 8))
  | 4 => decoded (zeroField w 0 7) (.mma (wordK w) (wordField w 17 5) (wordField w 12 5) (wordField w 7 5))
  | 5 => decoded (zeroField w 0 2) (.mmas (wordK w) (wordField w 17 5) (wordField w 12 5) (wordField w 7 5) (wordField w 2 5))
  | 6 => decoded (zeroField w 0 17) (.mzero (wordK w) (wordField w 17 5))
  | 7 => decoded (zeroField w 0 12) (.mdrain (wordK w) (wordField w 17 5) (wordField w 12 5))
  | 8 => decoded (zeroField w 0 9) (.tcfg (wordK w) (wordField w 17 5) (wordField w 9 8))
  | 9 => decoded (zeroField w 0 17) (.tfree (wordK w) (wordField w 17 5))
  | 10 => decoded (zeroField w 0 9) (.tstate (wordK w) (wordField w 17 5) (wordField w 9 8))
  | 11 => decoded (zeroField w 0 2) (.vtot (wordK w) (wordField w 17 5) (wordField w 9 8) (wordField w 2 7))
  | 12 => decoded (zeroField w 0 2) (.ttov (wordK w) (wordField w 17 5) (wordField w 9 8) (wordField w 2 7))
  | 13 => decoded (zeroField w 0 9 && zeroField w 17 5) (.kset (wordK w) (wordField w 9 8))
  | 14 => decoded (zeroField w 2 10 && zeroField w 17 5) (.spld (wordK w) (wordField w 12 5) (wordField w 0 2))
  | 15 => decoded (zeroField w 2 15) (.spst (wordK w) (wordField w 17 5) (wordField w 0 2))
  | 16 => decoded (zeroField w 0 12) (.spev (wordK w) (wordField w 17 5) (wordField w 12 5))
  | 17 => decoded (zeroField w 0 7) (.spbwd (wordK w) (wordField w 17 5) (wordField w 12 5) (wordField w 7 5))
  | 18 => decoded (zeroField w 0 2 && zeroField w 5 2) (.spgrd (wordK w) (wordField w 17 5) (wordField w 12 5) (wordField w 7 5) (wordField w 2 3))
  | 19 => decoded (zeroField w 0 22) (.sprf (wordK w))
  | 20 => decoded (zeroField w 0 9 && zeroField w 17 5) (.spoog (wordK w) (wordField w 9 8))
  | _ => .error .reservedFunction

/-- The AS class (03 R74). -/
def decodeAS (w : Nat) : Except Reject Instr :=
  match w / 2 ^ 22 % 2 ^ 5 with
  | 1 => .ok (.cpy (wordK w) (wordField w 18 4) (wordField w 10 8) (wordField w 2 8) (wordField w 0 2))
  | 2 => decoded (zeroField w 0 10) (.cpyt (wordK w) (wordField w 18 4) (wordField w 10 8))
  | 3 => decoded (zeroField w 0 2) (.mcast (wordK w) (wordField w 18 4) (wordField w 10 8) (wordField w 2 8))
  | 4 => decoded (zeroField w 0 20) (.seal (wordK w) (wordField w 20 2))
  | 5 => decoded (zeroField w 0 16) (.waitb (wordK w) (wordField w 20 2) (wordField w 16 4))
  | 6 => decoded (zeroField w 0 8 && zeroField w 16 4) (.bstat (wordK w) (wordField w 20 2) (wordField w 8 8))
  | 7 => decoded (zeroField w 0 16) (.bar (wordK w) (wordField w 20 2) (wordField w 16 4))
  | 8 => decoded (zeroField w 0 16) (.bara (wordK w) (wordField w 20 2) (wordField w 16 4))
  | 9 => decoded (zeroField w 0 16) (.barw (wordK w) (wordField w 20 2) (wordField w 16 4))
  | 10 => decoded (zeroField w 0 8) (.barq (wordK w) (wordField w 20 2) (wordField w 16 4) (wordField w 8 8))
  | 11 => decoded (zeroField w 21 1) (.cput (wordK w) (wordField w 14 7) (wordField w 7 7) (wordField w 0 7))
  | 12 => decoded (zeroField w 21 1) (.cget (wordK w) (wordField w 14 7) (wordField w 7 7) (wordField w 0 7))
  | 13 => decoded (zeroField w 21 1) (.cred (wordK w) (wordField w 14 7) (wordField w 7 7) (wordField w 0 7))
  | 14 => decoded (zeroField w 0 8 && zeroField w 16 6) (.osig (wordK w) (wordField w 8 8))
  | 15 => decoded (zeroField w 0 8 && zeroField w 16 6) (.rwin (wordK w) (wordField w 8 8))
  | 16 => decoded (zeroField w 0 22) (.rwcl (wordK w))
  | 17 => decoded (zeroField w 0 8 && zeroField w 16 2) (.bset (wordK w) (wordField w 18 4) (wordField w 8 8))
  | 18 => decoded (zeroField w 0 8 && zeroField w 16 2) (.bget (wordK w) (wordField w 18 4) (wordField w 8 8))
  | _ => .error .reservedFunction

/-- The SY class (03 R75). -/
def decodeSY (w : Nat) : Except Reject Instr :=
  match w / 2 ^ 22 % 2 ^ 5 with
  | 0 => decoded (zeroField w 0 22) (.nop (wordK w))
  | 1 => .ok (.mode (wordK w) (wordField w 0 22))
  | 2 => .ok (.fmt (wordK w) (wordField w 0 22))
  | 3 => decoded (zeroField w 10 4) (.srd (wordK w) (wordField w 14 8) (wordField w 0 10))
  | 4 => decoded (zeroField w 10 4) (.swr (wordK w) (wordField w 14 8) (wordField w 0 10))
  | 5 => decoded (zeroField w 0 22) (.fence (wordK w))
  | 6 => decoded (zeroField w 16 6) (.trap (wordK w) (wordField w 0 16))
  | 7 => decoded (zeroField w 0 22) (.eret (wordK w))
  | 8 => decoded (zeroField w 16 6) (.brk (wordK w) (wordField w 0 16))
  | 9 => decoded (zeroField w 0 22) (.halt (wordK w))
  | 10 => decoded (zeroField w 0 22) (.yield (wordK w))
  | 11 => .ok (.opf (wordK w) (wordField w 16 6) (wordField w 0 16))
  | 12 => decoded (zeroField w 0 6) (.ixw (wordK w) (wordField w 20 2) (wordField w 13 7) (wordField w 6 7))
  | 13 => .ok (.ab (wordK w) (wordField w 0 22))
  | 14 => decoded (zeroField w 0 22) (.ac (wordK w))
  | 15 => decoded (zeroField w 0 22) (.aa (wordK w))
  | 16 => decoded (zeroField w 0 22) (.turn (wordK w))
  | 17 => decoded (zeroField w 0 22) (.tsync (wordK w))
  | 18 => decoded (zeroField w 8 6) (.tblq (wordK w) (wordField w 14 8) (wordField w 0 8))
  | 19 => decoded (zeroField w 0 14) (.launch (wordK w) (wordField w 14 8))
  | 20 => decoded (zeroField w 16 6) (.probe (wordK w) (wordField w 0 16))
  | 21 => decoded (zeroField w 0 14) (.rdtime (wordK w) (wordField w 14 8))
  | _ => .error .reservedFunction

/-- The class of a word selects its layout (03 R58). -/
def decodeClass (w : Nat) : Except Reject Instr :=
  match w / 2 ^ 27 % 2 ^ 4 with
  | 0 => decodeVR w
  | 1 => decodeVU w
  | 2 => decodeVS w
  | 3 => decodeVI w
  | 4 => decodeSA w
  | 5 => decodeSB w
  | 6 => decodeSI w
  | 7 => decodeSL w
  | 8 => decodeCF w
  | 9 => decodePV w
  | 10 => decodeLX w
  | 11 => decodeMEM w
  | 12 => decodeMX w
  | 13 => decodeAS w
  | 14 => decodeSY w
  | _ => .error .noClass

/-- The instruction of a 32-bit word, or why the word is ILLEGAL (03 R59). -/
def decodeWord (w : Nat) : Except Reject Instr :=
  match decodeClass w with
  | .error e => .error e
  | .ok i =>
    match rejectOf i with
    | some e => .error e
    | none => .ok i

/-- The instruction at the head of a list of bytes, little-endian (03 R54), with the rest of the list. -/
def decodeBytes : List Byte → Except Reject (Instr × List Byte)
  | b0 :: b1 :: b2 :: b3 :: rest =>
    match decodeWord (b0.toNat + 2 ^ 8 * b1.toNat + 2 ^ 16 * b2.toNat + 2 ^ 24 * b3.toNat) with
    | .ok i => .ok (i, rest)
    | .error e => .error e
  | _ => .error .shortWord

/-- The switch marker in its place. -/
def kBit (k : Bool) : Nat := if k then 2 ^ 31 else 0

/-- Fields in their places: each value times the power of two of its lowest bit. -/
def placed : List (Nat × Nat) → Nat
  | [] => 0
  | f :: r => f.1 * 2 ^ f.2 + placed r

/-- The word of a function code, a switch marker and fields. -/
def wordOf (base : Nat) (k : Bool) (fields : List (Nat × Nat)) : Option Nat := some (base + kBit k + placed fields)

/-- The word of an instruction (03 R54, R63 to R75); a step without a word has none. -/
def encode (i : Instr) : Option Nat :=
  match i with
  | .vadd k d a b => wordOf 0x00200000 k [(d.toNat, 14), (a.toNat, 7), (b.toNat, 0)]
  | .vsub k d a b => wordOf 0x00400000 k [(d.toNat, 14), (a.toNat, 7), (b.toNat, 0)]
  | .vmul k d a b => wordOf 0x00600000 k [(d.toNat, 14), (a.toNat, 7), (b.toNat, 0)]
  | .vmulh k d a b => wordOf 0x00800000 k [(d.toNat, 14), (a.toNat, 7), (b.toNat, 0)]
  | .vdiv k d a b => wordOf 0x00A00000 k [(d.toNat, 14), (a.toNat, 7), (b.toNat, 0)]
  | .vrem k d a b => wordOf 0x00C00000 k [(d.toNat, 14), (a.toNat, 7), (b.toNat, 0)]
  | .vmin k d a b => wordOf 0x00E00000 k [(d.toNat, 14), (a.toNat, 7), (b.toNat, 0)]
  | .vmax k d a b => wordOf 0x01000000 k [(d.toNat, 14), (a.toNat, 7), (b.toNat, 0)]
  | .vand k d a b => wordOf 0x01200000 k [(d.toNat, 14), (a.toNat, 7), (b.toNat, 0)]
  | .vor k d a b => wordOf 0x01400000 k [(d.toNat, 14), (a.toNat, 7), (b.toNat, 0)]
  | .vxor k d a b => wordOf 0x01600000 k [(d.toNat, 14), (a.toNat, 7), (b.toNat, 0)]
  | .vshl k d a b => wordOf 0x01800000 k [(d.toNat, 14), (a.toNat, 7), (b.toNat, 0)]
  | .vshr k d a b => wordOf 0x01A00000 k [(d.toNat, 14), (a.toNat, 7), (b.toNat, 0)]
  | .vsra k d a b => wordOf 0x01C00000 k [(d.toNat, 14), (a.toNat, 7), (b.toNat, 0)]
  | .vrot k d a b => wordOf 0x01E00000 k [(d.toNat, 14), (a.toNat, 7), (b.toNat, 0)]
  | .vsel k d a b => wordOf 0x02000000 k [(d.toNat, 14), (a.toNat, 7), (b.toNat, 0)]
  | .vabsd k d a b => wordOf 0x02200000 k [(d.toNat, 14), (a.toNat, 7), (b.toNat, 0)]
  | .vcsgn k d a b => wordOf 0x02400000 k [(d.toNat, 14), (a.toNat, 7), (b.toNat, 0)]
  | .vpk k d a b => wordOf 0x02600000 k [(d.toNat, 14), (a.toNat, 7), (b.toNat, 0)]
  | .vmad k d a b => wordOf 0x08200000 k [(d.toNat, 14), (a.toNat, 7), (b.toNat, 0)]
  | .vmsb k d a b => wordOf 0x08400000 k [(d.toNat, 14), (a.toNat, 7), (b.toNat, 0)]
  | .vclmp k d a b => wordOf 0x08600000 k [(d.toNat, 14), (a.toNat, 7), (b.toNat, 0)]
  | .vdot4 k d a b => wordOf 0x08800000 k [(d.toNat, 14), (a.toNat, 7), (b.toNat, 0)]
  | .vmov k d a => wordOf 0x08A00000 k [(d.toNat, 14), (a.toNat, 7)]
  | .vneg k d a => wordOf 0x08C00000 k [(d.toNat, 14), (a.toNat, 7)]
  | .vabs k d a => wordOf 0x08E00000 k [(d.toNat, 14), (a.toNat, 7)]
  | .vnot k d a => wordOf 0x09000000 k [(d.toNat, 14), (a.toNat, 7)]
  | .vclz k d a => wordOf 0x09200000 k [(d.toNat, 14), (a.toNat, 7)]
  | .vpop k d a => wordOf 0x09400000 k [(d.toNat, 14), (a.toNat, 7)]
  | .vbrev k d a => wordOf 0x09600000 k [(d.toNat, 14), (a.toNat, 7)]
  | .vcvt k d a => wordOf 0x09800000 k [(d.toNat, 14), (a.toNat, 7)]
  | .vrcp k d a => wordOf 0x09A00000 k [(d.toNat, 14), (a.toNat, 7)]
  | .vrsq k d a => wordOf 0x09C00000 k [(d.toNat, 14), (a.toNat, 7)]
  | .vsqrt k d a => wordOf 0x09E00000 k [(d.toNat, 14), (a.toNat, 7)]
  | .vexp2 k d a => wordOf 0x0A000000 k [(d.toNat, 14), (a.toNat, 7)]
  | .vlog2 k d a => wordOf 0x0A200000 k [(d.toNat, 14), (a.toNat, 7)]
  | .vsin k d a => wordOf 0x0A400000 k [(d.toNat, 14), (a.toNat, 7)]
  | .vcos k d a => wordOf 0x0A600000 k [(d.toNat, 14), (a.toNat, 7)]
  | .vfloor k d a => wordOf 0x0A800000 k [(d.toNat, 14), (a.toNat, 7)]
  | .vceil k d a => wordOf 0x0AA00000 k [(d.toNat, 14), (a.toNat, 7)]
  | .vtrunc k d a => wordOf 0x0AC00000 k [(d.toNat, 14), (a.toNat, 7)]
  | .vrint k d a => wordOf 0x0AE00000 k [(d.toNat, 14), (a.toNat, 7)]
  | .vfrac k d a => wordOf 0x0B000000 k [(d.toNat, 14), (a.toNat, 7)]
  | .vclass k d a => wordOf 0x0B200000 k [(d.toNat, 14), (a.toNat, 7)]
  | .vfree k d => wordOf 0x0B400000 k [(d.toNat, 14)]
  | .vadds k s d a => wordOf 0x10400000 k [(s.toNat, 14), (d.toNat, 7), (a.toNat, 0)]
  | .vsubs k s d a => wordOf 0x10800000 k [(s.toNat, 14), (d.toNat, 7), (a.toNat, 0)]
  | .vrsubs k s d a => wordOf 0x10C00000 k [(s.toNat, 14), (d.toNat, 7), (a.toNat, 0)]
  | .vmuls k s d a => wordOf 0x11000000 k [(s.toNat, 14), (d.toNat, 7), (a.toNat, 0)]
  | .vmads k s d a => wordOf 0x11400000 k [(s.toNat, 14), (d.toNat, 7), (a.toNat, 0)]
  | .vmins k s d a => wordOf 0x11800000 k [(s.toNat, 14), (d.toNat, 7), (a.toNat, 0)]
  | .vmaxs k s d a => wordOf 0x11C00000 k [(s.toNat, 14), (d.toNat, 7), (a.toNat, 0)]
  | .vands k s d a => wordOf 0x12000000 k [(s.toNat, 14), (d.toNat, 7), (a.toNat, 0)]
  | .vors k s d a => wordOf 0x12400000 k [(s.toNat, 14), (d.toNat, 7), (a.toNat, 0)]
  | .vxors k s d a => wordOf 0x12800000 k [(s.toNat, 14), (d.toNat, 7), (a.toNat, 0)]
  | .vshls k s d a => wordOf 0x12C00000 k [(s.toNat, 14), (d.toNat, 7), (a.toNat, 0)]
  | .vshrs k s d a => wordOf 0x13000000 k [(s.toNat, 14), (d.toNat, 7), (a.toNat, 0)]
  | .vsras k s d a => wordOf 0x13400000 k [(s.toNat, 14), (d.toNat, 7), (a.toNat, 0)]
  | .vbcs k s d => wordOf 0x13800000 k [(s.toNat, 14), (d.toNat, 7)]
  | .vaddi k d a i => wordOf 0x18000000 k [(d.toNat, 17), (a.toNat, 10), (i.toNat, 0)]
  | .vmuli k d a i => wordOf 0x19000000 k [(d.toNat, 17), (a.toNat, 10), (i.toNat, 0)]
  | .vandi k d a i => wordOf 0x1A000000 k [(d.toNat, 17), (a.toNat, 10), (i.toNat, 0)]
  | .vori k d a i => wordOf 0x1B000000 k [(d.toNat, 17), (a.toNat, 10), (i.toNat, 0)]
  | .vxori k d a i => wordOf 0x1C000000 k [(d.toNat, 17), (a.toNat, 10), (i.toNat, 0)]
  | .vshli k d a i => wordOf 0x1D000000 k [(d.toNat, 17), (a.toNat, 10), (i.toNat, 0)]
  | .vshri k d a i => wordOf 0x1E000000 k [(d.toNat, 17), (a.toNat, 10), (i.toNat, 0)]
  | .vsrai k d a i => wordOf 0x1F000000 k [(d.toNat, 17), (a.toNat, 10), (i.toNat, 0)]
  | .sadd k d a b => wordOf 0x20000000 k [(d.toNat, 16), (a.toNat, 8), (b.toNat, 0)]
  | .ssub k d a b => wordOf 0x21000000 k [(d.toNat, 16), (a.toNat, 8), (b.toNat, 0)]
  | .smul k d a b => wordOf 0x22000000 k [(d.toNat, 16), (a.toNat, 8), (b.toNat, 0)]
  | .smulh k d a b => wordOf 0x23000000 k [(d.toNat, 16), (a.toNat, 8), (b.toNat, 0)]
  | .sdiv k d a b => wordOf 0x24000000 k [(d.toNat, 16), (a.toNat, 8), (b.toNat, 0)]
  | .srem k d a b => wordOf 0x25000000 k [(d.toNat, 16), (a.toNat, 8), (b.toNat, 0)]
  | .smin k d a b => wordOf 0x26000000 k [(d.toNat, 16), (a.toNat, 8), (b.toNat, 0)]
  | .smax k d a b => wordOf 0x27000000 k [(d.toNat, 16), (a.toNat, 8), (b.toNat, 0)]
  | .sand k d a b => wordOf 0x28000000 k [(d.toNat, 16), (a.toNat, 8), (b.toNat, 0)]
  | .sor k d a b => wordOf 0x29000000 k [(d.toNat, 16), (a.toNat, 8), (b.toNat, 0)]
  | .sxor k d a b => wordOf 0x2A000000 k [(d.toNat, 16), (a.toNat, 8), (b.toNat, 0)]
  | .sshl k d a b => wordOf 0x2B000000 k [(d.toNat, 16), (a.toNat, 8), (b.toNat, 0)]
  | .sshr k d a b => wordOf 0x2C000000 k [(d.toNat, 16), (a.toNat, 8), (b.toNat, 0)]
  | .ssra k d a b => wordOf 0x2D000000 k [(d.toNat, 16), (a.toNat, 8), (b.toNat, 0)]
  | .sslt k d a b => wordOf 0x2E000000 k [(d.toNat, 16), (a.toNat, 8), (b.toNat, 0)]
  | .ssln k d a b => wordOf 0x2F000000 k [(d.toNat, 16), (a.toNat, 8), (b.toNat, 0)]
  | .saddi k d a i => wordOf 0x30000000 k [(d.toNat, 16), (a.toNat, 8), (i.toNat, 0)]
  | .sandi k d a i => wordOf 0x31000000 k [(d.toNat, 16), (a.toNat, 8), (i.toNat, 0)]
  | .sori k d a i => wordOf 0x32000000 k [(d.toNat, 16), (a.toNat, 8), (i.toNat, 0)]
  | .sxori k d a i => wordOf 0x33000000 k [(d.toNat, 16), (a.toNat, 8), (i.toNat, 0)]
  | .sshli k d a i => wordOf 0x34000000 k [(d.toNat, 16), (a.toNat, 8), (i.toNat, 0)]
  | .sshri k d a i => wordOf 0x35000000 k [(d.toNat, 16), (a.toNat, 8), (i.toNat, 0)]
  | .ssrai k d a i => wordOf 0x36000000 k [(d.toNat, 16), (a.toNat, 8), (i.toNat, 0)]
  | .sslti k d a i => wordOf 0x37000000 k [(d.toNat, 16), (a.toNat, 8), (i.toNat, 0)]
  | .sli k d i => wordOf 0x38000000 k [(d.toNat, 18), (i.toNat, 0)]
  | .slu k d i => wordOf 0x3C000000 k [(d.toNat, 18), (i.toNat, 0)]
  | .br k o => wordOf 0x40800000 k [(o.toNat, 0)]
  | .call k o => wordOf 0x41000000 k [(o.toNat, 0)]
  | .jmp k s => wordOf 0x41800000 k [(s.toNat, 15)]
  | .ret k => wordOf 0x42000000 k []
  | .bp k p e o => wordOf 0x42800000 k [(p.toNat, 19), (e.toNat, 18), (o.toNat, 0)]
  | .brd k p e o => wordOf 0x43000000 k [(p.toNat, 19), (e.toNat, 18), (o.toNat, 0)]
  | .rcv k o => wordOf 0x43800000 k [(o.toNat, 0)]
  | .join k => wordOf 0x44000000 k []
  | .bz k s o => wordOf 0x44800000 k [(s.toNat, 15), (o.toNat, 0)]
  | .bnz k s o => wordOf 0x45000000 k [(s.toNat, 15), (o.toNat, 0)]
  | .loop k s o => wordOf 0x45800000 k [(s.toNat, 15), (o.toNat, 0)]
  | .exit k => wordOf 0x46000000 k []
  | .vceq k d a b => wordOf 0x48800000 k [(d.toNat, 19), (a.toNat, 12), (b.toNat, 5)]
  | .vcne k d a b => wordOf 0x49000000 k [(d.toNat, 19), (a.toNat, 12), (b.toNat, 5)]
  | .vclt k d a b => wordOf 0x49800000 k [(d.toNat, 19), (a.toNat, 12), (b.toNat, 5)]
  | .vcle k d a b => wordOf 0x4A000000 k [(d.toNat, 19), (a.toNat, 12), (b.toNat, 5)]
  | .vcun k d a b => wordOf 0x4A800000 k [(d.toNat, 19), (a.toNat, 12), (b.toNat, 5)]
  | .pand k d a b => wordOf 0x4B000000 k [(d.toNat, 19), (a.toNat, 15), (b.toNat, 11)]
  | .por k d a b => wordOf 0x4B800000 k [(d.toNat, 19), (a.toNat, 15), (b.toNat, 11)]
  | .pxor k d a b => wordOf 0x4C000000 k [(d.toNat, 19), (a.toNat, 15), (b.toNat, 11)]
  | .pandn k d a b => wordOf 0x4C800000 k [(d.toNat, 19), (a.toNat, 15), (b.toNat, 11)]
  | .pnot k d a => wordOf 0x4D000000 k [(d.toNat, 19), (a.toNat, 15)]
  | .pmov k d a => wordOf 0x4D800000 k [(d.toNat, 19), (a.toNat, 15)]
  | .pset k d e => wordOf 0x4E000000 k [(d.toNat, 19), (e.toNat, 18)]
  | .pfromv k d a => wordOf 0x4E800000 k [(d.toNat, 19), (a.toNat, 12)]
  | .ptov k a d => wordOf 0x4F000000 k [(a.toNat, 19), (d.toNat, 12)]
  | .vbfly k d a m => wordOf 0x50400000 k [(d.toNat, 15), (a.toNat, 8), (m.toNat, 0)]
  | .vshfl k d a i => wordOf 0x50800000 k [(d.toNat, 15), (a.toNat, 8), (i.toNat, 1)]
  | .vbcast k d a l => wordOf 0x50C00000 k [(d.toNat, 15), (a.toNat, 8), (l.toNat, 0)]
  | .vrotl k d a r => wordOf 0x51000000 k [(d.toNat, 15), (a.toNat, 8), (r.toNat, 0)]
  | .vtos k d a l => wordOf 0x51400000 k [(d.toNat, 14), (a.toNat, 7), (l.toNat, 0)]
  | .stov k d s l => wordOf 0x51800000 k [(d.toNat, 15), (s.toNat, 7), (l.toNat, 0)]
  | .vballot k d p => wordOf 0x51C00000 k [(d.toNat, 14), (p.toNat, 10)]
  | .vfind k d p => wordOf 0x52000000 k [(d.toNat, 14), (p.toNat, 10)]
  | .vscan k d a => wordOf 0x52400000 k [(d.toNat, 15), (a.toNat, 8)]
  | .vred k d a => wordOf 0x52800000 k [(d.toNat, 14), (a.toNat, 7)]
  | .vlane k d => wordOf 0x52C00000 k [(d.toNat, 15)]
  | .vtid k d => wordOf 0x53000000 k [(d.toNat, 15)]
  | .regrp k => wordOf 0x53400000 k []
  | .vld k s d o => wordOf 0x58400000 k [(s.toNat, 14), (d.toNat, 7), (o.toNat, 0)]
  | .vst k s v o => wordOf 0x58800000 k [(s.toNat, 14), (v.toNat, 7), (o.toNat, 0)]
  | .prf k s o => wordOf 0x58C00000 k [(s.toNat, 14), (o.toNat, 0)]
  | .vaadd k s d o => wordOf 0x59000000 k [(s.toNat, 14), (d.toNat, 7), (o.toNat, 0)]
  | .vamin k s d o => wordOf 0x59400000 k [(s.toNat, 14), (d.toNat, 7), (o.toNat, 0)]
  | .vamax k s d o => wordOf 0x59800000 k [(s.toNat, 14), (d.toNat, 7), (o.toNat, 0)]
  | .vaand k s d o => wordOf 0x59C00000 k [(s.toNat, 14), (d.toNat, 7), (o.toNat, 0)]
  | .vaor k s d o => wordOf 0x5A000000 k [(s.toNat, 14), (d.toNat, 7), (o.toNat, 0)]
  | .vaxor k s d o => wordOf 0x5A400000 k [(s.toNat, 14), (d.toNat, 7), (o.toNat, 0)]
  | .vaxch k s d o => wordOf 0x5A800000 k [(s.toNat, 14), (d.toNat, 7), (o.toNat, 0)]
  | .vacas k s d o => wordOf 0x5AC00000 k [(s.toNat, 14), (d.toNat, 7), (o.toNat, 0)]
  | .vredadd k s d o => wordOf 0x5B000000 k [(s.toNat, 14), (d.toNat, 7), (o.toNat, 0)]
  | .vredmin k s d o => wordOf 0x5B400000 k [(s.toNat, 14), (d.toNat, 7), (o.toNat, 0)]
  | .vredmax k s d o => wordOf 0x5B800000 k [(s.toNat, 14), (d.toNat, 7), (o.toNat, 0)]
  | .vldx k w d i => wordOf 0x5BC00000 k [(w.toNat, 14), (d.toNat, 7), (i.toNat, 0)]
  | .vstx k w v i => wordOf 0x5C000000 k [(w.toNat, 14), (v.toNat, 7), (i.toNat, 0)]
  | .vpush k v => wordOf 0x5C400000 k [(v.toNat, 7)]
  | .vpopSpill k v => wordOf 0x5C800000 k [(v.toNat, 7)]
  | .sld k d a i => wordOf 0x5CC00000 k [(d.toNat, 14), (a.toNat, 6), (i.toNat, 0)]
  | .sst k d a i => wordOf 0x5D000000 k [(d.toNat, 14), (a.toNat, 6), (i.toNat, 0)]
  | .saadd k d a i => wordOf 0x5D400000 k [(d.toNat, 14), (a.toNat, 6), (i.toNat, 0)]
  | .macq k p => wordOf 0x60400000 k [(p.toNat, 18)]
  | .mrel k => wordOf 0x60800000 k []
  | .mquor k s => wordOf 0x60C00000 k [(s.toNat, 9)]
  | .mma k d a b => wordOf 0x61000000 k [(d.toNat, 17), (a.toNat, 12), (b.toNat, 7)]
  | .mmas k d a b c => wordOf 0x61400000 k [(d.toNat, 17), (a.toNat, 12), (b.toNat, 7), (c.toNat, 2)]
  | .mzero k d => wordOf 0x61800000 k [(d.toNat, 17)]
  | .mdrain k d a => wordOf 0x61C00000 k [(d.toNat, 17), (a.toNat, 12)]
  | .tcfg k t s => wordOf 0x62000000 k [(t.toNat, 17), (s.toNat, 9)]
  | .tfree k t => wordOf 0x62400000 k [(t.toNat, 17)]
  | .tstate k t d => wordOf 0x62800000 k [(t.toNat, 17), (d.toNat, 9)]
  | .vtot k t s v => wordOf 0x62C00000 k [(t.toNat, 17), (s.toNat, 9), (v.toNat, 2)]
  | .ttov k t s v => wordOf 0x63000000 k [(t.toNat, 17), (s.toNat, 9), (v.toNat, 2)]
  | .kset k s => wordOf 0x63400000 k [(s.toNat, 9)]
  | .spld k a g => wordOf 0x63800000 k [(a.toNat, 12), (g.toNat, 0)]
  | .spst k d g => wordOf 0x63C00000 k [(d.toNat, 17), (g.toNat, 0)]
  | .spev k d a => wordOf 0x64000000 k [(d.toNat, 17), (a.toNat, 12)]
  | .spbwd k d a b => wordOf 0x64400000 k [(d.toNat, 17), (a.toNat, 12), (b.toNat, 7)]
  | .spgrd k d a b g => wordOf 0x64800000 k [(d.toNat, 17), (a.toNat, 12), (b.toNat, 7), (g.toNat, 2)]
  | .sprf k => wordOf 0x64C00000 k []
  | .spoog k d => wordOf 0x65000000 k [(d.toNat, 9)]
  | .cpy k t x y r => wordOf 0x68400000 k [(t.toNat, 18), (x.toNat, 10), (y.toNat, 2), (r.toNat, 0)]
  | .cpyt k t s => wordOf 0x68800000 k [(t.toNat, 18), (s.toNat, 10)]
  | .mcast k t s m => wordOf 0x68C00000 k [(t.toNat, 18), (s.toNat, 10), (m.toNat, 2)]
  | .seal k c => wordOf 0x69000000 k [(c.toNat, 20)]
  | .waitb k c n => wordOf 0x69400000 k [(c.toNat, 20), (n.toNat, 16)]
  | .bstat k c d => wordOf 0x69800000 k [(c.toNat, 20), (d.toNat, 8)]
  | .bar k l i => wordOf 0x69C00000 k [(l.toNat, 20), (i.toNat, 16)]
  | .bara k l i => wordOf 0x6A000000 k [(l.toNat, 20), (i.toNat, 16)]
  | .barw k l i => wordOf 0x6A400000 k [(l.toNat, 20), (i.toNat, 16)]
  | .barq k l i d => wordOf 0x6A800000 k [(l.toNat, 20), (i.toNat, 16), (d.toNat, 8)]
  | .cput k d p a => wordOf 0x6AC00000 k [(d.toNat, 14), (p.toNat, 7), (a.toNat, 0)]
  | .cget k d p a => wordOf 0x6B000000 k [(d.toNat, 14), (p.toNat, 7), (a.toNat, 0)]
  | .cred k d p a => wordOf 0x6B400000 k [(d.toNat, 14), (p.toNat, 7), (a.toNat, 0)]
  | .osig k d => wordOf 0x6B800000 k [(d.toNat, 8)]
  | .rwin k s => wordOf 0x6BC00000 k [(s.toNat, 8)]
  | .rwcl k => wordOf 0x6C000000 k []
  | .bset k b s => wordOf 0x6C400000 k [(b.toNat, 18), (s.toNat, 8)]
  | .bget k b d => wordOf 0x6C800000 k [(b.toNat, 18), (d.toNat, 8)]
  | .nop k => wordOf 0x70000000 k []
  | .mode k i => wordOf 0x70400000 k [(i.toNat, 0)]
  | .fmt k i => wordOf 0x70800000 k [(i.toNat, 0)]
  | .srd k d s => wordOf 0x70C00000 k [(d.toNat, 14), (s.toNat, 0)]
  | .swr k a s => wordOf 0x71000000 k [(a.toNat, 14), (s.toNat, 0)]
  | .fence k => wordOf 0x71400000 k []
  | .trap k i => wordOf 0x71800000 k [(i.toNat, 0)]
  | .eret k => wordOf 0x71C00000 k []
  | .brk k i => wordOf 0x72000000 k [(i.toNat, 0)]
  | .halt k => wordOf 0x72400000 k []
  | .yield k => wordOf 0x72800000 k []
  | .opf k b m => wordOf 0x72C00000 k [(b.toNat, 16), (m.toNat, 0)]
  | .ixw k w b l => wordOf 0x73000000 k [(w.toNat, 20), (b.toNat, 13), (l.toNat, 6)]
  | .ab k o => wordOf 0x73400000 k [(o.toNat, 0)]
  | .ac k => wordOf 0x73800000 k []
  | .aa k => wordOf 0x73C00000 k []
  | .turn k => wordOf 0x74000000 k []
  | .tsync k => wordOf 0x74400000 k []
  | .tblq k d i => wordOf 0x74800000 k [(d.toNat, 14), (i.toNat, 0)]
  | .launch k s => wordOf 0x74C00000 k [(s.toNat, 14)]
  | .probe k i => wordOf 0x75000000 k [(i.toNat, 0)]
  | .rdtime k d => wordOf 0x75400000 k [(d.toNat, 14)]
  | .modeRestore _ => none
  | .resultWriteback _ _ => none
  | .trapDeliver _ => none
  | .create _ _ => none
  | .bind _ _ _ => none
  | .suspend _ _ => none
  | .resume _ _ => none
  | .release _ _ => none
  | .contextDrainEnd _ _ => none
  | .scrubDone _ _ => none
  | .queueEnable _ _ _ => none
  | .queueDisable _ _ _ => none
  | .doorbell _ _ _ => none
  | .queueStopClear _ _ => none
  | .recordRead _ _ => none
  | .waitEvaluate _ => none
  | .clusterPlace _ _ => none
  | .argsRead _ => none
  | .preempt _ _ => none
  | .clusterSave _ => none
  | .move _ => none
  | .gangstarve _ => none
  | .promotion _ => none
  | .demotion _ => none
  | .forcedRotation _ => none
  | .batchRetire _ _ => none
  | .launchDone _ => none
  | .launchAppend _ => none
  | .copyStart _ _ => none
  | .copyComplete _ => none
  | .copyWalkFault _ => none
  | .copyxlateResume _ _ => none
  | .copyxlateRefuse _ _ => none
  | .copyLinkTimeout _ => none
  | .mcastArrival _ _ => none
  | .engineOpComplete _ _ _ => none
  | .vtotLand _ _ => none
  | .rendezvousComplete _ => none
  | .latchTimeout _ => none
  | .storePerform _ _ => none
  | .writeVisible _ => none
  | .flushAck _ _ => none
  | .windowCombine _ => none
  | .regionCommit _ => none
  | .regionOutcome _ => none
  | .seatEnable _ _ => none
  | .seatDisable _ _ => none
  | .seatRelease _ _ => none
  | .tbevict _ _ => none
  | .hello _ _ => none
  | .tablePacketReceive _ _ => none
  | .turnRequest _ => none
  | .turnGrant _ => none
  | .turnRedirect _ => none
  | .handoff _ => none
  | .rebase _ => none
  | .vectorBroadcast _ => none
  | .vectorReceive _ _ => none
  | .lag _ => none
  | .memberCollect _ => none
  | .viewInstall _ => none
  | .walkComplete _ _ _ => none
  | .migRewalk _ _ _ => none
  | .invalidatePage _ _ => none
  | .invalidateContext _ _ => none
  | .invalidateAperture _ _ => none
  | .invalidateDone _ => none
  | .hostMemWrite _ _ _ => none
  | .hostMemRead _ _ _ => none
  | .flitReceive _ _ _ => none
  | .fabricPacketReceive _ _ _ _ => none
  | .retransmitTimeout _ _ _ => none
  | .pathProbe _ _ _ _ => none
  | .partnerDetect _ _ => none
  | .physicalUp _ _ _ => none
  | .trainingTimeout _ _ => none
  | .negotiate _ _ _ _ => none
  | .laneLoss _ _ _ => none
  | .laneRegain _ _ _ => none
  | .linkFence _ _ => none
  | .linkRetrain _ _ => none
  | .prselWrite _ _ => none
  | .counterClear _ _ => none
  | .triggerArm _ _ => none
  | .prres _ _ => none
  | .sampleTick _ _ _ => none
  | .dumpWrite _ _ => none
  | .powerOn _ => none
  | .bootStage _ _ => none
  | .fuseWrite _ _ => none
  | .getVersion _ => none
  | .getCapabilities _ _ => none
  | .negotiateAlgorithms _ _ => none
  | .getDigests _ _ => none
  | .getCertificate _ _ _ _ => none
  | .challenge _ _ _ => none
  | .getMeasurements _ _ _ _ => none
  | .firmwareRecord _ _ _ => none
  | .auditConsume _ _ => none
  | .sensorRead _ _ _ => none
  | .clockStep _ => none
  | .droop _ _ _ _ => none
  | .idleTimer _ => none
  | .registerWrite _ _ _ => none
  | .illegalWord _ => none
  | .reductionComplete _ => none
  | .collectiveComplete _ => none
  | .droopEnd _ _ => none
  | .powerOff _ => none
  | .eventSpaceFreed _ _ => none
  | .registerRead _ _ => none

/-- The bytes of a word as memory holds them (03 R54). -/
def wordBytes (w : Nat) : List Byte :=
  [BitVec.ofNat 8 w, BitVec.ofNat 8 (w / 2 ^ 8), BitVec.ofNat 8 (w / 2 ^ 16), BitVec.ofNat 8 (w / 2 ^ 24)]

/-- The instruction the decoder reads from the bits w of an opcode-table row: every instruction is one 32-bit word, so the
row's bits are the word's, laid out little-endian. -/
def decodeTableWord (nbits w : Nat) : Option Instr :=
  if 32 < nbits then none
  else match decodeBytes (wordBytes (w % 2 ^ 32)) with
    | .ok (i, _) => some i
    | .error _ => none

end Sys2Proof
end

