-- ==== Sys2Proof/Machine/Fp.lean ====
section
/-! DEFINITION. Floating-point and integer values of a lane: the formats of 02 R25 to R30, NaNs (R31, R32), rounding,
overflow and flushing (R33 to R36), saturation (R37), division (R38) and conversion (R39, R40). -/
namespace Sys2Proof.Machine

/-- The element types `%mode.E` and `%mode.X` select (02 R25). -/
inductive EType
  | i8 | n8 | i16 | n16 | i32 | n32 | i64 | n64 | f16 | bf16 | f32 | e4m3
  deriving DecidableEq, Repr

/-- The type of a code; codes 12 to 15 are reserved (02 R25). -/
def etypeOf : Nat → Option EType
  | 0 => some .i8 | 1 => some .n8 | 2 => some .i16 | 3 => some .n16 | 4 => some .i32 | 5 => some .n32
  | 6 => some .i64 | 7 => some .n64 | 8 => some .f16 | 9 => some .bf16 | 10 => some .f32 | 11 => some .e4m3
  | _ => none

/-- The width of an element in bits (02 R25). -/
def widthOf : EType → Nat
  | .i8 | .n8 | .e4m3 => 8
  | .i16 | .n16 | .f16 | .bf16 => 16
  | .i32 | .n32 | .f32 => 32
  | .i64 | .n64 => 64

/-- The signed integer types (02 R25). -/
def isSigned : EType → Bool
  | .i8 | .i16 | .i32 | .i64 => true
  | _ => false

/-- The integer types, codes 0 to 7 (02 R25). -/
def isInteger : EType → Bool
  | .f16 | .bf16 | .f32 | .e4m3 => false
  | _ => true

/-- The types held in a register pair (02 R27). -/
def is64 : EType → Bool
  | .i64 | .n64 => true
  | _ => false

/-- The float types the vector arithmetic accepts: e4m3 is a storage type (09 R208). -/
def isArithFloat : EType → Bool
  | .f16 | .bf16 | .f32 => true
  | _ => false

/-- The sticky flags [5:0]: SV, NX, UF, OF, DZ, NV (02 R41). -/
abbrev Flags := BitVec 6
/-- Invalid (02 R41). -/
def flNV : Flags := 1
/-- Division by zero (02 R41). -/
def flDZ : Flags := 2
/-- Overflow (02 R41). -/
def flOF : Flags := 4
/-- Underflow (02 R41). -/
def flUF : Flags := 8
/-- Inexact (02 R41). -/
def flNX : Flags := 16
/-- An integer result was saturated (02 R41). -/
def flSV : Flags := 32
/-- A flag raised exactly where a condition holds. -/
def flagIf (c : Bool) (f : Flags) : Flags := if c then f else 0

/-- The rounding rules of `%mode.R` (02 R33). -/
inductive Rounding
  | rne | rtz | rup | rdn | rna
  deriving DecidableEq, Repr

/-- The rule of a code; codes 5 to 7 are reserved (02 R33). -/
def roundingOf : Nat → Option Rounding
  | 0 => some .rne | 1 => some .rtz | 2 => some .rup | 3 => some .rdn | 4 => some .rna
  | _ => none

/-- What of `%mode` acts on a number: R, SAT and FTZ (02 R33, R35 to R37). -/
structure NumMode where
  /-- `%mode.R` -/
  rnd : Rounding
  /-- `%mode.SAT` -/
  sat : Bool
  /-- `%mode.FTZ` -/
  ftz : Bool
  deriving DecidableEq, Repr

/-- The rounding of engine arithmetic: rne, no saturation, no flushing (02 R33, R36). -/
def engineMode : NumMode := ⟨.rne, false, false⟩

/-- The layout of a float format (02 R29). -/
structure FFormat where
  /-- Fraction bits. -/
  frac : Nat
  /-- Exponent bits. -/
  ebits : Nat
  /-- Exponent of the smallest normal value. -/
  emin : Int
  /-- Encoding of the largest finite magnitude. -/
  maxFinite : Nat
  /-- The format has infinities. -/
  hasInf : Bool
  /-- The canonical NaN (02 R31). -/
  nan : Nat
  deriving DecidableEq, Repr

/-- binary32 (02 R29). -/
def fmtF32 : FFormat := ⟨23, 8, -126, 0x7F7FFFFF, true, 0x7FC00000⟩
/-- binary16 (02 R29). -/
def fmtF16 : FFormat := ⟨10, 5, -14, 0x7BFF, true, 0x7E00⟩
/-- bf16 (02 R29). -/
def fmtBf16 : FFormat := ⟨7, 8, -126, 0x7F7F, true, 0x7FC0⟩
/-- e4m3 (02 R29, R30). -/
def fmtE4m3 : FFormat := ⟨3, 4, -6, 0x7E, false, 0x7F⟩

/-- The layout of a float type; an integer type has none, and no caller asks for it. -/
def ffmt : EType → FFormat
  | .f16 => fmtF16
  | .bf16 => fmtBf16
  | .e4m3 => fmtE4m3
  | _ => fmtF32

/-- A float operand: a NaN, an infinity, or sign, magnitude m and exponent e of the finite value m times 2^e, where m
is zero for a zero (02 R29, R30). -/
inductive FVal
  | nan (signalling : Bool)
  | inf (neg : Bool)
  | fin (neg : Bool) (m : Nat) (e : Int)
  deriving DecidableEq, Repr

/-- Reads an encoding (02 R29, R30); with FTZ a subnormal of f32, f16 or bf16 reads as zero of its sign (R36). A NaN
whose highest fraction bit is clear is signalling, as in IEEE 754 (PRESUMED); the e4m3 NaN is quiet (09 R216). -/
def readFloat (t : EType) (ftz : Bool) (raw : Nat) : FVal :=
  let f := ffmt t
  let neg := bitOf raw (f.frac + f.ebits)
  let ex := fieldOf raw f.frac f.ebits
  let fr := fieldOf raw 0 f.frac
  if ex = 0 then
    if ftz && f.hasInf then .fin neg 0 0 else .fin neg fr (f.emin - f.frac)
  else if f.hasInf && ex + 1 == 2 ^ f.ebits then
    if fr = 0 then .inf neg else .nan (!bitOf fr (f.frac - 1))
  else if !f.hasInf && fieldOf raw 0 (f.frac + f.ebits) == f.nan then .nan false
  else .fin neg (2 ^ f.frac + fr) (f.emin - f.frac + (ex - 1 : Nat))

/-- Whether the rounding rule raises the magnitude, from the last kept bit, the remainder and its unit (02 R33). -/
def roundsUp (r : Rounding) (neg odd : Bool) (rem unit : Nat) : Bool :=
  match r with
  | .rne => decide (unit < 2 * rem) || (2 * rem == unit && odd)
  | .rtz => false
  | .rup => !neg && rem != 0
  | .rdn => neg && rem != 0
  | .rna => decide (unit ≤ 2 * rem)

/-- Rounds m times 2^e to a multiple of 2^q: the multiple, and whether the value was not one (02 R33). -/
def roundAt (r : Rounding) (neg : Bool) (m : Nat) (e q : Int) : Nat × Bool :=
  if q ≤ e then (m * 2 ^ (e - q).toNat, false)
  else
    let u := 2 ^ (q - e).toNat
    let n := m / u
    let rem := m % u
    (if roundsUp r neg (n % 2 == 1) rem u then n + 1 else n, rem != 0)

/-- The overflow result (02 R35; R40 for e4m3). -/
def overflowRaw (f : FFormat) (nm : NumMode) (neg : Bool) : Nat :=
  let sign := if neg then 2 ^ (f.frac + f.ebits) else 0
  if !f.hasInf then (if nm.sat then sign + f.maxFinite else f.nan)
  else if nm.sat then sign + f.maxFinite
  else match nm.rnd with
    | .rne | .rna => sign + f.maxFinite + 1
    | .rtz => sign + f.maxFinite
    | .rup => if neg then sign + f.maxFinite else f.maxFinite + 1
    | .rdn => if neg then sign + f.maxFinite + 1 else f.maxFinite

/-- Rounds the finite value m times 2^e to a format, with its flags: overflow by R35 and R40, underflow where the
result is tiny after rounding and inexact, flushing by R36 (02 R33 to R36, R40, R41). Tininess is judged after rounding
to the format's precision with an unbounded exponent, as IEEE 754 has it (PRESUMED). -/
def roundFinite (f : FFormat) (nm : NumMode) (neg : Bool) (m : Nat) (e : Int) : Nat × Flags :=
  let sign := if neg then 2 ^ (f.frac + f.ebits) else 0
  if m = 0 then (sign, 0)
  else
    let top : Int := (Nat.log2 m : Int) + e
    let q : Int := if top < f.emin then f.emin - f.frac else top - f.frac
    let (n, nx) := roundAt nm.rnd neg m e q
    let mag := (q - (f.emin - f.frac)).toNat * 2 ^ f.frac + n
    if f.maxFinite < mag then (overflowRaw f nm neg, flOF ||| flNX)
    else
      let tiny := decide (top < f.emin) &&
        !(decide (top = f.emin - 1) && (roundAt nm.rnd neg m e (top - f.frac)).1 == 2 ^ (f.frac + 1))
      if nm.ftz && f.hasInf && mag != 0 && decide (mag < 2 ^ f.frac) then (sign, flUF ||| flNX)
      else (sign + mag, flagIf nx flNX ||| flagIf (nx && tiny) flUF)

/-- Writes a value in a format: NaNs canonical (02 R31), an infinity into e4m3 by R40, a finite value rounded once. -/
def writeFloat (f : FFormat) (nm : NumMode) : FVal → Nat × Flags
  | .nan _ => (f.nan, 0)
  | .inf neg =>
    if f.hasInf then ((if neg then 2 ^ (f.frac + f.ebits) else 0) + f.maxFinite + 1, 0)
    else (overflowRaw f nm neg, flOF ||| flNX)
  | .fin neg m e => roundFinite f nm neg m e

/-- A signalling NaN operand sets NV (02 R31). -/
def signals : FVal → Bool
  | .nan s => s
  | _ => false

/-- Whether a value is a NaN. -/
def isNan : FVal → Bool
  | .nan _ => true
  | _ => false

/-- Whether a value is a zero of either sign. -/
def isZero : FVal → Bool
  | .fin _ m _ => m == 0
  | _ => false

/-- The sign of a value; a NaN has none. -/
def signNeg : FVal → Bool
  | .nan _ => false
  | .inf n => n
  | .fin n _ _ => n

/-- The value with its sign inverted. -/
def negate : FVal → FVal
  | .nan s => .nan s
  | .inf n => .inf (!n)
  | .fin n m e => .fin (!n) m e

/-- The value with a given sign. -/
def withSign (neg : Bool) : FVal → FVal
  | .nan s => .nan s
  | .inf _ => .inf neg
  | .fin _ m e => .fin neg m e

/-- The signed magnitude at exponent q of a finite value whose exponent is not below q. -/
def scaledInt (neg : Bool) (m : Nat) (e q : Int) : Int :=
  let v : Int := ((m * 2 ^ (e - q).toNat : Nat) : Int)
  if neg then -v else v

/-- The exact sum; none for ∞ − ∞ (02 R41). A zero sum of unequal signs is +0, and −0 under rdn, as in IEEE 754
(PRESUMED); NaN operands are handled by the caller. -/
def sumExact (r : Rounding) : FVal → FVal → Option FVal
  | .inf a, .inf b => if a = b then some (.inf a) else none
  | .inf a, _ => some (.inf a)
  | _, .inf b => some (.inf b)
  | .fin a m e, .fin b n f =>
    let q := min e f
    let z := scaledInt a m e q + scaledInt b n f q
    if z = 0 then some (.fin (if a = b then a else r == .rdn) 0 q)
    else some (.fin (decide (z < 0)) z.natAbs q)
  | _, _ => none

/-- The exact product; none for 0 × ∞ (02 R41). -/
def mulExact : FVal → FVal → Option FVal
  | .inf a, .inf b => some (.inf (a != b))
  | .inf a, .fin b n _ => if n = 0 then none else some (.inf (a != b))
  | .fin a m _, .inf b => if m = 0 then none else some (.inf (a != b))
  | .fin a m e, .fin b n f => some (.fin (a != b) (m * n) (e + f))
  | _, _ => none

/-- A magnitude with enough bits that its last bit stands for every lower one: the quotient m / n with `bits` or more
leading bits, doubled, plus one where a remainder is left; the second part is the exponent of its last bit. -/
def quotientJam (m n bits : Nat) : Nat × Int :=
  let s := bits + bitLen n
  let a := m * 2 ^ s
  (2 * (a / n) + (if a % n = 0 then 0 else 1), -((s : Int) + 1))

/-- The quotient; none for 0 ÷ 0 and ∞ ÷ ∞, which are invalid as in IEEE 754 (PRESUMED). A finite value other than zero
divided by zero is an infinity with DZ (02 R41); ∞ ÷ 0 is an exact infinity without it. -/
def divExact : FVal → FVal → Option (FVal × Flags)
  | .inf _, .inf _ => none
  | .inf a, .fin b _ _ => some (.inf (a != b), 0)
  | .fin a _ _, .inf b => some (.fin (a != b) 0 0, 0)
  | .fin a m e, .fin b n f =>
    if n = 0 then (if m = 0 then none else some (.inf (a != b), flDZ))
    else if m = 0 then some (.fin (a != b) 0 0, 0)
    else
      let (q, x) := quotientJam m n 40
      some (.fin (a != b) q (e - f + x), 0)
  | _, _ => none

/-- The integer square root, rounded down; the first argument bounds the base-4 digits. -/
def isqrt : Nat → Nat → Nat
  | 0, _ => 0
  | k + 1, n =>
    let r := 2 * isqrt k (n / 4)
    if (r + 1) * (r + 1) ≤ n then r + 1 else r

/-- The square root of a positive finite value, its last bit standing for every lower one. -/
def sqrtJam (m : Nat) (e : Int) : FVal :=
  let odd := e % 2 = 1
  let a := (if odd then 2 * m else m) * 2 ^ 80
  let h : Int := (if odd then e - 1 else e) / 2
  let r := isqrt 120 a
  .fin false (2 * r + (if r * r = a then 0 else 1)) (h - 41)

/-- The reciprocal of the square root of a positive finite value, its last bit standing for every lower one. -/
def rsqrtJam (m : Nat) (e : Int) : FVal :=
  let odd := e % 2 = 1
  let a := if odd then 2 * m else m
  let h : Int := (if odd then e - 1 else e) / 2
  let n := 2 ^ 160
  let r := isqrt 120 (n / a)
  .fin false (2 * r + (if r * r * a = n then 0 else 1)) (-h - 81)

/-! ## Exponential, logarithm, sine and cosine

The results other than the exact ones are irrational, so a value known to 300 bits rounds as the exact one does: that
no argument of these formats lies so close to a rounding boundary is PRESUMED (it is what 02 R34 needs to be met). -/

/-- One, in the fixed point of 320 fraction bits. -/
def fixOne : Nat := 2 ^ 320
/-- The natural logarithm of 2 in the fixed point of 320 fraction bits, rounded down. -/
def fixLn2 : Nat := 1480553391661173448385607439722553250922680800745876974795605978609098082859138712941075737848984
/-- Half of pi with 512 fraction bits, rounded down. -/
def halfPi512 : Nat := 21060935446725318109723410742279694052627998656744627302797342544051902891138049459896942686123863173221885648458166742663646458312799580771176887101916299

/-- The series of e^t from its n-th term on, t in fixed point; the first argument is the terms left. -/
def expSeries (t : Nat) : Nat → Nat → Nat
  | 0, _ => fixOne
  | k + 1, n => fixOne + t * expSeries t k (n + 1) / (n * fixOne)

/-- The alternating series of sin (n = 2) and cos (n = 1) from a term on, t2 the square in fixed point. -/
def trigSeries (t2 : Nat) : Nat → Nat → Nat
  | 0, _ => fixOne
  | k + 1, n => fixOne - t2 * trigSeries t2 k (n + 2) / (n * (n + 1) * fixOne)

/-- The series of atanh z divided by z, z2 the square of z in fixed point, from the odd term n on. -/
def atanhSeries (z2 : Nat) : Nat → Nat → Nat
  | 0, n => fixOne / n
  | k + 1, n => fixOne / n + z2 * atanhSeries z2 k (n + 2) / fixOne

/-- 2 to the power of a finite value other than zero (09 R214). -/
def exp2Value (neg : Bool) (m : Nat) (e : Int) : FVal :=
  if (9 : Int) < (bitLen m : Int) + e then .fin false 3 (if neg then -1000 else 1000)
  else
    let x : Int := scaledInt neg m e (min e 0)
    let u : Int := ((2 ^ (-(min e 0)).toNat : Nat) : Int)
    let k := x / u
    let fr := (x % u).toNat
    if fr = 0 then .fin false 1 k
    else .fin false (2 * expSeries (fr * fixLn2 / u.toNat) 75 1 + 1) (k - 321)

/-- The binary logarithm of a positive finite value (09 R214). -/
def log2Value (m : Nat) (e : Int) : FVal :=
  let b := Nat.log2 m
  let k : Int := (b : Int) + e
  if m = 2 ^ b then .fin (decide (k < 0)) k.natAbs 0
  else
    let z := (m - 2 ^ b) * fixOne / (m + 2 ^ b)
    let ln := 2 * z * atanhSeries (z * z / fixOne) 110 1 / fixOne
    let v : Int := k * (fixOne : Int) + ((ln * fixOne / fixLn2 : Nat) : Int)
    .fin (decide (v < 0)) (if v < 0 then 2 * v.natAbs - 1 else 2 * v.natAbs + 1) (-321)

/-- The sine, and the cosine where `cosine` is set, of a finite value other than zero, in radians (09 R214). -/
def trigValue (cosine neg : Bool) (m : Nat) (e : Int) : FVal :=
  if (bitLen m : Int) + e < -20 then
    if cosine then .fin false (2 ^ 60 - 1) (-60) else .fin neg (m * 2 ^ 30 - 1) (e - 30)
  else
    let x := m * 2 ^ (e + 512).toNat
    let n := x / halfPi512
    let r := (x - n * halfPi512) / 2 ^ 192
    let r2 := r * r / fixOne
    let s := r * trigSeries r2 50 2 / fixOne
    let c := trigSeries r2 50 1
    let quad := (if cosine then n + 1 else n) % 4
    let useCos := quad % 2 == 1
    let sg := (if cosine then false else neg) != decide (2 ≤ quad)
    .fin sg (2 * (if useCos then c else s) + 1) (-321)

/-! ## Operations of one lane -/

/-- The NaN result of an operation and the flags its operands raise (02 R31). -/
def nanResult (f : FFormat) (xs : List FVal) : Nat × Flags := (f.nan, flagIf (xs.any signals) flNV)

/-- An addition, correctly rounded (02 R34). -/
def faddV (f : FFormat) (nm : NumMode) (x y : FVal) : Nat × Flags :=
  if isNan x || isNan y then nanResult f [x, y]
  else match sumExact nm.rnd x y with
    | some v => writeFloat f nm v
    | none => (f.nan, flNV)

/-- A multiplication, correctly rounded (02 R34). -/
def fmulV (f : FFormat) (nm : NumMode) (x y : FVal) : Nat × Flags :=
  if isNan x || isNan y then nanResult f [x, y]
  else match mulExact x y with
    | some v => writeFloat f nm v
    | none => (f.nan, flNV)

/-- A product plus an addend with one rounding (02 R34); 0 × ∞ is invalid even beside a quiet NaN addend (R31). -/
def fmaV (f : FFormat) (nm : NumMode) (x y z : FVal) : Nat × Flags :=
  if isNan x || isNan y then nanResult f [x, y, z]
  else match mulExact x y with
    | none => (f.nan, flNV)
    | some p =>
      if isNan z then nanResult f [z]
      else match sumExact nm.rnd p z with
        | some v => writeFloat f nm v
        | none => (f.nan, flNV)

/-- A division, correctly rounded (02 R34, R41). -/
def fdivV (f : FFormat) (nm : NumMode) (x y : FVal) : Nat × Flags :=
  if isNan x || isNan y then nanResult f [x, y]
  else match divExact x y with
    | some (v, fl) => let (r, g) := writeFloat f nm v; (r, fl ||| g)
    | none => (f.nan, flNV)

/-- |x − y| with one rounding (09 R208). -/
def fabsdV (f : FFormat) (nm : NumMode) (x y : FVal) : Nat × Flags :=
  if isNan x || isNan y then nanResult f [x, y]
  else match sumExact nm.rnd x (negate y) with
    | some v => writeFloat f nm (withSign false v)
    | none => (f.nan, flNV)

/-- The order of two values that are not NaNs: less, equal or greater, zeros equal. -/
def fcmp : FVal → FVal → Ordering
  | .inf a, .inf b => if a = b then .eq else if a then .lt else .gt
  | .inf a, _ => if a then .lt else .gt
  | _, .inf b => if b then .gt else .lt
  | .fin a m e, .fin b n g =>
    let q := min e g
    compare (scaledInt a m e q) (scaledInt b n g q)
  | _, _ => .eq

/-- Whether x comes no later than y where −0 lies below +0 (02 R32). -/
def fleTotal (x y : FVal) : Bool :=
  match fcmp x y with
  | .lt => true
  | .gt => false
  | .eq => signNeg x || !signNeg y

/-- The smaller of two values, or the larger (02 R32): a lone NaN gives the other operand. -/
def fminmaxV (f : FFormat) (larger : Bool) (x y : FVal) : Nat × Flags :=
  let fl := flagIf (signals x || signals y) flNV
  let v := if isNan x then y else if isNan y then x
    else if fleTotal x y != larger then x else y
  ((writeFloat f engineMode v).1, fl)

/-- A unary float function that the special-case table of 09 R214 or the rows of R213 name. -/
inductive FUnary
  | neg | abs | rcp | rsq | sqrt | exp2 | log2 | sin | cos | floor | ceil | trunc | rint | frac
  deriving DecidableEq, Repr

/-- A finite value rounded to an integral value by a rule, its sign kept (09 R215). -/
def integralV (r : Rounding) (neg : Bool) (m : Nat) (e : Int) : FVal × Bool :=
  let (n, nx) := roundAt r neg m e 0
  (.fin neg n 0, nx)

/-- The fraction of a finite value: a − Trunc(a), exact, with the sign of a (09 R213). -/
def fracV (neg : Bool) (m : Nat) (e : Int) : FVal :=
  if 0 ≤ e then .fin neg 0 0 else .fin neg (m % 2 ^ (-e).toNat) e

/-- The exact or jammed result of a unary function of a value that is no NaN, with its own flags; none where it is
invalid (09 R213 to R215). -/
def funaryExact (op : FUnary) (r : Rounding) (x : FVal) : Option (FVal × Flags) :=
  match op, x with
  | .neg, v => some (negate v, 0)
  | .abs, v => some (withSign false v, 0)
  | .rcp, v => divExact (.fin false 1 0) v
  | .rsq, .inf false => some (.fin false 0 0, 0)
  | .rsq, .fin neg m e =>
    if m = 0 then some (.inf neg, flDZ) else if neg then none else some (rsqrtJam m e, 0)
  | .sqrt, .inf false => some (.inf false, 0)
  | .sqrt, .fin neg m e =>
    if m = 0 then some (.fin neg m e, 0) else if neg then none else some (sqrtJam m e, 0)
  | .exp2, .inf neg => some (if neg then .fin false 0 0 else .inf false, 0)
  | .exp2, .fin neg m e => some (if m = 0 then .fin false 1 0 else exp2Value neg m e, 0)
  | .log2, .inf false => some (.inf false, 0)
  | .log2, .fin neg m e =>
    if m = 0 then some (.inf true, flDZ) else if neg then none else some (log2Value m e, 0)
  | .sin, .fin neg m e => some (if m = 0 then .fin neg 0 0 else trigValue false neg m e, 0)
  | .cos, .fin neg m e => some (if m = 0 then .fin false 1 0 else trigValue true neg m e, 0)
  | .floor, .fin neg m e => some ((integralV .rdn neg m e).1, 0)
  | .ceil, .fin neg m e => some ((integralV .rup neg m e).1, 0)
  | .trunc, .fin neg m e => some ((integralV .rtz neg m e).1, 0)
  | .rint, .fin neg m e => let (v, nx) := integralV r neg m e; some (v, flagIf nx flNX)
  | .frac, .fin neg m e => some (fracV neg m e, 0)
  | .floor, .inf n | .ceil, .inf n | .trunc, .inf n | .rint, .inf n => some (.inf n, 0)
  | _, _ => none

/-- The functions whose result is written without a rounding of its own (09 R213, R215). -/
def funaryExactResult : FUnary → Bool
  | .neg | .abs | .floor | .ceil | .trunc | .rint | .frac => true
  | _ => false

/-- A unary float function on a lane (09 R213 to R215). -/
def funaryV (op : FUnary) (f : FFormat) (nm : NumMode) (x : FVal) : Nat × Flags :=
  if isNan x then nanResult f [x]
  else match funaryExact op nm.rnd x with
    | none => (f.nan, flNV)
    | some (v, fl) =>
      if funaryExactResult op then ((writeFloat f engineMode v).1, fl)
      else let (r, g) := writeFloat f nm v; (r, fl ||| g)

/-- The class bit of an e4m3, f16, bf16 or f32 encoding (09 R216). -/
def fclass (t : EType) (raw : Nat) : Nat :=
  match readFloat t false raw with
  | .nan s => if s then 2 ^ 8 else 2 ^ 9
  | .inf neg => if neg then 1 else 2 ^ 7
  | .fin neg m _ =>
    if m = 0 then (if neg then 2 ^ 3 else 2 ^ 4)
    else if m < 2 ^ (ffmt t).frac then (if neg then 2 ^ 2 else 2 ^ 5)
    else (if neg then 2 else 2 ^ 6)

/-- The five compares of 08 R174. -/
inductive Cmp
  | eq | ne | lt | le | un
  deriving DecidableEq, Repr

/-! ## Integers -/

/-- The least value of an integer type (02 R25). -/
def intMin (t : EType) : Int := if isSigned t then -((2 ^ (widthOf t - 1) : Nat) : Int) else 0
/-- The greatest value of an integer type (02 R25). -/
def intMax (t : EType) : Int :=
  ((2 ^ (if isSigned t then widthOf t - 1 else widthOf t) : Nat) : Int) - 1

/-- The integer a raw element stands for (02 R25). -/
def readInt (t : EType) (raw : Nat) : Int :=
  if isSigned t then signedOf (widthOf t) raw else ((raw % 2 ^ widthOf t : Nat) : Int)

/-- An integer result under SAT: clamped with SV, or wrapped modulo 2^width (02 R37). -/
def narrowInt (t : EType) (sat : Bool) (z : Int) : Nat × Flags :=
  if sat && decide (z < intMin t) then (unsignedOf (widthOf t) (intMin t), flSV)
  else if sat && decide (intMax t < z) then (unsignedOf (widthOf t) (intMax t), flSV)
  else (unsignedOf (widthOf t) z, 0)

/-- Integer division of one lane: quotient by R38, rounded toward zero. -/
def intDiv (t : EType) (sat : Bool) (a b : Int) : Nat × Flags :=
  if b = 0 then (2 ^ widthOf t - 1, flDZ) else narrowInt t sat (a.tdiv b)

/-- The remainder of 02 R38, with the dividend's sign. -/
def intRem (t : EType) (a b : Int) : Nat × Flags :=
  if b = 0 then (unsignedOf (widthOf t) a, flDZ) else (unsignedOf (widthOf t) (a.tmod b), 0)

/-! ## Conversions -/

/-- A float value rounded to an integer type, clamped whatever SAT says (02 R39). -/
def floatToInt (t : EType) (r : Rounding) : FVal → Nat × Flags
  | .nan _ => (0, flNV)
  | .inf neg => (unsignedOf (widthOf t) (if neg then intMin t else intMax t), flNV)
  | .fin neg m e =>
    let (n, nx) := roundAt r neg m e 0
    let z : Int := if neg then -(n : Int) else n
    if z < intMin t then (unsignedOf (widthOf t) (intMin t), flNV)
    else if intMax t < z then (unsignedOf (widthOf t) (intMax t), flNV)
    else (unsignedOf (widthOf t) z, flagIf nx flNX)

/-- Converts a raw element of one type to another (02 R39, R40). -/
def convertRaw (x t : EType) (nm : NumMode) (raw : Nat) : Nat × Flags :=
  if isInteger x then
    let z := readInt x raw
    if isInteger t then narrowInt t nm.sat z
    else roundFinite (ffmt t) nm (decide (z < 0)) z.natAbs 0
  else
    let v := readFloat x nm.ftz raw
    if isInteger t then floatToInt t nm.rnd v
    else if isNan v then nanResult (ffmt t) [v]
    else writeFloat (ffmt t) nm v

/-! ## f32 operations of the engines (02 R44, R50): rne, no flags -/

/-- An f32 encoding read as a value. -/
def f32Val (a : Nat) : FVal := readFloat .f32 false a
/-- An exact value rounded to f32 with rne. -/
def f32Of (v : FVal) : Nat := (writeFloat fmtF32 engineMode v).1
/-- a + b in f32. -/
def f32Add (a b : Nat) : Nat := (faddV fmtF32 engineMode (f32Val a) (f32Val b)).1
/-- a − b in f32. -/
def f32Sub (a b : Nat) : Nat := (faddV fmtF32 engineMode (f32Val a) (negate (f32Val b))).1
/-- a × b in f32. -/
def f32Mul (a b : Nat) : Nat := (fmulV fmtF32 engineMode (f32Val a) (f32Val b)).1
/-- a ÷ b in f32. -/
def f32Div (a b : Nat) : Nat := (fdivV fmtF32 engineMode (f32Val a) (f32Val b)).1
/-- The exact product of two elements of float types, rounded to f32 with rne (02 R44). -/
def f32MulOf (x y : EType) (a b : Nat) : Nat :=
  (fmulV fmtF32 engineMode (readFloat x false a) (readFloat y false b)).1
/-- Whether an f32 encoding is a NaN. -/
def f32IsNan (a : Nat) : Bool := isNan (f32Val a)

end Sys2Proof.Machine
end

