-- ==== Sys2Proof/Machine/Lanes.lean ====
section
/-! DEFINITION. What each vector instruction does to one lane: elements in a lane (02 R25 to R27) and the lane functions
of 09 R208 to R219, 08 R174, R178 and R180, and 02 R37 to R40, R48. -/
namespace Sys2Proof.Machine

/-- A lane form (32 bits, or 64 for a register pair) and the flags raised. -/
abbrev LaneRes := Nat × Flags

/-- The element of a lane: its low bits, or the pair of the even and the odd register (02 R26, R27). -/
def elemOf (t : EType) (lo hi : Word) : Nat :=
  if is64 t then lo.toNat + hi.toNat * 2 ^ 32 else lo.toNat % 2 ^ widthOf t

/-- The lane form of a raw element: sign-extended or zero-extended to the lane (02 R25). -/
def laneForm (t : EType) (raw : Nat) : Nat :=
  if is64 t then raw % 2 ^ 64
  else if isSigned t then unsignedOf 32 (signedOf (widthOf t) raw)
  else raw % 2 ^ widthOf t

/-- A raw element and flags in lane form. -/
def inLane (t : EType) (r : Nat × Flags) : LaneRes := (laneForm t r.1, r.2)

/-- A raw element with no flag, in lane form. -/
def plainLane (t : EType) (raw : Nat) : LaneRes := (laneForm t raw, 0)

/-- a + b (09 R208). -/
def lnAdd (t : EType) (nm : NumMode) (a b : Nat) : LaneRes :=
  inLane t (if isInteger t then narrowInt t nm.sat (readInt t a + readInt t b)
    else faddV (ffmt t) nm (readFloat t nm.ftz a) (readFloat t nm.ftz b))

/-- a − b (09 R208). -/
def lnSub (t : EType) (nm : NumMode) (a b : Nat) : LaneRes :=
  inLane t (if isInteger t then narrowInt t nm.sat (readInt t a - readInt t b)
    else faddV (ffmt t) nm (readFloat t nm.ftz a) (negate (readFloat t nm.ftz b)))

/-- a × b (09 R208). -/
def lnMul (t : EType) (nm : NumMode) (a b : Nat) : LaneRes :=
  inLane t (if isInteger t then narrowInt t nm.sat (readInt t a * readInt t b)
    else fmulV (ffmt t) nm (readFloat t nm.ftz a) (readFloat t nm.ftz b))

/-- The upper half of the exact integer product (09 R208). -/
def lnMulh (t : EType) (a b : Nat) : LaneRes :=
  plainLane t (unsignedOf (widthOf t) ((readInt t a * readInt t b) / ((2 ^ widthOf t : Nat) : Int)))

/-- a ÷ b (09 R208; 02 R38). -/
def lnDiv (t : EType) (nm : NumMode) (a b : Nat) : LaneRes :=
  inLane t (if isInteger t then intDiv t nm.sat (readInt t a) (readInt t b)
    else fdivV (ffmt t) nm (readFloat t nm.ftz a) (readFloat t nm.ftz b))

/-- The integer remainder (02 R38). -/
def lnRem (t : EType) (a b : Nat) : LaneRes := inLane t (intRem t (readInt t a) (readInt t b))

/-- The smaller element, or the larger (09 R208; 02 R32). -/
def lnMinMax (t : EType) (nm : NumMode) (larger : Bool) (a b : Nat) : LaneRes :=
  inLane t (if isInteger t then
      (if (decide (readInt t a ≤ readInt t b)) != larger then a else b, 0)
    else fminmaxV (ffmt t) larger (readFloat t nm.ftz a) (readFloat t nm.ftz b))

/-- The raw logic of the width (09 R208). -/
def lnLogic (t : EType) (f : Nat → Nat → Nat) (a b : Nat) : LaneRes := plainLane t (f a b)

/-- Shift left (09 R209). -/
def lnShl (t : EType) (a n : Nat) : LaneRes :=
  plainLane t (if n < widthOf t then a * 2 ^ n % 2 ^ widthOf t else 0)

/-- Logical shift right (09 R209). -/
def lnShr (t : EType) (a n : Nat) : LaneRes := plainLane t (if n < widthOf t then a / 2 ^ n else 0)

/-- Arithmetic shift right; on n types the logical one (09 R209). -/
def lnSra (t : EType) (a n : Nat) : LaneRes :=
  if isSigned t then plainLane t (unsignedOf (widthOf t) (readInt t a / ((2 ^ min n (widthOf t) : Nat) : Int)))
  else lnShr t a n

/-- Rotate left by n mod w (09 R209). -/
def lnRot (t : EType) (a n : Nat) : LaneRes :=
  let w := widthOf t
  let k := n % w
  plainLane t (a * 2 ^ k % 2 ^ w + a / 2 ^ (w - k))

/-- |a − b|: exact and zero-extended for integers, one rounding for floats (02 R37; 09 R208). -/
def lnAbsd (t : EType) (nm : NumMode) (a b : Nat) : LaneRes :=
  if isInteger t then ((readInt t a - readInt t b).natAbs, 0)
  else inLane t (fabsdV (ffmt t) nm (readFloat t nm.ftz a) (readFloat t nm.ftz b))

/-- The magnitude of a with the sign of b; a signalling NaN b sets NV as any operand does, unless a is a NaN, whose flags R211
gives (02 R31; 09 R211; DEDUCED, log 107). -/
def lnCsgn (t : EType) (nm : NumMode) (a b : Nat) : LaneRes :=
  if isInteger t then
    let m : Int := (readInt t a).natAbs
    plainLane t (unsignedOf (widthOf t) (if readInt t b < 0 then -m else m))
  else
    let x := readFloat t nm.ftz a
    if isNan x then nanResult (ffmt t) [x]
    else ((writeFloat (ffmt t) engineMode (withSign (bitOf b (widthOf t - 1)) x)).1, flagIf (signals (readFloat t nm.ftz b)) flNV)

/-- Two elements converted from X and packed in one lane (09 R212). -/
def lnPk (x t : EType) (nm : NumMode) (a b : Nat) : LaneRes :=
  let (p, fp) := convertRaw x t nm a
  let (q, fq) := convertRaw x t nm b
  (p + q * 2 ^ widthOf t, fp ||| fq)

/-- a × b + d, or − d (09 R213; 02 R34, R37). -/
def lnMad (t : EType) (nm : NumMode) (minus : Bool) (a b d : Nat) : LaneRes :=
  inLane t (if isInteger t then
      let p := readInt t a * readInt t b
      narrowInt t nm.sat (if minus then p - readInt t d else p + readInt t d)
    else
      let z := readFloat t nm.ftz d
      fmaV (ffmt t) nm (readFloat t nm.ftz a) (readFloat t nm.ftz b) (if minus then negate z else z))

/-- Min(Max(d, a), b) (09 R213). -/
def lnClmp (t : EType) (nm : NumMode) (a b d : Nat) : LaneRes :=
  if isInteger t then
    let m := (lnMinMax t nm true d a).1 % 2 ^ widthOf t
    lnMinMax t nm false m b
  else
    let (m, f) := fminmaxV (ffmt t) true (readFloat t nm.ftz d) (readFloat t nm.ftz a)
    let (r, g) := fminmaxV (ffmt t) false (readFloat t nm.ftz m) (readFloat t nm.ftz b)
    (laneForm t r, f ||| g)

/-- Packed element i of a lane, 8 bits. -/
def packed8 (w i : Nat) : Nat := w / 2 ^ (8 * i) % 256

/-- The dot product of four packed elements onto a 32-bit lane (02 R48). -/
def lnDot4 (t : EType) (nm : NumMode) (a b d : Nat) : LaneRes :=
  if isInteger t then
    let s : Int := (upTo 4).foldl
      (fun acc i => acc + readInt .i8 (packed8 a i) * readInt .i8 (packed8 b i)) 0
    inLane .i32 (narrowInt .i32 nm.sat (s + readInt .i32 d))
  else
    let p := fun i => f32MulOf .e4m3 .e4m3 (packed8 a i) (packed8 b i)
    let add := fun (x : LaneRes) (y : Nat) =>
      let (r, f) := faddV fmtF32 nm (readFloat .f32 nm.ftz x.1) (readFloat .f32 nm.ftz y)
      (r, x.2 ||| f)
    let s := add (add (add (p 0, 0) (p 1)) (p 2)) (p 3)
    add s d

/-- −a (09 R213). -/
def lnNeg (t : EType) (nm : NumMode) (a : Nat) : LaneRes :=
  inLane t (if isInteger t then narrowInt t nm.sat (-readInt t a)
    else funaryV .neg (ffmt t) nm (readFloat t nm.ftz a))

/-- |a| (09 R213). -/
def lnAbs (t : EType) (nm : NumMode) (a : Nat) : LaneRes :=
  inLane t (if isInteger t then narrowInt t nm.sat ((readInt t a).natAbs : Int)
    else funaryV .abs (ffmt t) nm (readFloat t nm.ftz a))

/-- not a (09 R213). -/
def lnNot (t : EType) (a : Nat) : LaneRes := plainLane t (2 ^ widthOf t - 1 - a)
/-- Leading zero bits, an unsigned integer of the width (09 R213). -/
def lnClz (t : EType) (a : Nat) : LaneRes := (widthOf t - bitLen a, 0)
/-- One bits, an unsigned integer of the width (09 R213). -/
def lnPop (t : EType) (a : Nat) : LaneRes := (popOf (widthOf t) a, 0)
/-- The bits in reverse order, an unsigned integer of the width (09 R213). -/
def lnBrev (t : EType) (a : Nat) : LaneRes := (revOf (widthOf t) a, 0)
/-- A conversion from X to E (02 R39, R40). -/
def lnCvt (x t : EType) (nm : NumMode) (a : Nat) : LaneRes := inLane t (convertRaw x t nm a)
/-- A unary float function (09 R213 to R215). -/
def lnUnary (op : FUnary) (t : EType) (nm : NumMode) (a : Nat) : LaneRes :=
  inLane t (funaryV op (ffmt t) nm (readFloat t nm.ftz a))
/-- The class mask, written whole into the 32-bit lane (09 R216). -/
def lnClass (t : EType) (a : Nat) : LaneRes := (fclass t a, 0)

/-- A compare of one lane and its flags (08 R174). -/
def lnCmp (op : Cmp) (t : EType) (nm : NumMode) (a b : Nat) : Bool × Flags :=
  if isInteger t then
    let x := readInt t a
    let y := readInt t b
    (match op with
      | .eq => decide (x = y) | .ne => decide (x ≠ y) | .lt => decide (x < y) | .le => decide (x ≤ y)
      | .un => false, 0)
  else
    let x := readFloat t nm.ftz a
    let y := readFloat t nm.ftz b
    if isNan x || isNan y then
      (match op with
        | .ne | .un => true
        | .eq | .lt | .le => false,
       flagIf (signals x || signals y || op == .lt || op == .le) flNV)
    else
      let c := fcmp x y
      (match op with
        | .eq => c == .eq | .ne => c != .eq | .lt => c == .lt | .le => c != .gt | .un => false, 0)

/-- The first value of a scan as it is read: FTZ acts on it, and a NaN becomes the canonical one, with NV where it signals
(02 R31; 08 R180). -/
def lnRead (t : EType) (nm : NumMode) (a : Nat) : LaneRes :=
  if isArithFloat t then
    match readFloat t nm.ftz a with
    | .nan s => nanResult (ffmt t) [.nan s]
    | .fin neg 0 _ => (if neg then 2 ^ (widthOf t - 1) else 0, 0)
    | _ => (a, 0)
  else (a, 0)

/-- The 64-bit value of an element: sign-extended for i types, zero-extended otherwise (08 R178, R180). -/
def widen64 (t : EType) (raw : Nat) : DWord :=
  if isSigned t then BitVec.ofNat 64 (unsignedOf 64 (signedOf (widthOf t) raw)) else BitVec.ofNat 64 (raw % 2 ^ widthOf t)

/-- A 10-bit immediate sign-extended to the width of the element (09 R219). -/
def immElem (t : EType) (i : Nat) : Nat := unsignedOf (widthOf t) (signedOf 10 i)

end Sys2Proof.Machine
end

