-- ==== Sys2Proof/Machine/Flags.lean ====
section
/-! DEFINITION. The results and the flags of an instruction over its enabled lanes (02 R42; 09 R207). -/
namespace Sys2Proof.Machine

/-- The 32-bit register an instruction leaves: results in enabled lanes, the old bits elsewhere (09 R207). -/
def newLanes (en : LaneMask) (old : VReg) (f : Nat → LaneRes) : VReg :=
  vregOf fun l => if laneAt en l then BitVec.ofNat 32 (f l).1 else laneOf old l

/-- The odd register of a pair: bits [63:32] of the results (02 R27). -/
def newLanesHigh (en : LaneMask) (old : VReg) (f : Nat → LaneRes) : VReg :=
  vregOf fun l => if laneAt en l then BitVec.ofNat 32 ((f l).1 / 2 ^ 32) else laneOf old l

/-- The flags of the enabled lanes together (02 R42). -/
def lanesFlags (en : LaneMask) (f : Nat → LaneRes) : Flags := (lanesIn en).foldl (fun acc l => acc ||| (f l).2) 0

/-- The lanes of a mask in which a test holds. -/
def lanesWhere (en : LaneMask) (f : Nat → Bool) : LaneMask := maskOf fun l => laneAt en l && f l

/-- A predicate with the enabled lanes replaced (08 R173). -/
def newPred (en old : LaneMask) (f : Nat → Bool) : LaneMask := maskOf fun l => if laneAt en l then f l else laneAt old l

end Sys2Proof.Machine
end

