-- ==== Sys2Proof/Config.lean ====
section
/-! DEFINITION. What the spec leaves to the implementation or to chance: constants with no body, which nothing can
evaluate and no proof can know. -/
namespace Sys2Proof.Config

/-- The n-th free value of a run: the spec lists the outcomes and says which one is unspecified (00 R6). -/
opaque choose : Nat → Nat
/-- The hash of a core that names vector values: 64 bits of 1,024, and no result depends on it (09 R191). -/
opaque hash : BitVec 1024 → BitVec 64
/-- The hash of a line in a way of the check-out directory (14 R323). -/
opaque directoryHash : Nat → Nat → Nat
/-- Whether a key's signature over a message is good: key, message, signature (20 R442; DESIGN CHOICE, log 9). -/
opaque verifies : List Byte → List Byte → List Byte → Bool
/-- A chip's fused public-key hash of a key slot (20 R442). -/
opaque keyHash : Nat → Nat → List Byte
/-- The certificate chain of a package (20 R444). -/
opaque certificates : Nat → List Byte
/-- The signature of a package over a message (20 R444). -/
opaque signature : Nat → List Byte → List Byte

/-- The lanes or modules of a die-to-die link or fabric port in full, by link number (18 R418). -/
opaque linkWidth : Nat → Nat
/-- The lowest and the highest version of the CXL capability structures that the part supports (18 R419). -/
opaque cxlVersions : Nat × Nat

/-- Whether a command that blows a chip's fuses is signed: chip, command, signature (20 R442; DESIGN CHOICE, log 9). -/
opaque commandSigned : Nat → List Byte → List Byte → Bool

end Sys2Proof.Config
end

