-- ==== Sys2Proof/Machine/Memory.lean ====
section
/-! DEFINITION. The bytes of every address space of the part, as one list of cells in canonical form (00 R3; 01 R20;
11 R235; 14 R303, R305; 17 R391). -/
namespace Sys2Proof.Machine

/-- What an unlisted address reads as: zero (DESIGN CHOICE, log 1). -/
def blankByte : Byte := 0

/-- The bytes that differ from the blank byte, addresses strictly rising. -/
abbrev Memory := List Host.Cell

/-- Whether the addresses rise from a bound on and no cell holds the blank byte. -/
def memoryRises (lo : Nat) : Memory → Bool
  | [] => true
  | c :: r => decide (lo ≤ c.1) && decide (c.2 ≠ blankByte) && memoryRises (c.1 + 1) r

/-- The canonical form: addresses strictly rising, no cell equal to what an unlisted address reads as. -/
def memoryWf (m : Memory) : Bool := memoryRises 0 m

/-- The byte at an address. -/
def readCell : Memory → Nat → Byte
  | [], _ => blankByte
  | c :: r, a => if c.1 = a then c.2 else if a < c.1 then blankByte else readCell r a

/-- Memory with one byte written, in canonical form. -/
def writeCell : Memory → Nat → Byte → Memory
  | [], a, b => if b = blankByte then [] else [(a, b)]
  | c :: r, a, b =>
    if a < c.1 then (if b = blankByte then c :: r else (a, b) :: c :: r)
    else if a = c.1 then (if b = blankByte then r else (a, b) :: r)
    else c :: writeCell r a b

theorem memoryRises_mono (m : Memory) : ∀ lo hi, lo ≤ hi → memoryRises hi m = true → memoryRises lo m = true := by
  cases m with
  | nil => intros; rfl
  | cons c r =>
    intro lo hi hle h
    simp only [memoryRises, Bool.and_eq_true, decide_eq_true_eq] at h ⊢
    exact ⟨⟨Nat.le_trans hle h.1.1, h.1.2⟩, h.2⟩

theorem writeCell_rises (m : Memory) : ∀ lo a b, lo ≤ a → memoryRises lo m = true →
    memoryRises lo (writeCell m a b) = true := by
  induction m with
  | nil =>
    intro lo a b hle _
    by_cases hb : b = blankByte <;> simp [writeCell, memoryRises, hb, hle]
  | cons c r ih =>
    intro lo a b hle h
    have h0 := h
    simp only [memoryRises, Bool.and_eq_true, decide_eq_true_eq] at h
    unfold writeCell
    by_cases h1 : a < c.1
    · by_cases hb : b = blankByte
      · simp only [h1, hb, if_true]; exact h0
      · simp only [h1, hb, if_true, if_false]
        simp only [memoryRises, Bool.and_eq_true, decide_eq_true_eq]
        exact ⟨⟨hle, hb⟩, ⟨⟨h1, h.1.2⟩, h.2⟩⟩
    · by_cases h2 : a = c.1
      · by_cases hb : b = blankByte
        · simp only [h2, hb, if_true, if_false, Nat.lt_irrefl]
          exact memoryRises_mono r lo (c.1 + 1) (by omega) h.2
        · subst h2
          simp only [h1, hb, if_true, if_false]
          simp only [memoryRises, Bool.and_eq_true, decide_eq_true_eq]
          exact ⟨⟨hle, hb⟩, h.2⟩
      · simp only [h1, h2, if_false]
        simp only [memoryRises, Bool.and_eq_true, decide_eq_true_eq]
        exact ⟨h.1, ih (c.1 + 1) a b (by omega) h.2⟩

/-- Memory known to be in canonical form: every operation of the model works on this, so none can break the form. -/
abbrev GoodMem := { m : Memory // memoryWf m = true }

/-- Writes one byte. -/
def GoodMem.set (m : GoodMem) (a : Nat) (b : Byte) : GoodMem :=
  ⟨writeCell m.1 a b, writeCell_rises m.1 0 a b (Nat.zero_le a) m.2⟩

/-- Reads one byte. -/
def GoodMem.get (m : GoodMem) (a : Nat) : Byte := readCell m.1 a

/-- Reads `n` bytes from an address up. -/
def GoodMem.bytes (m : GoodMem) : Nat → Nat → List Byte
  | _, 0 => []
  | a, n + 1 => m.get a :: GoodMem.bytes m (a + 1) n

/-- Writes bytes from an address up. -/
def GoodMem.store (m : GoodMem) (a : Nat) : List Byte → GoodMem
  | [] => m
  | b :: r => GoodMem.store (m.set a b) (a + 1) r

/-- Keeps only the cells an address test passes: the others read blank. -/
def clearCells (f : Nat → Bool) (m : Memory) : Memory := m.filter fun c => !f c.1

theorem clearCells_rises (f : Nat → Bool) (m : Memory) : ∀ lo, memoryRises lo m = true →
    memoryRises lo (clearCells f m) = true := by
  induction m with
  | nil => intro lo _; rfl
  | cons c r ih =>
    intro lo h
    simp only [memoryRises, Bool.and_eq_true, decide_eq_true_eq] at h
    have hr := ih (c.1 + 1) h.2
    by_cases hf : f c.1 = true
    · have : clearCells f (c :: r) = clearCells f r := by simp [clearCells, hf]
      rw [this]; exact memoryRises_mono _ lo (c.1 + 1) (by omega) hr
    · have : clearCells f (c :: r) = c :: clearCells f r := by simp [clearCells, hf]
      rw [this]
      simp only [memoryRises, Bool.and_eq_true, decide_eq_true_eq]
      exact ⟨h.1, hr⟩

/-- Sets every byte whose address passes a test to the blank byte (05 R119, 17 R404). -/
def GoodMem.clear (m : GoodMem) (f : Nat → Bool) : GoodMem :=
  ⟨clearCells f m.1, clearCells_rises f m.1 0 m.2⟩

/-! ## Where each store lies in the one list of cells -/

/-- A byte of a chip's HBM by its package and its 52-bit physical address, whose bits [51:48] name the chip
(17 R391). -/
def hbmKey (pkg pa : Nat) : Nat := pkg * 2 ^ 52 + pa % 2 ^ 52
/-- A byte of the memory of a package's host (14 R305, 17 R395). -/
def hostKey (pkg pa : Nat) : Nat := 2 ^ 60 + pkg * 2 ^ 52 + pa % 2 ^ 52
/-- A byte of a context's scratchpad carve-out on a chip (14 R303). -/
def scratchKey (chip ctx off : Nat) : Nat := 2 ^ 61 + (chip * 64 + ctx) * 2 ^ 30 + off
/-- A byte of a block's shared memory (14 R303). -/
def sharedKey (block off : Nat) : Nat := 2 ^ 62 + block * 2 ^ 21 + off
/-- A byte of a tile's slot (11 R235). -/
def tileKey (block tile off : Nat) : Nat := 2 ^ 100 + (block * 32 + tile) * 65536 + off
/-- A byte of an engine's coefficient store: 262,144 bytes an engine (12 R265, R280). -/
def coefKey (chip core engine off : Nat) : Nat := 2 ^ 140 + ((chip * 96 + core) * 4 + engine) * 262144 + off
/-- A byte of a chip's audit ring, which is mapped to no context (20 R445). -/
def auditKey (chip off : Nat) : Nat := 2 ^ 150 + chip * 2 ^ 22 + off

end Sys2Proof.Machine
end

