-- ==== Sys2Proof/Machine/Parts.lean ====
section
/-! DEFINITION. The parts the state is made of: one plain record for each object of the spec, its reset value written as the
default of each field. A field's docstring names the rule that gives it. -/
namespace Sys2Proof.Machine

/-! ## Groups and fragments -/

/-- A leaf of the issue-slot tree (19 R422), in the order of its counters. -/
inductive Leaf
  | executed | reused | dependency | operand | memQueue | memOrder | memTranslation | engTile | engLatch | engBusy
  | syncBarrier | syncBatch | syncRegroup | syncTable | frontend | trap | idle
  deriving DecidableEq, Repr

/-- The pending restore of a counted `mode` (03 R78). -/
structure PendingRestore where
  /-- The half it restores: set for `%mode[24:18]` (03 R78). -/
  high : Bool
  /-- The saved half (03 R78). -/
  saved : BitVec 18
  /-- Instructions still to issue; 0 once the half is due to revert (03 R78). -/
  count : Nat
  deriving DecidableEq, Repr

/-- The state of a split-table entry in use; a FREE entry is absent from its table (08 R165). -/
inductive EntryState
  | run | joinWait | hollow
  deriving DecidableEq, Repr

/-- What a fragment waits for at the instruction it has reached (08 R158). -/
inductive Wait
  /-- The phase bit of an arrival already counted, at a barrier level and id (10 R231). -/
  | barrier (lvl id : Nat) (ph : Bool)
  /-- `tsync` with the recorded applied entry (15 R361). -/
  | tsync (target : Nat)
  /-- `regrp` arrived (08 R182). -/
  | regroup
  /-- `seal` or `waitb` until at most so many sealed batches of a class are outstanding (13 R283, R284). -/
  | batch (cls most : Nat)
  /-- A second arrival in one phase, attempted in a cycle: a fault unless the phase completed in that cycle (10 R227, R231). -/
  | double (cycle : Nat)
  deriving DecidableEq, Repr

/-- A split-table entry in use: one fragment (08 R165). -/
structure Entry where
  /-- RUN, JOINWAIT or HOLLOW (08 R165). -/
  st : EntryState := .run
  /-- Address of the fragment's next instruction (08 R165). -/
  pc : DWord := 0
  /-- The fragment's lanes (08 R165). -/
  lanes : LaneMask := 0xFFFFFFFF
  /-- `%mode` (03 R76). -/
  mode : Word := 0x0000014F
  /-- `%fmt` (03 R82). -/
  fmt : Word := 0x00030ABB
  /-- The pending restore (03 R78). -/
  pending : Option PendingRestore := none
  /-- The rejoin address set by `rcv` (08 R165). -/
  rcv : Option DWord := none
  /-- Rejoin address of the split that made the entry; none is NONE (08 R165). -/
  rejoin : Option DWord := none
  /-- `%mode` the partner resumes with at fusion (08 R165). -/
  retMode : Word := 0
  /-- `%fmt` the partner resumes with at fusion (08 R165). -/
  retFmt : Word := 0
  /-- The entry into which this entry fuses (08 R165). -/
  partner : Option Nat := none
  /-- Creation order (08 R165). -/
  order : Nat := 0
  /-- The wait the fragment is in at its next instruction (08 R158). -/
  wait : Option Wait := none
  /-- The leaf of a stalled attempt to issue and the cycle of the attempt (08 R158, 19 R423). -/
  stall : Option (Leaf × Nat) := none
  /-- Set from `eret` or a resume until the next issue: no comparator or watchpoint hits (19 R428, R430). -/
  unchecked : Bool := false
  /-- Its next instruction has stalled on a held link (18 R417). -/
  linkWait : Bool := false
  /-- Cycle from which the fragment's next instruction has its operands: an operand refill under way or done, until the
  next issue (09 R189). -/
  refill : Option Nat := none
  deriving DecidableEq, Repr

/-- The state of a group that holds a slot (08 R157); FREE is absence, SAVED stands in a saved cluster. -/
inductive GroupState
  | resident | active | stopped | retiring
  deriving DecidableEq, Repr

/-- Why a group stopped, as the dump's identity has it (24 R458). -/
inductive StopCause
  | fault | dumpHalt | halt
  deriving DecidableEq, Repr

/-- A vector mapping: the value, and the physical register that holds it (09 R191). -/
structure VMap where
  /-- The 1,024 bits (09 R191). -/
  bits : VReg
  /-- The number of an unnamed register; none for the zero register and for one that its bits name (09 R191, R194). -/
  unnamed : Option Nat := none
  deriving DecidableEq, Repr

/-- A register write that an operation makes when its result is written (03 R56). -/
inductive RegWrite
  | v (n : Nat) (value : VReg)
  | s (n : Nat) (value : DWord)
  | p (n : Nat) (value : LaneMask)
  deriving DecidableEq, Repr

/-- The segment kind and path of one access (14 R305; 17 R395). -/
inductive Path
  /-- HBM of a chip reached as private or chip-local or peer: home chip, whether the kind checks out, write-through. -/
  | home (chip : Nat) (shared writeThrough : Bool)
  /-- The seat's copy of the replicated region at an offset (17 R395). -/
  | replica (off : Nat)
  /-- Host memory through CXL.cache (17 R395). -/
  | host
  /-- The scratchpad carve-out of the issuing chip (14 R303). -/
  | scratch
  /-- Block-shared memory (14 R303). -/
  | shared
  /-- The group's spill stack (14 R303). -/
  | stack
  deriving DecidableEq, Repr

/-- One lane's translated access. -/
structure Acc where
  /-- The lane; 0 for a scalar form. -/
  lane : Nat
  /-- The address the program formed (14 R327). -/
  va : DWord
  /-- The cell of the first byte. -/
  key : Nat
  /-- Bytes accessed. -/
  width : Nat
  /-- How the bytes are reached. -/
  path : Path
  /-- The page's cache level includes L1 (17 R397). -/
  l1 : Bool := false
  /-- The page's cache level includes the LLC (17 R397). -/
  llc : Bool := false
  /-- How long the LLC keeps its lines: 0 for cache level 3, else 1 and the page's EP (17 R397). -/
  keep : Nat := 1
  deriving DecidableEq, Repr

/-- The atomic operations of 14 R329 and the reductions of R334. -/
inductive AtomicOp
  | add | min | max | and | or | xor | xch | cas
  deriving DecidableEq, Repr

/-- What an operation in a group's program-order queue does when it is performed. -/
inductive OpKind
  /-- Writes registers with a value fixed at issue (03 R56). -/
  | value (writes : List RegWrite)
  /-- `vld`: element type code, destination, accesses (14 R328). -/
  | load (etype vd : Nat) (accs : List Acc)
  /-- `sld` (14 R332). -/
  | sload (sd : Nat) (acc : Acc)
  /-- `vpop` of the spill stack: every lane of vd, from its own word (14 R330). -/
  | pop (vd : Nat) (accs : List Acc)
  /-- An atomic: operation, type code, destination, for each lane its access, operand and expected value (14 R329). -/
  | atomic (op : AtomicOp) (etype vd : Nat) (accs : List (Acc × Nat × Nat))
  /-- `saadd` (14 R332). -/
  | satomic (sd : Nat) (acc : Acc) (addend : Nat)
  /-- A store: for each lane its access and data; the stores of a later lane come later (14 R328). -/
  | store (accs : List (Acc × Nat))
  /-- A result that another unit is still to give: the vector and scalar registers it writes (14 R339; 15 R357). -/
  | external (vs ss : List Nat)
  /-- A numbered weak update whose packet waits for its release: its number in the seat's outbox, the scope, and the accesses of
  the same store to other pages, which wait too (15 R348). -/
  | publish (n scope : Nat) (accs : List Acc)
  deriving DecidableEq, Repr

/-- An operation issued and not yet performed (03 R56; 14 R313). -/
structure GroupOp where
  /-- Its number in the group, rising in program order. -/
  id : Nat
  /-- What it does. -/
  kind : OpKind
  /-- The flags it raises when its result is written (02 R42). -/
  flags : BitVec 6 := 0
  /-- Set for a V-class operation: the group's marker waits for it (03 R55). -/
  isV : Bool := true
  /-- Issue time in ns (14 R313). -/
  issued : Nat := 0
  /-- The reuse-table entry to insert at write-back: its key, and the values of the sources it names (09 R193, R198). -/
  key : Option (List Nat × List VReg) := none
  /-- For a result that another unit gives: it is an acquire, and no later access of the group goes before it (14 R307;
  15 R357). -/
  acquire : Bool := false
  /-- Its instruction's place in the issue order of the region it stands in; 0 outside one (16 R389). -/
  place : Nat := 0
  deriving DecidableEq, Repr

/-- A fault found and not yet delivered (05 R110). -/
structure FaultInfo where
  /-- Fault code (05 R121). -/
  code : Nat
  /-- `%tcause.detail` (05 R111). -/
  detail : Nat := 0
  /-- `%tval` where it is meaningful (05 R111). -/
  tval : Option DWord := none
  /-- The address written to `%tpc` (05 R111). -/
  tpc : DWord := 0
  /-- The split-table entry that faulted. -/
  entry : Nat := 0
  /-- For a late fault: the place of its instruction in a region's issue order (14 R326; 16 R389). -/
  place : Option Nat := none
  deriving DecidableEq, Repr

/-- The tag of a vector lane inside a region (16 R377). PLAIN is absence. -/
inductive Tag
  | sym (k : Nat) (c : Word)
  | deps (refs : List (Nat × Nat))
  deriving DecidableEq, Repr

/-- A checked load of a region (16 R376, R382). -/
structure RegionLoad where
  /-- The lane. -/
  lane : Nat
  /-- The load's number in the lane, 0 to 7. -/
  k : Nat
  /-- The access. -/
  acc : Acc
  /-- The value loaded. -/
  old : Nat := 0
  /-- Signedness of the element type, for Extend (16 R377). -/
  etype : Nat := 4
  deriving DecidableEq, Repr

/-- The data of a region store (16 R380). -/
inductive StoreData
  | plain (value : Nat)
  | sym (lane k : Nat) (c : Word) (value : Nat)
  | deps (refs : List (Nat × Nat)) (value : Nat)
  deriving DecidableEq, Repr

/-- A store held in a region's record (16 R380). -/
structure RegionStore where
  /-- The access; its lane is the storing lane. -/
  acc : Acc
  /-- The data. -/
  data : StoreData
  deriving DecidableEq, Repr

/-- A constraint of a region (16 R379). -/
structure Constraint where
  /-- The lane. -/
  lane : Nat
  /-- The load number. -/
  k : Nat
  /-- The constant. -/
  c : Word
  /-- The relation's number: 0 eq, 1 ne, 2 lt, 3 le. -/
  rel : Nat
  /-- The SYM operand stands first. -/
  symFirst : Bool
  /-- The element type is i32. -/
  signed : Bool
  /-- The PLAIN value. -/
  plain : Word
  /-- The outcome recorded. -/
  outcome : Bool
  deriving DecidableEq, Repr

/-- The mode state of a fragment, which a region checkpoints twice (16 R371). -/
structure ModeState where
  /-- `%mode` -/
  mode : Word
  /-- `%fmt` -/
  fmt : Word
  /-- The pending restore. -/
  pending : Option PendingRestore
  deriving DecidableEq, Repr

/-- What a region's commit sends back (16 R381, R382). -/
structure CommitResult where
  /-- `%rgn.OUT`: 2 COMMIT, 3 REAPPLY or 4 ABORT. -/
  out : Nat
  /-- `%rgn.CAUSE`. -/
  cause : Nat
  /-- `%rgn.NCHG`. -/
  nchg : Nat
  /-- The fresh value of each checked load: lane, number, value. -/
  fresh : List (Nat × Nat × Nat)
  deriving DecidableEq, Repr

/-- An open atomic region (16 R371). -/
structure Region where
  /-- The address of `ab`. -/
  abpc : DWord
  /-- The fallback address. -/
  fallback : DWord
  /-- The entry that runs the region. -/
  entry : Nat
  /-- Checkpointed vector mappings. -/
  v : AList Nat VMap
  /-- Checkpointed scalars. -/
  s : AList Nat DWord
  /-- Checkpointed predicates. -/
  p : AList Nat LaneMask
  /-- Checkpointed index windows. -/
  windows : AList Nat (Nat × Nat)
  /-- Mode state just before `ab` issued. -/
  before : ModeState
  /-- Mode state after `ab`'s own count. -/
  after : ModeState
  /-- Tags of vector lanes by register and lane; an absent lane is PLAIN (16 R377). -/
  tags : AList (Nat × Nat) Tag := []
  /-- Checked loads in order (16 R376). -/
  loads : List RegionLoad := []
  /-- Loads counted, by lane (16 R373). -/
  loadCount : AList Nat Nat := []
  /-- Store records in order (16 R380). -/
  stores : List RegionStore := []
  /-- Stores counted, by lane (16 R373). -/
  storeCount : AList Nat Nat := []
  /-- Constraints (16 R379). -/
  constraints : List Constraint := []
  /-- The fragile set (16 R379). -/
  fragile : List (Nat × Nat) := []
  /-- Instructions issued after `ab` (16 R373). -/
  issued : Nat := 0
  /-- Registers written, by lane (16 R373). -/
  written : AList Nat (List Nat) := []
  /-- The home fixed by the first access (16 R375): a chip, or none for the table. -/
  home : Option (Option Nat) := none
  /-- `ac` has been sent (16 R381; 22 R455). -/
  sent : Bool := false
  /-- The outcome, once the commit engine has it (16 R382). -/
  result : Option CommitResult := none
  /-- The turn operation of a commit on replicated data (16 R386). -/
  turnOp : Option Nat := none
  deriving DecidableEq, Repr

/-- An operation of a batch (13 R281). -/
structure BatchOp where
  /-- The operation's number. -/
  op : Nat
  /-- Template index of a copy, or 0 (13 R285). -/
  tmpl : Nat := 0
  /-- Status and bytes, once complete (13 R297). -/
  done : Option (Nat × Nat) := none
  /-- What a `cred` or an `rwcl` folds into `%osig` at retirement (14 R341). -/
  descriptor : Option (List Byte) := none
  deriving DecidableEq, Repr

/-- The error record of a class (13 R300). -/
structure BatchError where
  /-- STATUS; 0 when the record is empty (13 R285). -/
  status : Nat := 0
  /-- BYTES (13 R285). -/
  bytes : Nat := 0
  /-- TMPL (13 R285). -/
  tmpl : Nat := 0
  /-- SEQ (13 R285). -/
  seq : Nat := 0
  /-- ERR: an error recorded and not yet raised (13 R285). -/
  err : Bool := false
  /-- MORE (13 R285). -/
  more : Bool := false
  deriving DecidableEq, Repr

/-- The batches of one class of a group (13 R282). -/
structure BatchClass where
  /-- Operations of the open batch, oldest first (13 R282). -/
  opened : List BatchOp := []
  /-- Sealed batches with their sequence numbers, oldest first (13 R282). -/
  sealed : List (Nat × List BatchOp) := []
  /-- Seals of the class since placement, modulo 4,096 (13 R282). -/
  seals : Nat := 0
  /-- The group's last lane has exited and the open batch still has to seal (13 R283). -/
  sealDue : Bool := false
  /-- The error record (13 R300). -/
  error : BatchError := {}
  deriving DecidableEq, Repr

/-- A barrier (10 R223). -/
structure Barrier where
  /-- PH (10 R223). -/
  ph : Bool := false
  /-- MEM (10 R223). -/
  mem : Nat := 0
  /-- REM (10 R223). -/
  rem : Nat := 0
  /-- The units present: lanes, `%gid`s or block places (10 R222). -/
  members : List Nat := []
  /-- Units counted in the current phase (10 R224). -/
  counted : List Nat := []
  /-- AM by member group; a group of a cluster or grid barrier is named by block place and `%gid` (10 R223). -/
  am : AList (Nat × Nat) LaneMask := []
  /-- The cycle in which a phase last completed, after which its waiters issue (10 R225). -/
  doneAt : Option Nat := none
  deriving DecidableEq, Repr

/-- What a barrier belongs to, by which its level is known (10 R222). -/
inductive BarrierHolder
  /-- A group, by block place and `%gid`. -/
  | group (block gid : Nat)
  /-- A block. -/
  | block (place : Nat)
  /-- A software cluster. -/
  | cluster (place : Nat)
  /-- A grid, by its launch. -/
  | grid (launch : Nat)
  deriving DecidableEq, Repr

/-- An event of a cycle that comes after its arrivals: a member departs, or, with none, lanes have exited and members may
count (10 R227, R228). -/
structure Departure where
  /-- Core of the slot it comes from. -/
  core : Nat
  /-- The slot. -/
  slot : Nat
  /-- Holder of the barrier. -/
  holder : BarrierHolder
  /-- The barrier's number. -/
  id : Nat
  /-- The member that departs: lane, `%gid` or block place. -/
  unit : Option Nat
  deriving DecidableEq, Repr

/-- An open reduction window of a group (14 R335). -/
structure OpenWindow where
  /-- Base address. -/
  base : DWord
  /-- Length in bytes. -/
  len : Nat
  /-- Contributor count. -/
  count : Nat
  /-- The physical cell of the base, the key of the home's record. -/
  home : Nat
  /-- The number of the home's record. -/
  number : Nat
  /-- The way to the home (18 R417). -/
  path : Path
  /-- Its `rwin` met only fenced links, so that no record is kept (18 R417). -/
  lost : Bool := false
  /-- Status and descriptor, once the record has been combined without this group's `rwcl`. -/
  combined : Option (Nat × List Byte) := none
  deriving DecidableEq, Repr

/-- A release being performed by a group (14 R324). -/
structure Releasing where
  /-- Destination chips whose acknowledgement is outstanding. -/
  waiting : List Nat
  /-- Lines whose check-in it has started and a link still holds. -/
  lines : List Nat := []
  deriving DecidableEq, Repr

/-- A group in its slot (08 R157, R165, R170). -/
structure Group where
  /-- Context slot (05 R103). -/
  ctx : Nat := 0
  /-- Instance number of its block (13 R296). -/
  block : Nat := 0
  /-- `%gid` (07 R141). -/
  gid : Nat := 0
  /-- RESIDENT, ACTIVE, STOPPED or RETIRING (08 R157). -/
  st : GroupState := .resident
  /-- Declared vector registers (07 R144). -/
  vregs : Nat := 128
  /-- v0 to v127; an absent register maps to the zero register (09 R188, R194). -/
  v : AList Nat VMap := []
  /-- s0 to s191; an absent one is 0 (09 R204; 07 R142). -/
  s : AList Nat DWord := []
  /-- p0 to p11; an absent one is 0 (01 R13; 07 R142). -/
  p : AList Nat LaneMask := []
  /-- `%fflags` [5:0] (02 R41). -/
  fflags : BitVec 6 := 0
  /-- `%quor` (11 R252). -/
  quor : DWord := 0
  /-- `%rgn` (16 R389). -/
  rgn : DWord := 0
  /-- `%osig` (14 R341). -/
  osig : DWord := 0
  /-- `%ssp` (14 R331). -/
  ssp : DWord := 0
  /-- Index windows w0 to w3, base and length; an absent one covers v0 with length 1 (09 R201; 07 R142). -/
  windows : AList Nat (Nat × Nat) := []
  /-- `%tcause` (05 R111). -/
  tcause : Word := 0
  /-- `%tpc` (05 R111). -/
  tpc : DWord := 0
  /-- `%tmask` (05 R111). -/
  tmask : Word := 0
  /-- `%tval` (05 R111). -/
  tval : DWord := 0
  /-- `%tmode` (05 R111). -/
  tmode : Word := 0
  /-- `%tfmt` (05 R111). -/
  tfmt : Word := 0
  /-- `%tscr` (03 R84). -/
  tscr : DWord := 0
  /-- The entry in handler mode (05 R112). -/
  handler : Option Nat := none
  /-- The split table: the entries in use (08 R165). -/
  entries : AList Nat Entry := []
  /-- Splits made, which orders entries (08 R165). -/
  splits : Nat := 0
  /-- Lanes that have not exited (08 R157). -/
  live : LaneMask := 0xFFFFFFFF
  /-- `%tid` of a lane that `regrp` moved; an absent lane has 32 × `%gid` + L (07 R141). -/
  tid : AList Nat Nat := []
  /-- Parked at a switch marker (03 R55). -/
  parked : Bool := false
  /-- Operations issued and not performed, oldest first (03 R56; 14 R313). -/
  ops : List GroupOp := []
  /-- Number of the next operation. -/
  nextOp : Nat := 0
  /-- A fault waiting for outstanding results (05 R110). -/
  fault : Option FaultInfo := none
  /-- A late fault for the next marker: POISON (14 R326) or TABLE detail 4 (21 R452). -/
  late : Option FaultInfo := none
  /-- Batches of classes mx, cp, co and rd (13 R282). -/
  batches : AList Nat BatchClass := []
  /-- The group barrier (10 R222). -/
  bar : Barrier := { mem := 32, rem := 32, members := lanes }
  /-- Pending arrivals: level, id and the phase bit arrived in (10 R231). -/
  tokens : AList (Nat × Nat) Bool := []
  /-- The open atomic region (16 R371). -/
  region : Option Region := none
  /-- The open reduction window (14 R335). -/
  window : Option OpenWindow := none
  /-- A release being performed (14 R324). -/
  releasing : Option Releasing := none
  /-- Chips of other dies written since the last release at chp scope or wider (14 R324). -/
  wrote : List Nat := []
  /-- The opf set (09 R189, R190). -/
  opf : List Nat := []
  /-- The operand buffer, most recently used first (09 R189). -/
  buffer : List Nat := []
  /-- Offset of the spill stack in the carve-out (07 R466). -/
  stackBase : Nat := 0
  /-- Declared stack bytes (14 R331). -/
  stackLen : Nat := 0
  /-- The entry that issued last (08 R162). -/
  lastEntry : Nat := 31
  /-- Cycle the group became ACTIVE (08 R161). -/
  activeSince : Nat := 0
  /-- Cycle the group became ready while RESIDENT; none while not ready (08 R160). -/
  readySince : Option Nat := none
  /-- Cycle from which the group has waited (08 R159). -/
  waitingSince : Option Nat := none
  /-- First cycle in which a promoted group may issue (08 R160). -/
  issueFrom : Nat := 0
  /-- Vector and scalar registers that V-class instructions issued since the last marker write (03 R57). -/
  unmarked : List Nat × List Nat := ([], [])
  /-- Run-checking in force since the last marker (19 R433). -/
  runCheck : Bool := false
  /-- Why the group stopped (24 R458). -/
  stopCause : Option StopCause := none
  /-- Address, mode state of the `exit` that retired the last lane (24 R458). -/
  exitAt : DWord × ModeState := (0, { mode := 0x0000014F, fmt := 0x00030ABB, pending := none })
  /-- Write-log position of the block scalars at the group's last marker or barrier (09 R206). -/
  scalarMark : Nat := 0
  /-- An issue stop has been requested: a save, a move, a dump halt or draining (05 R108, R116; 19 R434). -/
  stopping : Bool := false
  /-- Reads of a translation that must not be cached, handed to the group once: page and leaf or fault (17 R405). -/
  walks : List (Nat × Option Nat × Nat) := []
  /-- The operation number of a `turn` that has been sent and has not returned: the group waits for it (15 R360). -/
  turnWait : Option Nat := none
  /-- The group's seat in the latch queue: cycle at which it reached its engine instruction (11 R464). -/
  latchAt : Option Nat := none
  deriving DecidableEq, Repr

/-! ## Blocks, clusters and launches -/

/-- A tile's state (11 R237). -/
inductive TileState
  | empty | filling | ready | draining
  deriving DecidableEq, Repr

/-- An entry of the tile table (11 R236, R237). -/
structure Tile where
  /-- The control register (11 R236). -/
  ctl : Nat := 0
  /-- EMPTY, FILLING, READY or DRAINING (11 R237). -/
  st : TileState := .empty
  /-- Readers in flight: engine operations and copies out (11 R237). -/
  readers : Nat := 0
  /-- Copies out of the tile in flight, part of the readers. -/
  copyReaders : Nat := 0
  /-- Writers in flight (11 R237). -/
  writers : Nat := 0
  /-- Writers in flight that are engine operations (11 R237). -/
  engineWriters : Nat := 0
  /-- Write generation (11 R237; 09 R196). -/
  gen : Nat := 0
  /-- `vtot` writes on their way: cell and byte (11 R243). -/
  landing : List (Nat × Byte) := []
  deriving DecidableEq, Repr

/-- A copy template: T0 to T7 (13 R289). -/
abbrev Template := List DWord

/-- The word of an engine instruction, K apart (11 R255; 12). -/
structure EngineWord where
  /-- Its MX function code (03 R73). -/
  code : Nat
  /-- The tile written. -/
  td : Option Nat := none
  /-- The first tile read. -/
  ta : Option Nat := none
  /-- The second tile read. -/
  tb : Option Nat := none
  /-- The scale tile. -/
  tc : Option Nat := none
  /-- The coefficient group, or the gradient tile's (12 R266, R275). -/
  g : Nat := 0
  /-- The scalar of `kset` and `spoog`. -/
  s : Nat := 0
  deriving DecidableEq, Repr

/-- An engine operation (11 R249, R257). -/
structure EngineOp where
  /-- Its number, which its batches name. -/
  op : Nat
  /-- Its word. -/
  eng : EngineWord
  /-- `%fmt` at issue. -/
  fmt : Word
  /-- `%mode` at issue, for `mdrain` (11 R256). -/
  mode : Word
  /-- The knots of a `kset`: g0, h and G (12 R263). -/
  knots : Nat × Nat × Nat := (0, 0x3F800000, 1)
  deriving DecidableEq, Repr

/-- A matrix/spline engine of a core (11 R246; 12 R262, R273). -/
structure Engine where
  /-- The block the engine is bound to (11 R246). -/
  block : Option Nat := none
  /-- The hold has ended and the engine frees once its operations complete (11 R247). -/
  releasing : Bool := false
  /-- g0 (12 R262). -/
  g0 : Nat := 0
  /-- h (12 R262). -/
  h : Nat := 0x3F800000
  /-- G (12 R262). -/
  G : Nat := 1
  /-- G as it will be once every issued operation has run (12 R270). -/
  nextG : Nat := 1
  /-- h as it will be once every issued operation has run (12 R270). -/
  nextH : Nat := 0x3F800000
  /-- Out-of-grid count (12 R273). -/
  oog : Nat := 0
  /-- Saturation flag of the count (12 R273). -/
  oogSat : Bool := false
  /-- Operations issued and not complete, oldest first (11 R257). -/
  ops : List EngineOp := []
  deriving DecidableEq, Repr

/-- The rendezvous latch of a block (11 R253). -/
structure Latch where
  /-- The `%quor` value of the rendezvous. -/
  quor : DWord
  /-- The word, K apart. -/
  eng : EngineWord
  /-- `%fmt`. -/
  fmt : Word
  /-- `%mode.R` and `%mode.SAT`. -/
  rsat : Nat
  /-- The groups held, with their entries and their K bits. -/
  held : List (FragRef × Bool)
  /-- Time the latch first held a group, in ns (11 R254). -/
  since : Nat
  deriving DecidableEq, Repr

/-- A write to a block scalar (09 R205, R206). -/
structure ScalarWrite where
  /-- The block scalar. -/
  b : Nat
  /-- The value. -/
  value : DWord
  /-- The writer's `%gid`. -/
  gid : Nat
  /-- The cycle of issue. -/
  cycle : Nat
  deriving DecidableEq, Repr

/-- A block placed or saved (07 R144, R147). -/
structure Block where
  /-- Context slot. -/
  ctx : Nat := 0
  /-- Chip. -/
  chip : Nat := 0
  /-- Its launch. -/
  launch : Nat := 0
  /-- Its software cluster. -/
  cluster : Nat := 0
  /-- `%bid` (07 R140). -/
  bid : Nat := 0
  /-- Groups of the block (06 R127). -/
  bgroups : Nat := 1
  /-- The cores of the span, ascending; the first is the home core (07 R144). -/
  span : List Nat := []
  /-- Slot of each group by `%gid`; a group gone is absent. -/
  slots : AList Nat GroupRef := []
  /-- Groups that have not retired. -/
  live : List Nat := []
  /-- Tiles of the block (11 R235). -/
  tiles : Nat := 0
  /-- Block-shared bytes (14 R303). -/
  shared : Nat := 0
  /-- The block scalars' writes, oldest first; an unwritten one is 0 (09 R205, R206). -/
  scalars : List ScalarWrite := []
  /-- Copy templates that are valid (13 R289, R291). -/
  templates : AList Nat Template := []
  /-- A `cpyt` of this cycle, in force from the next one: template, `%gid`, cycle, value (13 R291). -/
  templateNext : List (Nat × Nat × Nat × Template) := []
  /-- The tile table (11 R237). -/
  table : AList Nat Tile := []
  /-- The parked list: the copy parked on a tile (11 R245). -/
  parked : AList Nat Nat := []
  /-- Block barriers 0 to 15 (10 R222). -/
  bars : AList Nat Barrier := []
  /-- The rendezvous latch (11 R253). -/
  latch : Option Latch := none
  /-- Groups that have arrived at `regrp` (08 R182). -/
  arrived : List Nat := []
  /-- The engine the block is bound to (11 R246). -/
  engine : Option Nat := none
  /-- The block holds its engine, before `mrel` (11 R247). -/
  engineHeld : Bool := false
  /-- Copy-queue entries in use, shared and reserved (11 R244). -/
  copyReserved : Nat := 0
  /-- The home core that a move of the block under way is to give it (07 R149). -/
  moving : Option Nat := none
  deriving DecidableEq, Repr

/-- A software cluster's place (07 R148; 05 R116). -/
inductive ClusterState
  | placed
  /-- Stopping at boundaries to be saved: for pre-emption or a move, with the move's target. -/
  | stopping (move : Option Nat)
  | saved
  deriving DecidableEq, Repr

/-- A software cluster (07 R140, R148). -/
structure Cluster where
  /-- Context slot. -/
  ctx : Nat := 0
  /-- Chip. -/
  chip : Nat := 0
  /-- Hardware cluster (07 R148). -/
  hwcl : Nat := 0
  /-- Its launch. -/
  launch : Nat := 0
  /-- `%clid` (07 R140). -/
  clid : Nat := 0
  /-- Its blocks, ascending `%bid`, that have not retired. -/
  blocks : List Nat := []
  /-- Blocks placed in it. -/
  size : Nat := 0
  /-- Cluster barriers 0 to 7 (10 R222). -/
  bars : AList Nat Barrier := []
  /-- PLACED, stopping, or SAVED (05 R116). -/
  st : ClusterState := .placed
  /-- The order of placement, which pre-emption looks at (06 R134). -/
  placedAt : Nat := 0
  /-- While SAVED: its groups with their `%gid` and block (05 R117). -/
  savedGroups : List Group := []
  /-- While SAVED: the blocks whose engine has a section at the record's end, in the sections' order (12 R280). -/
  savedEngines : List Nat := []
  /-- While SAVED: the record as written in the save area and its physical address (05 R118). -/
  savedBytes : Nat × List Byte := (0, [])
  deriving DecidableEq, Repr

/-- The launch record (06 R127). -/
structure LaunchRecord where
  /-- The 128 bytes. -/
  bytes : List Byte := []
  deriving DecidableEq, Repr

/-- The states of a launch (06 R130). -/
inductive LaunchState
  | pending | ready | placing | running | draining | done
  deriving DecidableEq, Repr

/-- A launch read by a queue (06 R130). -/
structure Launch where
  /-- Context slot. -/
  ctx : Nat := 0
  /-- Chip of its queue. -/
  chip : Nat := 0
  /-- Hardware queue. -/
  queue : Nat := 0
  /-- The record's index in its ring (07 R463). -/
  index : Nat := 0
  /-- The queue index of its queue when the record was read (07 R463). -/
  qix : Nat := 0
  /-- The record (06 R127). -/
  record : LaunchRecord := {}
  /-- The presets of tmask, in order (04 R95; 06 R130). -/
  presets : List Template := []
  /-- The launch read before it from the same queue; 0 for none (06 R130). -/
  prev : Nat := 0
  /-- Its state (06 R130). -/
  st : LaunchState := .pending
  /-- Waits met (06 R131). -/
  met0 : Bool := false
  /-- Wait 1 met (06 R131). -/
  met1 : Bool := false
  /-- The 16 argument words, once read (07 R143). -/
  args : Option (List DWord) := none
  /-- The next software cluster to place (07 R148). -/
  next : Nat := 0
  /-- Blocks retired. -/
  retired : Nat := 0
  /-- Time from which its next cluster has waited, in ns (07 R152). -/
  waitingSince : Option Nat := none
  /-- The hardware cluster in drain mode for it (07 R153). -/
  drain : Option Nat := none
  /-- The time of the last test for starvation that named nothing (07 R152). -/
  tested : Option Nat := none
  /-- The other chips that its retired groups have written, which its completion sends flush markers to (07 R155). -/
  wrote : List Nat := []
  /-- Grid barriers 0 to 3 of an RP grid (10 R222). -/
  bars : AList Nat Barrier := []
  deriving DecidableEq, Repr

/-! ## Contexts and queues -/

/-- The states of a context (05 R107). -/
inductive ContextState
  | free | building | bound | running | preempted | draining | scrubbing
  deriving DecidableEq, Repr

/-- A context slot of a package (05 R103, R104). -/
structure Context where
  /-- Its state (05 R107). -/
  st : ContextState := .free
  /-- root (05 R104). -/
  root : Nat := 0
  /-- aptab (05 R104). -/
  aptab : Nat := 0
  /-- save (05 R104). -/
  save : Nat := 0
  /-- savelen (05 R104). -/
  savelen : Nat := 0
  /-- handler (05 R104). -/
  handler : Nat := 0
  /-- scratch (05 R104). -/
  scratch : Nat := 0
  /-- queues (05 R104). -/
  queues : Nat := 0
  /-- pricap (05 R104). -/
  pricap : Nat := 0
  /-- part (05 R104). -/
  part : Nat := 0
  /-- resv (05 R104). -/
  resv : Nat := 0
  /-- audit (05 R104). -/
  audit : Nat := 0
  /-- The chosen versions of vlaunch, vsave and vtrace (05 R105). -/
  versions : Nat × Nat × Nat := (0, 0, 0)
  /-- Binds of the slot, modulo 1,024 (17 R404). -/
  binds : Nat := 0
  /-- Chips whose CLD has reported its scrub done (05 R120). -/
  scrubbed : List Nat := []
  deriving DecidableEq, Repr

/-- A hardware queue of a chip (06 R124). -/
structure Queue where
  /-- QCFG (06 R124). -/
  cfg : DWord := 0
  /-- QTAIL.TAIL (06 R124). -/
  tail : BitVec 32 := 0
  /-- QHEAD.HEAD (06 R124). -/
  head : BitVec 32 := 0
  /-- QSTAT.CODE (06 R124). -/
  code : Nat := 0
  /-- QSTAT.HD (06 R124). -/
  hd : Bool := false
  /-- QSTAT.STOP (06 R124). -/
  stop : Bool := false
  /-- QMISC (06 R124). -/
  misc : DWord := 1
  /-- QNOTE (06 R124). -/
  note : DWord := 0
  /-- Notes of the queue so far (06 R137). -/
  notes : Nat := 0
  /-- Launches read and not DONE, oldest first (06 R129). -/
  launches : List Nat := []
  /-- The launch read last, which SER names as previous (06 R130). -/
  lastRead : Nat := 0
  deriving DecidableEq, Repr

/-! ## Copies -/

/-- What a copy moves (13 R293, R295). -/
inductive CopyDir
  | memMem | memTile | tileMem | memShared | multicast
  deriving DecidableEq, Repr

/-- Where a copy stands (11 R244, R245; 13 R298). -/
inductive CopyState
  | queued | parked | running
  /-- Held by the management processor on a request, from a time. -/
  | held (request since : Nat)
  deriving DecidableEq, Repr

/-- A copy or multicast in flight (13 R293). -/
structure Copy where
  /-- Its operation number. -/
  op : Nat
  /-- Its direction. -/
  dir : CopyDir
  /-- Its template as copied at issue (13 R293). -/
  tmpl : Template
  /-- sx or ssrc. -/
  x : DWord
  /-- sy, or the tile number. -/
  y : DWord
  /-- The issuing block. -/
  block : Nat
  /-- The issuing group. -/
  grp : GroupRef
  /-- The issuing `%gid`. -/
  gid : Nat
  /-- Context slot. -/
  ctx : Nat
  /-- Chip and home core. -/
  chip : Nat
  /-- Home core of the block, whose copy queue it joined (11 R244). -/
  core : Nat
  /-- It holds a shared queue entry (11 R244). -/
  sharedEntry : Bool
  /-- Its state. -/
  st : CopyState := .queued
  /-- Elements done, in walk order (13 R292, R298). -/
  next : Nat := 0
  /-- Multicast destinations not yet landed: place in the cluster and instance number (13 R296). -/
  dests : List (Nat × Nat) := []
  /-- Some arrival was discarded (13 R296). -/
  late : Bool := false
  /-- Time from which a link it needs has been out, in ns (13 R298). -/
  linkOut : Option Nat := none
  /-- Time from which its walk has been waiting for a MIGRATING page, in ns (17 R403). -/
  migOut : Option Nat := none
  /-- Bytes read by a multicast for its destinations (13 R295). -/
  data : List Byte := []
  /-- What the cells the walk has written held before it, which a later read of the walk or of the group may still return
  (13 R288, R292). -/
  undo : AList Nat Byte := []
  /-- What the cells that the group has stored to since the copy's issue held before (13 R288). -/
  raced : AList Nat Byte := []
  /-- The control register of its tile as at issue (11 R240, R244). -/
  ctl : Nat := 0
  deriving DecidableEq, Repr

/-! ## Memory system -/

/-- A write that waits at its home for the lease horizon (14 R319). -/
structure HomeWrite where
  /-- Line: the cell divided by 128. -/
  line : Nat
  /-- The bytes. -/
  bytes : List (Nat × Byte)
  /-- The groups, by block and `%gid`, whose releases wait for the write: those that made it, and the one whose release checked
  it in (14 R322, R324). None for a device unit. -/
  owners : List (Nat × Nat) := []
  /-- The launches of the groups that made it, whose completion waits for it (07 R155); none for a device unit. -/
  launches : List Nat := []
  /-- The chip that held the bytes checked out, whose loads have seen them (14 R308, R322). -/
  chip : Option Nat := none
  /-- The interrupt of a note, chip and vector, which is raised once the note is visible (06 R137). -/
  irq : Option (Nat × Nat) := none
  deriving DecidableEq, Repr

/-- A directory entry with its twin and the writer's copy (14 R321). -/
structure CheckOut where
  /-- Line. -/
  line : Nat
  /-- Writing chip. -/
  writer : Nat
  /-- Context of the writes. -/
  ctx : Nat
  /-- The hash way of the home's directory it stands in (14 R323). -/
  way : Nat := 0
  /-- The groups that have written it, by block and `%gid`. -/
  owners : List (Nat × Nat) := []
  /-- Their launches. -/
  launches : List Nat := []
  /-- The twin: the line as it was (14 R321). -/
  twin : List Byte
  /-- The bytes the chip has written. -/
  written : AList Nat Byte
  deriving DecidableEq, Repr

/-- A line in a chip's LLC (14 R317; 17 R397). -/
structure LlcLine where
  /-- Expiry of the lease it is held under; none for a line of the chip itself and for one checked out. -/
  expiry : Option Nat := none
  /-- Context. -/
  ctx : Nat
  /-- How long it is kept: 0 for cache level 3, else 1 and its page's EP (17 R397). -/
  keep : Nat := 1
  deriving DecidableEq, Repr

/-- The key of a contributing group: package, chip, core, `%bid` and `%gid` (14 R337). -/
structure GroupKey where
  /-- FABCFG.PKG of its package. -/
  pkg : Nat
  /-- Chip. -/
  chip : Nat
  /-- Core. -/
  core : Nat
  /-- `%bid`. -/
  bid : Nat
  /-- `%gid`. -/
  gid : Nat
  deriving DecidableEq, Repr

/-- An ordered reduction's contribution (14 R337). -/
structure Contribution where
  /-- Key of the group. -/
  key : GroupKey
  /-- Cell of the element. -/
  cell : Nat
  /-- Its width in bytes. -/
  width : Nat
  /-- The operation: 0 add, 1 min, 2 max. -/
  op : Nat
  /-- Element type code. -/
  etype : Nat
  /-- The value. -/
  value : Nat
  /-- Package and context slot of its group (17 R407). -/
  owner : Nat × Nat := (0, 0)
  deriving DecidableEq, Repr

/-- A reduction window at its home CLD (14 R335). -/
structure HomeWindow where
  /-- Length. -/
  len : Nat
  /-- Contributors declared. -/
  count : Nat
  /-- An `rwin` differed from the first, or contributions mix operations or types (14 R335, R337). -/
  mismatch : Bool := false
  /-- Contributions in issue order. -/
  parts : List Contribution := []
  /-- `rwcl` operations waiting: op, group, and its key. -/
  closed : List (Nat × GroupRef × GroupKey) := []
  /-- The number of the record, which no other has had. -/
  number : Nat := 0
  deriving DecidableEq, Repr

/-- An asynchronous unit operation of class co or rd, or a launch append (13 R281). -/
inductive UnitOp
  /-- Unordered reduction: operation, type, per-lane access and value (14 R315, R334). -/
  | reduce (op etype : Nat) (accs : List (Acc × Nat))
  /-- `cput` (14 R338): target chip, cell and value, lanes ascending. -/
  | put (targets : List (Nat × Nat × Nat))
  /-- `cget` (14 R338): destination register, type code, the group operation that waits, the scope of an acquire; lane, chip,
  cell and offset. -/
  | get (vd etype groupOp : Nat) (acq : Option Nat) (targets : List (Nat × Nat × Nat × Nat))
  /-- `cred` (14 R340): type, live paths at issue by chip, and lane, chip, cell, value. -/
  | cred (etype : Nat) (paths : AList Nat Nat) (targets : List (Nat × Nat × Nat × Nat))
  /-- `launch` (06 R135): the record's address. -/
  | launch (addr : DWord)
  deriving DecidableEq, Repr

/-- A unit operation with its issuer. -/
structure UnitRec where
  /-- Operation number. -/
  op : Nat
  /-- The issuing group. -/
  grp : GroupRef
  /-- Its instance: the block and `%gid`, which a saved group keeps. -/
  owner : Nat × Nat
  /-- Context slot. -/
  ctx : Nat
  /-- What it does. -/
  kind : UnitOp
  /-- Time from which a link it needs has been out, in ns (13 R297; 18 R417). -/
  linkOut : Option Nat := none
  /-- What bytes that its context's programs and copies have written since issue held before: a launch record's byte is the
  old one or the new (06 R135). -/
  raced : AList Nat Byte := []
  deriving DecidableEq, Repr

/-- An entry of a translation cache (17 R405). -/
structure TlbEntry where
  /-- Chip. -/
  chip : Nat
  /-- Core, or 96 for the CLD's cache. -/
  core : Nat
  /-- Context slot. -/
  ctx : Nat
  /-- Virtual base. -/
  base : Nat
  /-- log2 of the page size. -/
  bits : Nat
  /-- The leaf (17 R393). -/
  leaf : Nat
  /-- The aperture entry of a peer leaf (17 R398). -/
  aperture : Option Nat
  /-- While an invalidation that names it is in progress: lookups now pass it over (17 R408). -/
  hidden : Bool := false
  deriving DecidableEq, Repr

/-- A page walk in flight (17 R405). -/
structure Walk where
  /-- Chip. -/
  chip : Nat
  /-- Context slot. -/
  ctx : Nat
  /-- Virtual bits [55:16]. -/
  page : Nat
  /-- Groups joined to it. -/
  joined : List GroupRef
  /-- It found MIG = 1: retried from this time in ns (17 R403). -/
  mig : Option Nat := none
  /-- The time in ns from which it has been in flight. -/
  since : Nat := 0
  deriving DecidableEq, Repr

/-- An invalidation in progress on a package (17 R407). -/
structure Invalidation where
  /-- The XINV value. -/
  value : DWord
  /-- The time in ns at which the cache entries went: what was translated before must still perform (17 R407). -/
  gone : Option Nat := none
  deriving DecidableEq, Repr

/-- A reuse-table entry (09 R196). -/
structure ReuseEntry where
  /-- Owning context (09 R196). -/
  ctx : Nat
  /-- The key: everything that can affect the result (09 R196). -/
  key : List Nat
  /-- The recorded result (09 R196). -/
  result : List RegWrite
  /-- The recorded flags (02 R43). -/
  flags : BitVec 6
  /-- The L1 lines of a load (09 R199). -/
  lines : List Nat
  /-- Values of the vector registers it names (09 R193). -/
  names : List VReg
  deriving DecidableEq, Repr

/-- A physical register of a core that is counted or cached (09 R191 to R193). -/
structure Phys where
  /-- Its bits. -/
  bits : VReg
  /-- The collision index of its name, whose other part is the hash of the bits; none of an unnamed register (09 R191). -/
  index : Option Nat
  /-- The number of an unnamed register. -/
  number : Nat := 0
  /-- Reference count, 0 when cached (09 R192). -/
  count : Nat
  /-- Cycle and slot of its last write or hit (09 R191, R193). -/
  used : Nat × Nat := (0, 0)
  deriving DecidableEq, Repr

/-- A breakpoint comparator (19 R427). -/
structure Comparator where
  /-- BPA (19 R421). -/
  addr : DWord := 0
  /-- BPM (19 R427). -/
  mode : DWord := 0
  /-- BPV (19 R421). -/
  value : DWord := 0
  deriving DecidableEq, Repr

/-- A core of a chip (01 R13). -/
structure Core where
  /-- Physical registers counted or cached, the newest first (09 R191, R193). -/
  names : List Phys := []
  /-- Unnamed registers made so far, which numbers them (09 R191). -/
  unnamed : Nat := 0
  /-- The reuse table, most recently hit or inserted first (09 R196). -/
  reuse : List ReuseEntry := []
  /-- L1 lines with their lease expiry and context (14 R317). -/
  l1 : AList Nat (Nat × Nat) := []
  /-- The engines 0 to 3 (11 R246). -/
  engines : AList Nat Engine := []
  /-- Copies waiting in the copy queue, oldest first (11 R244). -/
  copyQueue : List Nat := []
  /-- Shared copy-queue entries in use (11 R244). -/
  copyShared : Nat := 0
  /-- The slot each sub-datapath issued from last (08 R162). -/
  lastSlot : AList Nat Nat := []
  /-- Sub-datapaths that have issued in the current cycle, with the leaf their slot took (19 R422). -/
  used : AList Nat Leaf := []
  /-- Counters 0 to 15; counter 17 is the cycles since `cleared`, and counter 16 what 0 to 15 leave of four times that
  (19 R422). -/
  counters : AList Nat Nat := []
  /-- The cycle from which the counters count (19 R424). -/
  cleared : Nat := 0
  /-- Comparators 0 to 7 (19 R427). -/
  comparators : AList Nat Comparator := []
  /-- What each sub-datapath's slot was charged when it issued last: group, entry, leaf (19 R423, R426). -/
  charged : AList Nat (Option FragRef × Leaf) := []
  /-- The group that each sub-datapath issued for last: context, block, `%gid` (19 R426). -/
  issuedBy : AList Nat (Nat × Nat × Nat) := []
  deriving DecidableEq, Repr

/-! ## Table -/

/-- The states of a seat (15 R367). -/
inductive SeatState
  | off | forming | live | changing | departed
  deriving DecidableEq, Repr

/-- An applied vector: 16 seat entries and the turn entry (15 R347). -/
abbrev Vec17 := List Nat

/-- The kinds of packet (15 R349). -/
inductive PacketKind
  | weak | strong | handoff | skip | rebase
  deriving DecidableEq, Repr

/-- What a strong operation does at every seat (15 R356). -/
inductive StrongBody
  /-- `turn` (15 R360). -/
  | turn
  /-- A strong atomic: operation, type, lanes with offset, operand, expected value (15 R357). -/
  | atomic (op : AtomicOp) (etype : Nat) (lanes : List (Nat × Nat × Nat × Nat))
  /-- A region commit: loads, stores, constraints and fragile set (16 R386). -/
  | commit (loads : List RegionLoad) (stores : List RegionStore) (constraints : List Constraint) (fragile : List (Nat × Nat))
  deriving DecidableEq, Repr

/-- A packet of the table (15 R349). -/
structure Packet where
  /-- Its kind. -/
  kind : PacketKind
  /-- Issuing seat. -/
  seat : Nat
  /-- Base parity. -/
  parity : Bool
  /-- View at sending. -/
  view : Nat
  /-- Sequence number of the first store. -/
  first : Nat := 0
  /-- Stores carried, 1 to 255. -/
  count : Nat := 0
  /-- Part index and part count of a store that needs several packets. -/
  part : Nat × Nat := (0, 1)
  /-- Turn number; 0 for weak. -/
  turn : Nat := 0
  /-- The dependency vector, for the last store carried. -/
  dv : Vec17
  /-- The stamp after rebase adjustment (15 R350). -/
  stamp : Int
  /-- Weak: the bytes, each tagged with its store: its place from 0 among those carried, region offset, byte. -/
  records : List (Nat × Nat × Byte) := []
  /-- Strong: the operation. -/
  body : StrongBody := .turn
  /-- Handoff: the new shooter. Rebase: the base vector stands in `base`. -/
  shooter : Nat := 0
  /-- Rebase: the base vector (15 R366). -/
  base : Vec17 := []
  /-- The operation number at the issuer, which its result returns under. -/
  op : Nat := 0
  /-- Table identity. -/
  tid : Nat := 0
  deriving DecidableEq, Repr

/-- The key of the last write to a byte (15 R353). -/
structure ByteKey where
  /-- Stamp. -/
  stamp : Int
  /-- Writing seat. -/
  seat : Nat
  /-- Sequence number or turn. -/
  number : Nat
  /-- A strong operation wrote it. -/
  strong : Bool
  /-- The write's dependency vector, for the mixed-write test (15 R355). -/
  dv : Vec17
  deriving DecidableEq, Repr

/-- An entry of the recent-write table: one aligned 4-byte word (15 R353, R354). -/
structure RwtEntry where
  /-- Keys of the bytes written. -/
  keys : AList Nat ByteKey := []
  /-- The watermark, once recorded (15 R354). -/
  mark : Option Vec17 := none
  deriving DecidableEq, Repr

/-- Where a strong atomic's old values go: a vector register with its type code, or a scalar register (15 R357). -/
inductive StrongDest
  | vector (vd etype : Nat)
  | scalar (sd : Nat)
  deriving DecidableEq, Repr

/-- A strong operation of this seat that has not returned (15 R356). -/
structure StrongOp where
  /-- Operation number. -/
  op : Nat
  /-- The issuing block and `%gid`. -/
  owner : Nat × Nat
  /-- The operation. -/
  body : StrongBody
  /-- The turn granted, held until the broadcast. -/
  turn : Option Nat := none
  /-- It has been broadcast. -/
  sent : Bool := false
  /-- Destination of the result: vector register and type, or scalar. -/
  dest : Option StrongDest := none
  /-- The address of each lane, lowest first, for a late fault (14 R326; 21 R452). -/
  addrs : AList Nat DWord := []
  /-- The group operation that waits for the result. -/
  groupOp : Option Nat := none
  /-- The request is with a shooter. -/
  requested : Bool := false
  deriving DecidableEq, Repr

/-- The seat of a chip (15 R345, R347). -/
structure Seat where
  /-- TBCFG as written, ST apart (15 R345). -/
  cfg : DWord := 0
  /-- TBBASE (15 R345). -/
  base : DWord := 0
  /-- Its state (15 R367). -/
  st : SeatState := .off
  /-- Seats that have answered the hello (15 R346). -/
  hellos : List Nat := []
  /-- The applied vector (15 R347). -/
  applied : Vec17 := [0, 0, 0, 0, 0, 0, 0, 0, 0, 0, 0, 0, 0, 0, 0, 0, 0]
  /-- View number (15 R347). -/
  view : Nat := 1
  /-- Base parity (15 R347). -/
  parity : Bool := false
  /-- Rebases done (15 R362). -/
  rebases : Nat := 0
  /-- The bases subtracted so far, entry by entry (15 R366). -/
  offset : Vec17 := [0, 0, 0, 0, 0, 0, 0, 0, 0, 0, 0, 0, 0, 0, 0, 0, 0]
  /-- Base turn (15 R347). -/
  baseTurn : Nat := 0
  /-- Next turn to apply (15 R347). -/
  nextTurn : Nat := 1
  /-- The shooter (15 R347). -/
  shooter : Nat := 0
  /-- As shooter: next turn number to grant (15 R356). -/
  nextGrant : Nat := 1
  /-- Ordinary turns left before the handoff (15 R358). -/
  turnsLeft : Nat := 1023
  /-- Ordinary turns left before the current shooter's handoff, by the turns applied here (15 R358, R362). -/
  left : Nat := 1023
  /-- The rack (15 R351). -/
  rack : List Packet := []
  /-- The recent-write table by word (15 R353). -/
  rwt : AList Nat RwtEntry := []
  /-- Latest vector of every live seat (15 R354). -/
  vectors : AList Nat Vec17 := []
  /-- Stability vector (15 R354). -/
  stable : Vec17 := [0, 0, 0, 0, 0, 0, 0, 0, 0, 0, 0, 0, 0, 0, 0, 0, 0]
  /-- The stability vector at the last exchange (15 R365). -/
  stableAt : Vec17 := [0, 0, 0, 0, 0, 0, 0, 0, 0, 0, 0, 0, 0, 0, 0, 0, 0]
  /-- Exchanges in a row in which the stability vector has not advanced (15 R365). -/
  stuck : Nat := 0
  /-- Time of the last LAG event, in ns (15 R365). -/
  lagAt : Option Nat := none
  /-- Mixed writes, saturating (15 R355). -/
  mixed : Nat := 0
  /-- Strong operations of the seat that have not returned (15 R356). -/
  strong : List StrongOp := []
  /-- Packets held for the change: the departing seat (15 R363). -/
  leaving : Option Nat := none
  /-- Packets numbered whose stores' releases have not performed, by number (15 R348). -/
  outbox : AList Nat Packet := []
  /-- What came from the departing seat itself and was discarded, by which the relays of other seats are known (15 R363). -/
  refused : List Packet := []
  /-- Removals waiting for the change in progress to end (15 R363). -/
  evictLater : List Nat := []
  /-- As coordinator of a change, once collected: its highest turn, the departed seat's prefix counted from formation, and the
  skip turns made (15 R363). -/
  goal : Option (Nat × Nat × Nat) := none
  /-- A rebase applied and not yet switched: the base vector, its turn entry at the rebase, and the turn (15 R366). -/
  rebasing : Option (Vec17 × Nat × Nat) := none
  /-- The base vector of the last switch, which packets of the old parity still need (15 R366). -/
  lastBase : Vec17 := []
  /-- The handoff is due: an ordinary run of 1,023 turns is over (15 R358). -/
  handoffDue : Bool := false
  deriving DecidableEq, Repr

/-- A message of the turn protocol or the vector exchange in flight; `src` is the chip that sent it (15 R354, R356, R358). -/
inductive TurnMsg
  | request (seat shooter op : Nat)
  | grant (seat turn op src : Nat)
  | redirect (seat shooter op src : Nat)
  | vector (sender : Nat) (value : Vec17) (parity : Bool)
  deriving DecidableEq, Repr

/-! ## Links, probe, trust -/

/-- The states of a link (18 R418). -/
inductive LinkState
  | down | training | negotiating | up | degraded | fenced
  deriving DecidableEq, Repr

/-- A link of a package (18 R418, R420). -/
structure Link where
  /-- ST (18 R420). -/
  st : LinkState := .down
  /-- REASON (18 R420). -/
  reason : Nat := 0
  /-- RATE (18 R420). -/
  rate : Nat := 0
  /-- WIDTH (18 R420). -/
  width : Nat := 0
  /-- LIVEP of the busiest destination is read from the paths; VER (18 R420). -/
  ver : Nat := 0
  /-- REPLAY (18 R420). -/
  replay : Nat := 0
  /-- Time training started, in ns (18 R418). -/
  since : Nat := 0
  /-- Next flit sequence number expected, by the end that receives and the class: 4 × end + class (18 R414). -/
  expect : AList Nat Nat := []
  /-- Credits that flits have returned, by the end that receives them (18 R414). -/
  credits : AList Nat Nat := []
  /-- The state before a loss of this cycle that no event has reported yet (18 R418). -/
  lost : Option LinkState := none
  deriving DecidableEq, Repr

/-- A path of the fabric transport to a destination chip (18 R416). -/
structure FabricPath where
  /-- Local port link number. -/
  port : Nat
  /-- Remote port, 0 to 15 of its package. -/
  remote : Nat := 0
  /-- Flow label. -/
  flow : Nat := 0
  /-- It is live. -/
  live : Bool := true
  /-- Timeouts in a row. -/
  timeouts : Nat := 0
  /-- The number of its next packet. -/
  next : Nat := 0
  deriving DecidableEq, Repr

/-- The header of a transport frame (18 R415). -/
structure Frame where
  /-- Destination MAC address. -/
  dest : BitVec 48
  /-- Source MAC address. -/
  src : BitVec 48
  /-- EtherType. -/
  etype : BitVec 16
  deriving DecidableEq, Repr

/-- A transport packet sent and not acknowledged (18 R416). -/
structure Unacked where
  /-- Sequence number of the destination. -/
  seq : Nat
  /-- Path it was last sent on, with its number there; none while it is held for want of a live path (18 R417). -/
  path : Option (Nat × Nat)
  /-- Time it was last sent, in ns. -/
  sent : Nat
  /-- The number of the packet, message or operation that it carries; 0 for none (18 R416). -/
  carries : Nat := 0
  /-- The frame it was last sent in (18 R415). -/
  frame : Option Frame := none
  deriving DecidableEq, Repr

/-- The transport between two chips of different packages (18 R416). -/
structure Transport where
  /-- The paths. -/
  paths : List FabricPath := []
  /-- Next sequence number to send. -/
  nextSeq : Nat := 0
  /-- Packets not acknowledged. -/
  unacked : List Unacked := []
  /-- Sequence numbers received, for dropping duplicates. -/
  received : List Nat := []
  deriving DecidableEq, Repr

/-- A watchpoint (19 R429). -/
structure Watchpoint where
  /-- WPA (19 R421). -/
  addr : DWord := 0
  /-- WPM (19 R429). -/
  mode : DWord := 0
  deriving DecidableEq, Repr

/-- A core dump in progress (19 R434). -/
structure Dump where
  /-- The faulting group. -/
  grp : GroupRef
  /-- Split-table entry that faulted. -/
  entry : Nat
  /-- Fault code. -/
  code : Nat
  /-- Time of the fault. -/
  faultTime : Nat
  /-- Time the halt completed. -/
  haltTime : Option Nat := none
  /-- Other faults during the dump. -/
  others : Nat := 0
  /-- The image, once fixed, and its section table. -/
  image : Option (List Byte × List (Nat × Nat)) := none
  /-- Leading bytes written. -/
  written : Nat := 0
  /-- Groups dumped. -/
  groups : Nat := 0
  /-- A second fault has stopped the writing: the section, and the fault's code or 0 (19 R436). -/
  stop : Option (Nat × Nat) := none
  deriving DecidableEq, Repr

/-- The probe registers of a context on a chip (19 R421). -/
structure ProbeCtx where
  /-- PRCFG (19 R421). -/
  cfg : DWord := 0xF000
  /-- PRTBASE (19 R421). -/
  tbase : DWord := 0
  /-- PRTHEAD (19 R421). -/
  thead : BitVec 32 := 0
  /-- PRTREAD (19 R421). -/
  tread : BitVec 32 := 0
  /-- PRDUMP (19 R421). -/
  dumpAt : DWord := 0
  /-- PRDLEN (19 R421). -/
  dumpLen : DWord := 0
  /-- TRG, STATE apart (19 R431). -/
  trg : DWord := 0
  /-- TRG.STATE (19 R431). -/
  trgState : Nat := 0
  /-- Watchpoints 0 to 3 (19 R429). -/
  watch : AList Nat Watchpoint := []
  /-- SAMPLE ticks so far, and the cycle of the last one (19 R426). -/
  ticks : Nat × Nat := (0, 0)
  /-- The cores that have sampled at that tick (19 R426). -/
  sampled : List Nat := []
  /-- Records dropped since the ring filled (19 R425). -/
  lost : Nat := 0
  /-- Records made and not yet written in the ring, oldest first (19 R425). -/
  queued : List (List Byte) := []
  /-- The dump in progress (19 R434). -/
  dump : Option Dump := none
  /-- Records of the current cycle, with core and slot, in the order made (19 R426, R432). -/
  recs : List (Nat × Nat × List Byte) := []
  /-- The trigger's start source fired in the current cycle (19 R432). -/
  fireStart : Bool := false
  /-- The trigger's stop source fired in the current cycle (19 R432). -/
  fireStop : Bool := false
  deriving DecidableEq, Repr

/-- Power states of a chip (20 R450). -/
inductive PowerState
  | boot | ready | idle | recovery | safe
  deriving DecidableEq, Repr

/-- 32 zero bytes: a measurement register or chain head at power-on (20 R441, R445). -/
def zero32 : List Byte := [0, 0, 0, 0, 0, 0, 0, 0, 0, 0, 0, 0, 0, 0, 0, 0, 0, 0, 0, 0, 0, 0, 0, 0, 0, 0, 0, 0, 0, 0, 0, 0]

/-- What a chip holds beyond its cores (01 R11; 20). -/
structure Chip where
  /-- The departures of the cycle under way, ascending core and slot (10 R227). -/
  departing : List Departure := []
  /-- PWRSTAT.ST (20 R450). -/
  power : PowerState := .boot
  /-- The cycle of the arithmetic clock at power-on, from which every core counts (19 R422). -/
  cycleBase : Nat := 0
  /-- PWRSTAT.TEMP (20 R450). -/
  temp : Nat := 0
  /-- PWRSTAT.MHZ (20 R450). -/
  mhz : Nat := 1000
  /-- PWRSTAT.RO (20 R450). -/
  ring : Nat := 0
  /-- Hardware clusters whose droop detector stretches the clock (20 R448). -/
  droop : List Nat := []
  /-- Stretched cycles since the last clock step, and the largest droop in percent (20 R448). -/
  stretched : Nat × Nat := (0, 0)
  /-- Time in ns and cycle of the last clock step (20 R448). -/
  stepAt : Nat × Nat := (0, 0)
  /-- Time in ns from which the highest sensor has been in the range it is in: above 95, below 90, or between (20 R448). -/
  rangeAt : Nat := 0
  /-- Time from which no group has been resident, in ns (20 R450). -/
  idleSince : Option Nat := none
  /-- Stages accepted so far (20 R440). -/
  stages : Nat := 0
  /-- M0 to M7 (20 R441); absent ones are zero. -/
  measures : AList Nat (List Byte) := []
  /-- Audit chain head (20 R445). -/
  head : List Byte := zero32
  /-- Audit records appended (20 R445). -/
  appended : Nat := 0
  /-- Firmware's records of the cycle under way or waiting for room, context and payload: hardware's go first (20 R445, R447).
  -/
  submitted : List (Nat × List Byte) := []
  /-- AUDCTL.RD (20 R446). -/
  consumed : BitVec 32 := 0
  /-- LEASE_L1.LEN (14 R318). -/
  leaseL1 : BitVec 16 := 100
  /-- LEASE_LLC.LEN (14 R318). -/
  leaseLLC : BitVec 16 := 1000
  /-- XINV fields as last written, GO and BUSY apart (17 R407). -/
  xinv : DWord := 0
  /-- The invalidation in progress (17 R407). -/
  inval : Option Invalidation := none
  /-- FABCFG (18 R415). -/
  fabcfg : DWord := 64
  /-- PKGMAC of table packages 0 to 3 (18 R415). -/
  mac : AList Nat DWord := []
  /-- PRSEL (19 R421). -/
  prsel : DWord := 0
  /-- The counter snapshot (19 R424). -/
  snapshot : AList Nat Nat := []
  /-- Probe registers by context (19 R421). -/
  probe : AList Nat ProbeCtx := []
  /-- Hardware queues (06 R123). -/
  queues : AList Nat Queue := []
  /-- Free records in the event ring (05 R122). -/
  eventRoom : Nat := 256
  /-- Event records held in order until space frees (05 R467). -/
  eventHeld : List (List Byte) := []
  /-- Open COPYXLATE requests by number: the copy (13 R298). -/
  requests : AList Nat Nat := []
  /-- Number of the next COPYXLATE request (13 R298). -/
  nextRequest : Nat := 0
  /-- The lines in its LLC, the least recently used first: its own, those held under lease from other chips, and those it has
  checked out (14 R317, R321; 17 R397). -/
  llc : AList Nat LlcLine := []
  /-- The seat (15 R345). -/
  seat : Seat := {}
  /-- The round of each priority: the queue served last and the clusters it has placed in the round (06 R133). -/
  rounds : AList Nat (Nat × Nat) := []
  /-- Drain mode by hardware cluster: the waiting launch (07 R153). -/
  drain : AList Nat Nat := []
  deriving DecidableEq, Repr

/-- A command status of system software (05 R107). -/
inductive CmdStatus
  | ok | badDesc | version | noRes | badState
  deriving DecidableEq, Repr

/-- What the device has given the outside world. -/
inductive Output
  /-- An event record written to a chip's event ring, followed by its interrupt (05 R122). -/
  | event (chip : Nat) (bytes : List Byte)
  /-- A queue's interrupt vector raised (06 R128, R137). -/
  | irq (chip vector : Nat)
  /-- A context command's completion; for BIND the chosen versions (05 R105, R107). -/
  | command (pkg slot : Nat) (status : CmdStatus) (versions : Nat × Nat × Nat)
  /-- The value of a register read (00 R4). -/
  | register (chip offset : Nat) (value : DWord)
  /-- The bytes of a host read; none for a poisoned completion (18 R411). -/
  | hostRead (pkg : Nat) (bytes : Option (List Byte))
  /-- A host write's completion (18 R411). -/
  | hostWrite (pkg : Nat) (poisoned : Bool)
  /-- An SPDM answer (20 R444). -/
  | spdm (pkg : Nat) (bytes : List Byte)
  deriving DecidableEq, Repr

/-! ## What happens next -/

/-- A step of the table that a unit of the part makes by itself, as the agenda names it: the constructor of Instr of the same
name (03 R56; 08 R160; 14 R308 to R313). -/
inductive Duty
  | trapDeliver (g : GroupRef)
  | resultWriteback (g : GroupRef) (id : Nat)
  | storePerform (g : GroupRef) (id : Nat)
  | batchRetire (g : GroupRef) (cls : Nat)
  | regionCommit (g : GroupRef)
  | regionOutcome (g : GroupRef)
  | flushAck (g : GroupRef) (dest : Nat)
  | promotion (g : GroupRef)
  | demotion (g : GroupRef)
  | forcedRotation (g : GroupRef)
  | copyStart (chip core : Nat)
  | engineOpComplete (chip core engine : Nat)
  | copyComplete (op : Nat)
  | copyWalkFault (op : Nat)
  | copyLinkTimeout (op : Nat)
  | mcastArrival (op dest : Nat)
  | vtotLand (block tile : Nat)
  | rendezvousComplete (block : Nat)
  | latchTimeout (block : Nat)
  | writeVisible (line : Nat)
  | windowCombine (base : Nat)
  | reductionComplete (op : Nat)
  | collectiveComplete (op : Nat)
  | launchAppend (op : Nat)
  | walkComplete (chip ctx page : Nat)
  | migRewalk (chip ctx page : Nat)
  | hello (chip sender : Nat)
  | handoff (chip : Nat)
  | rebase (chip : Nat)
  | lag (chip : Nat)
  | memberCollect (chip : Nat)
  | viewInstall (chip : Nat)
  | tablePacketReceive (chip packet : Nat)
  | turnRequest (message : Nat)
  | turnGrant (message : Nat)
  | turnRedirect (message : Nat)
  | vectorBroadcast (chip : Nat)
  | vectorReceive (chip message : Nat)
  | recordRead (chip queue : Nat)
  | waitEvaluate (chip : Nat)
  | invalidateDone (chip : Nat)
  | dumpWrite (chip ctx : Nat)
  | idleTimer (chip : Nat)
  | clockStep (chip : Nat)
  | argsRead (launch : Nat)
  | launchDone (launch : Nat)
  | gangstarve (launch : Nat)
  | clusterPlace (launch hwcl : Nat)
  | preempt (launch cluster : Nat)
  | clusterSave (cluster : Nat)
  | move (unit : MoveUnit)
  | contextDrainEnd (pkg slot : Nat)
  | scrubDone (chip slot : Nat)
  | fabricPacketReceive (src dest seq path : Nat)
  | retransmitTimeout (src dest seq : Nat)
  deriving DecidableEq, Repr

/-- What acts next: an entry of the agenda, by which the outside world and the units that run beside the cores choose
their moments (03 R56; 08 R162; 14 R308 to R313). -/
inductive Move
  /-- A step of the table that has no word. -/
  | event (i : Instr)
  /-- A step of the table that a unit of the part makes by itself. -/
  | duty (d : Duty)
  /-- A sub-datapath tries to issue (08 R162). -/
  | slot (chip core sub : Nat)
  /-- A cycle ends, and the time base advances by so many ns (00 R8; 19 R422, R439). -/
  | tick (ns : Nat)
  /-- An uncorrectable error strikes a byte (14 R325). -/
  | corrupt (cell : Nat)
  /-- The LLC of a chip evicts a line, which checks it in if it was out (14 R322). -/
  | evict (chip line : Nat)
  /-- A started copy walks on over some elements (13 R288). -/
  | walk (op elements : Nat)
  /-- Stage 1 extends a measurement register of a chip, M4 to M7, with a digest of its own choosing (20 R441). -/
  | extend (chip register : Nat) (digest : List Byte)
  deriving DecidableEq, Repr

end Sys2Proof.Machine
end

