-- ==== Sys2Proof/Machine/State.lean ====
section
/-! DEFINITION. The state of the part: plain data, everything the spec gives the machine, and the state right after reset. -/
namespace Sys2Proof.Machine

/-- Why the machine stops. -/
inductive Fault
  /-- Raised by every meaning on a state whose memory is not in canonical form, which no step makes. Safe. -/
  | malformedMemory
  /-- Raised by an access to a physical frame that no chip has: beyond 144 GiB of a chip's HBM (01 R20), or of a chip
  number that names no chip (17 R391). Safe: the spec gives no such byte. -/
  | noFrame
  deriving DecidableEq, Repr

/-- Why an instruction has no meaning. -/
inductive Refusal
  /-- Raised by an arm of exec that has no meaning yet. Safe. -/
  | notModelled (mnemonic : String)
  /-- Raised by a word when the state names no fragment that issues it: a word has no effect by itself. Safe. -/
  | noIssuer
  deriving DecidableEq, Repr

/-- Everything but the bytes of memory. -/
structure Sys where
  /-- The steps and moments that the outside world and the units beside the cores take next, in order (03 R56; 08 R162). -/
  agenda : List Move := []
  /-- The global time base in ns (19 R439). -/
  now : Nat := 0
  /-- The value of the time base at which each package powered on (19 R439). -/
  epoch : AList Nat Nat := []
  /-- Cycles of the arithmetic clock (00 R8). -/
  cycle : Nat := 0
  /-- The fragment that issues the word being executed (08 R162). -/
  issuer : Option FragRef := none
  /-- The model's own counter of free values drawn (00 R6). -/
  draws : Nat := 0
  /-- The number of the next operation, copy, packet operation or instance (13 R296). -/
  serial : Nat := 1
  /-- Chips by number; an absent one is at its power-on values (01 R10). -/
  chips : AList Nat Chip := []
  /-- Cores by chip and core number; an absent one is at its power-on values (01 R13). -/
  cores : AList (Nat × Nat) Core := []
  /-- Context slots by package and slot (05 R103). -/
  contexts : AList (Nat × Nat) Context := []
  /-- Groups that hold a slot (08 R157). -/
  groups : AList GroupRef Group := []
  /-- Blocks by instance number (13 R296). -/
  blocks : AList Nat Block := []
  /-- Software clusters (07 R148). -/
  clusters : AList Nat Cluster := []
  /-- Launches that are not forgotten (06 R130). -/
  launches : AList Nat Launch := []
  /-- Spill-stack ranges held by groups: chip and context, then owner block, `%gid`, base, length (07 R466). -/
  spillStacks : AList (Nat × Nat) (List (Nat × Nat × Nat × Nat)) := []
  /-- Copies in flight (13 R293). -/
  copies : AList Nat Copy := []
  /-- Unit operations in flight: reductions, collectives, launch appends (13 R281). -/
  units : AList Nat UnitRec := []
  /-- Writes that wait for a lease horizon at their home, in coherence order (14 R319). -/
  waiting : List HomeWrite := []
  /-- Lease horizon of each line (14 R319). -/
  horizon : AList Nat Nat := []
  /-- Lines on which an update waits at the home for the horizon: no lease is granted on them meanwhile (14 R313; DEDUCED,
  log entry 41). -/
  awaited : List Nat := []
  /-- Check-out directory, oldest first (14 R321). -/
  directory : List CheckOut := []
  /-- Bytes with an uncorrectable error or a poison mark (14 R325). -/
  poison : List Nat := []
  /-- Reduction windows at their homes, by base cell (14 R335). -/
  windows : AList Nat HomeWindow := []
  /-- Translation caches of cores and CLDs, newest entry first (17 R405). -/
  tlb : List TlbEntry := []
  /-- Cached aperture entries of collectives: chip, context, index and entry (17 R399). -/
  apertures : AList (Nat × Nat × Nat) Nat := []
  /-- Page walks in flight (17 R405). -/
  walks : List Walk := []
  /-- Owner marks of runs of 64 KiB frames, newest first: first frame (its cell divided by 65,536), count, mark; a frame in
  no run has mark 0 (17 R404). -/
  owners : List (Nat × Nat × Nat) := []
  /-- Packets in flight between seats: destination chip and packet number (15 R349). -/
  packets : AList (Nat × Nat) Packet := []
  /-- Messages of the turn protocol and vectors in flight: destination chip and number (15 R354, R356). -/
  messages : AList (Nat × Nat) TurnMsg := []
  /-- Links by package and link number (18 R409). -/
  links : AList (Nat × Nat) Link := []
  /-- Fabric transport by source and destination chip (18 R416). -/
  transports : AList (Nat × Nat) Transport := []
  /-- Packages that have been powered off and not on again (20 R449, R450). -/
  off : List Nat := []
  /-- Fuses by chip: revoked key slots and minimum version (20 R442). -/
  fuses : AList Nat (BitVec 4 × BitVec 32) := []
  /-- What the device has given the outside world, newest first. -/
  outputs : List Output := []
  /-- An access met a frame that does not exist: the step under way ends in that fault. -/
  missing : Bool := false
  deriving DecidableEq, Repr

/-- The state of the part. -/
structure State extends Sys where
  /-- The bytes of every address space, in canonical form (00 R3). -/
  mem : Memory := []
  deriving DecidableEq, Repr

/-- The memory is in canonical form. -/
abbrev State.memWf (s : State) : Prop := memoryWf s.mem = true

/-- The machine right after reset: every package has just powered on, every table is empty, and each register of an
object not yet in a table is at its record's reset value. -/
def State.reset : State := {}

end Sys2Proof.Machine
end

