-- ==== Sys2Proof/Machine/Ops.lean ====
section
/-! DEFINITION. The named operations over the state: the tables of the part, the bytes at their homes, events and trace
records, the registers of a group with their value names, taking an exception and stopping a group. -/
namespace Sys2Proof.Machine

/-- What a meaning works on: everything but the bytes, and the bytes known to be in canonical form. -/
structure W where
  /-- Everything but the bytes. -/
  s : Sys
  /-- The bytes. -/
  m : GoodMem

/-- Runs a step on a state. Memory that is not in canonical form, which no step makes, is a fault; so is an access to a
frame that no chip has. -/
def lift (f : W → W) (s : State) : Host.Outcome State Fault Refusal :=
  if h : memoryWf s.mem = true then
    let w := f ⟨s.toSys, ⟨s.mem, h⟩⟩
    if w.s.missing then .fault .noFrame else .next { toSys := w.s, mem := w.m.1 }
  else .fault .malformedMemory

/-! ## The tables -/

/-- The group in a slot. -/
def W.group (w : W) (r : GroupRef) : Option Group := AList.get? w.s.groups r
/-- Changes the group in a slot. -/
def W.updGroup (w : W) (r : GroupRef) (f : Group → Group) : W :=
  { w with s := { w.s with groups := AList.upd w.s.groups r f } }
/-- Changes an entry of a group's split table. -/
def Group.updEntry (g : Group) (e : Nat) (f : Entry → Entry) : Group := { g with entries := AList.upd g.entries e f }
/-- Changes a split-table entry. -/
def W.updEntry (w : W) (r : GroupRef) (e : Nat) (f : Entry → Entry) : W := w.updGroup r fun g => g.updEntry e f
/-- Frees a group slot (08 R157). -/
def W.dropGroup (w : W) (r : GroupRef) : W := { w with s := { w.s with groups := AList.del w.s.groups r } }
/-- Puts a group into a slot. -/
def W.putGroup (w : W) (r : GroupRef) (g : Group) : W := { w with s := { w.s with groups := AList.put w.s.groups r g } }
/-- A chip. -/
def W.chip (w : W) (c : Nat) : Chip := AList.getD w.s.chips c {}
/-- Changes a chip. -/
def W.updChip (w : W) (c : Nat) (f : Chip → Chip) : W :=
  { w with s := { w.s with chips := AList.put w.s.chips c (f (w.chip c)) } }
/-- A core. -/
def W.core (w : W) (k : Nat × Nat) : Core := AList.getD w.s.cores k {}
/-- Changes a core. -/
def W.updCore (w : W) (k : Nat × Nat) (f : Core → Core) : W :=
  { w with s := { w.s with cores := AList.put w.s.cores k (f (w.core k)) } }
/-- The core of a group slot. -/
def coreKey (r : GroupRef) : Nat × Nat := (r.chip, r.core)
/-- The package of a chip (01 R10). -/
def pkgOf (chip : Nat) : Nat := chip / 4
/-- A context slot of a package. -/
def W.context (w : W) (pkg slot : Nat) : Context := AList.getD w.s.contexts (pkg, slot) {}
/-- Changes a context slot. -/
def W.updContext (w : W) (pkg slot : Nat) (f : Context → Context) : W :=
  { w with s := { w.s with contexts := AList.put w.s.contexts (pkg, slot) (f (w.context pkg slot)) } }
/-- A block. -/
def W.block (w : W) (b : Nat) : Option Block := AList.get? w.s.blocks b
/-- Changes a block. -/
def W.updBlock (w : W) (b : Nat) (f : Block → Block) : W :=
  { w with s := { w.s with blocks := AList.upd w.s.blocks b f } }
/-- A software cluster. -/
def W.cluster (w : W) (c : Nat) : Option Cluster := AList.get? w.s.clusters c
/-- Changes a software cluster. -/
def W.updCluster (w : W) (c : Nat) (f : Cluster → Cluster) : W :=
  { w with s := { w.s with clusters := AList.upd w.s.clusters c f } }
/-- A launch. -/
def W.launch (w : W) (l : Nat) : Option Launch := AList.get? w.s.launches l
/-- Changes a launch. -/
def W.updLaunch (w : W) (l : Nat) (f : Launch → Launch) : W :=
  { w with s := { w.s with launches := AList.upd w.s.launches l f } }
/-- A hardware queue of a chip. -/
def W.queue (w : W) (c q : Nat) : Queue := AList.getD (w.chip c).queues q {}
/-- Changes a hardware queue. -/
def W.updQueue (w : W) (c q : Nat) (f : Queue → Queue) : W :=
  w.updChip c fun h => { h with queues := AList.put h.queues q (f (AList.getD h.queues q {})) }
/-- The probe registers of a context on a chip. -/
def W.probe (w : W) (c ctx : Nat) : ProbeCtx := AList.getD (w.chip c).probe ctx {}
/-- Changes the probe registers of a context on a chip. -/
def W.updProbe (w : W) (c ctx : Nat) (f : ProbeCtx → ProbeCtx) : W :=
  w.updChip c fun h => { h with probe := AList.put h.probe ctx (f (AList.getD h.probe ctx {})) }
/-- The seat of a chip. -/
def W.seat (w : W) (c : Nat) : Seat := (w.chip c).seat
/-- Changes the seat of a chip. -/
def W.updSeat (w : W) (c : Nat) (f : Seat → Seat) : W := w.updChip c fun h => { h with seat := f h.seat }
/-- The context of a group's chip. -/
def W.contextOf (w : W) (r : GroupRef) (g : Group) : Context := w.context (pkgOf r.chip) g.ctx

/-- The next free value (00 R6). -/
def W.draw (w : W) : Nat × W := (Config.choose w.s.draws, { w with s := { w.s with draws := w.s.draws + 1 } })
/-- A number no operation, copy, packet or instance has had. -/
def W.fresh (w : W) : Nat × W := (w.s.serial, { w with s := { w.s with serial := w.s.serial + 1 } })
/-- Applies a change for each member of a list, in order. -/
def W.each {α : Type} (w : W) (xs : List α) (f : W → α → W) : W := xs.foldl f w
/-- Hands a value to the outside world. -/
def W.out (w : W) (o : Output) : W := { w with s := { w.s with outputs := o :: w.s.outputs } }
/-- Notes an access to a frame that does not exist. -/
def W.noFrame (w : W) : W := { w with s := { w.s with missing := true } }

/-! ## Time -/

/-- The global time base of a package in ns (19 R439). -/
def W.time (w : W) (chip : Nat) : Nat := w.s.now - AList.getD w.s.epoch (pkgOf chip) 0
/-- The guard band of lease comparisons, 8 ns + Ceil(4,000 / f) ns (14 R317). -/
def W.guardBand (w : W) (chip : Nat) : Nat := 8 + ceilDiv 4000 (w.chip chip).mhz

/-! ## Bytes at their homes -/

/-- HBM bytes of a chip: 144 GiB (01 R20). -/
def hbmBytes : Nat := 144 * 2 ^ 30

/-- The cell of a physical address of a package: bits [51:48] name a chip 0 to 3 (17 R391, R394); a host physical address is
told apart by the caller. No cell stands beyond a chip's HBM. -/
def physCell (pkg pa : Nat) : Option Nat :=
  if fieldOf pa 48 4 ≤ 3 ∧ pa % 2 ^ 48 < hbmBytes ∧ pa < 2 ^ 52 then some (hbmKey pkg pa) else none

/-- The cell that a structure's physical address names: HBM of a chip where bits [51:48] are 0 to 3 and host memory
otherwise (17 R392 has tables in either; DESIGN CHOICE, log 4). -/
def anyCell (pkg pa : Nat) : Option Nat :=
  if fieldOf pa 48 4 ≤ 3 then physCell pkg pa else some (hostKey pkg pa)

/-- The chip whose HBM holds a cell. -/
def homeOf (cell : Nat) : Nat := cell / 2 ^ 52 * 4 + cell / 2 ^ 48 % 16
/-- Whether a cell lies in HBM. -/
def inHbm (cell : Nat) : Bool := decide (cell < 2 ^ 60)
/-- Whether a cell is one that window 0x0 reaches, so that leases count on its line: HBM or host memory (14 R318, R319). -/
def leasedCell (cell : Nat) : Bool := decide (cell < 2 ^ 61)
/-- The chip whose CLD keeps the horizon of a cell's line: its home, or CLD 0 of the package for host memory (01 R18). -/
def keeperOf (cell : Nat) : Nat := if inHbm cell then homeOf cell else cell % 2 ^ 60 / 2 ^ 52 * 4
/-- The 128-byte line of a cell (14 R317). -/
def lineOf (cell : Nat) : Nat := cell / 128

/-- Whether a write to a line may become visible: now is at or past its horizon and the guard band (14 R319). -/
def W.lineClear (w : W) (line : Nat) : Bool :=
  let h := AList.getD w.s.horizon line 0
  h == 0 || decide (h + w.guardBand (keeperOf (line * 128)) ≤ w.s.now)

/-- Bytes as they stand at the home: no waiting write counts (14 R319). -/
def W.homeBytes (w : W) (cell n : Nat) : List Byte := w.m.bytes cell n

/-- Queues an event record for a chip's ring: with no room the management processor holds it in order (05 R122, R467). -/
def W.event (w : W) (chip code ctx status : Nat) (payload : List Byte) : W :=
  let rec32 := bytesOf 1 code ++ bytesOf 1 ctx ++ bytesOf 1 (chip % 4) ++ [0] ++ bytesOf 4 status
    ++ bytesOf 8 (w.time chip) ++ (payload ++ List.replicate 16 0).take 16
  let c := w.chip chip
  if c.eventRoom = 0 || !c.eventHeld.isEmpty then w.updChip chip fun h => { h with eventHeld := h.eventHeld ++ [rec32] }
  else (w.updChip chip fun h => { h with eventRoom := h.eventRoom - 1 }).out (.event chip rec32)

/-- Whether a byte carries an uncorrectable error or a poison mark (14 R325). -/
def W.poisoned (w : W) (cell : Nat) : Bool := w.s.poison.contains cell

/-- Whether a cell lies in a scratchpad, which the LLC of its chip holds (14 R303). -/
def inScratch (cell : Nat) : Bool := decide (2 ^ 61 ≤ cell ∧ cell < 2 ^ 62)

/-- The poison marks after bytes are written: the written ones lose theirs; a word of 32 bytes that keeps others is
reported corrected, with its physical address or, in a scratchpad, its address in window 0x2 (14 R325; DESIGN CHOICE,
log 109). -/
def W.cleanPoison (w : W) (cells : List Nat) : W :=
  let hit := cells.filter w.poisoned
  if w.s.poison.isEmpty then w else
  let left := w.s.poison.filter fun c => !cells.contains c
  let words := (cells.map (· / 32)).eraseDups.filter fun k => left.any fun c => c / 32 == k
  let w1 : W := { w with s := { w.s with poison := left } }
  if hit.isEmpty && words.isEmpty then w1
  else w1.each words fun w k =>
    if inHbm (k * 32) then w.event (homeOf (k * 32)) 0x0B 0xFF 0 (bytesOf 8 (k * 32 % 2 ^ 52))
    else if inScratch (k * 32) then
      let place := k * 32 - 2 ^ 61
      w.event (place / 2 ^ 36) 0x0B (place / 2 ^ 30 % 64) 0 (bytesOf 8 (2 * 2 ^ 60 + place % 2 ^ 30))
    else w

/-- Writes bytes of one list of cells at once (14 R325). -/
def W.writeCells (w : W) (bs : List (Nat × Byte)) : W :=
  let w1 := w.cleanPoison (bs.map Prod.fst)
  { w1 with m := bs.foldl (fun m b => m.set b.1 b.2) w1.m }

/-- The cells and bytes of a run from an address. -/
def cellsOf (cell : Nat) : List Byte → List (Nat × Byte)
  | [] => []
  | b :: r => (cell, b) :: cellsOf (cell + 1) r

/-- Splits bytes into runs of one line, in order. -/
def byLine : List (Nat × Byte) → List (Nat × List (Nat × Byte))
  | [] => []
  | b :: r => match byLine r with
    | [] => [(lineOf b.1, [b])]
    | (l, bs) :: t => if l = lineOf b.1 then (l, b :: bs) :: t else (lineOf b.1, [b]) :: (l, bs) :: t

/-- A write that reaches its home, by some groups and their launches, from a chip that held it checked out or none: bytes of
window 0x0 become visible at once where the line is clear and no write waits before it, and wait for the horizon otherwise;
bytes of every other store land at once (14 R319). -/
def W.reachHome (w : W) (owners : List (Nat × Nat)) (launches : List Nat) (chip : Option Nat) (bs : List (Nat × Byte)) : W :=
  w.each (byLine bs) fun w p =>
    if !leasedCell (p.1 * 128) || (w.lineClear p.1 && !(w.s.waiting.any fun h => h.line == p.1)) then w.writeCells p.2
    else { w with s := { w.s with waiting := w.s.waiting ++
      [{ line := p.1, bytes := p.2, owners := owners, launches := launches, chip := chip }] } }

/-- A group as the owner of writes: its block and `%gid` (07 R141). -/
def W.ownerOf (w : W) (r : GroupRef) : List (Nat × Nat) := ((w.group r).map fun g => (g.block, g.gid)).toList
/-- The launches of some groups. -/
def W.launchesOf (w : W) (owners : List (Nat × Nat)) : List Nat :=
  (owners.filterMap fun o => (w.block o.1).map Block.launch).eraseDups

/-- A write of a group, or of a device unit, that reaches its home (14 R319). -/
def W.homeWrite (w : W) (owner : Option GroupRef) (bs : List (Nat × Byte)) : W :=
  let owners := owner.toList.flatMap w.ownerOf
  w.reachHome owners (w.launchesOf owners) none bs

/-- A device unit's write at a physical address, at sys scope. -/
def W.physWrite (w : W) (pkg pa : Nat) (bs : List Byte) : W :=
  match anyCell pkg pa with
  | some c => w.homeWrite none (cellsOf c bs)
  | none => w.noFrame

/-- A device unit's read at a physical address, at its home, with the waiting writes that come before it (14 R308, R318). -/
def W.physRead (w : W) (pkg pa n : Nat) : List Byte :=
  match anyCell pkg pa with
  | some c => w.homeBytes c n
  | none => List.replicate n 0

/-- The 64-bit value at a physical address (17 R392: ReadAtHome64). -/
def W.phys64 (w : W) (pkg pa : Nat) : Nat := ofBytes (w.physRead pkg pa 8)

/-! ## Trace records and the trigger (19 R425 to R432) -/

/-- Whether records are captured now: TREN, and the trigger off or capturing (19 R425, R432). -/
def ProbeCtx.tracing (p : ProbeCtx) : Bool := bitOf p.cfg.toNat 1

/-- A trace record's 32 bytes (19 R425). -/
def traceRecord (kind ctx chip core slot entry number : Nat) (pc lanesMask arg time : Nat) : List Byte :=
  bytesOf 1 kind ++ bytesOf 1 ctx ++ bytesOf 1 (chip % 4) ++ bytesOf 1 core ++ bytesOf 2 slot ++ bytesOf 1 entry
    ++ bytesOf 1 number ++ bytesOf 8 pc ++ bytesOf 4 lanesMask ++ bytesOf 4 arg ++ bytesOf 8 time

/-- Makes a record in the current cycle; the cycle's records go to the ring together (19 R426, R432). -/
def W.trace (w : W) (r : GroupRef) (ctx kind entry number pc lanesMask arg : Nat) : W :=
  w.updProbe r.chip ctx fun p =>
    { p with recs := p.recs ++ [(r.core, r.slot,
        traceRecord kind ctx r.chip r.core r.slot entry number pc lanesMask arg (w.time r.chip))] }

/-- A trigger source fires: a comparator, a watchpoint or a `probe` word (19 R431). -/
def W.fireTrigger (w : W) (chip ctx source arg : Nat) : W :=
  let p := w.probe chip ctx
  let t := p.trg.toNat
  let matches' := fun (src a : Nat) => src == source &&
    (match source with
      | 1 => a % 8 == arg
      | 2 => a % 4 == arg
      | _ => a == arg)
  let start := matches' (fieldOf t 52 4) (fieldOf t 36 16)
  let stop := matches' (fieldOf t 32 4) (fieldOf t 16 16)
  if start || stop then
    w.updProbe chip ctx fun p => { p with fireStart := p.fireStart || start, fireStop := p.fireStop || stop }
  else w

/-- Records that a context's trace ring holds on a chip (19 R421). -/
def ProbeCtx.ringSize (p : ProbeCtx) : Nat := 2 ^ (fieldOf p.tbase.toNat 0 4 + 6)

/-- Puts one record in line for the ring, or counts it lost; a LOST record goes first when room returns (19 R425). -/
def W.ringPut (w : W) (chip ctx : Nat) (bs : List Byte) : W :=
  let p := w.probe chip ctx
  let size := p.ringSize
  let used := (p.thead - p.tread).toNat + p.queued.length
  let put := fun (w : W) (b : List Byte) => w.updProbe chip ctx fun q => { q with queued := q.queued ++ [b] }
  let drop := fun (w : W) => w.updProbe chip ctx fun q => { q with lost := q.lost + 1 }
  if 13 ≤ fieldOf p.tbase.toNat 0 4 then w
  else if size ≤ used then drop w
  else if p.lost = 0 then put w bs
  else
    let lost := traceRecord 7 ctx chip 0 0 0 0 0 0 p.lost (w.time chip)
    let w1 := (put w lost).updProbe chip ctx fun q => { q with lost := 0 }
    if size ≤ used + 1 then drop w1 else put w1 bs

/-- Inserts a record by ascending core and slot, after its equals. -/
def insertRec (x : Nat × Nat × List Byte) : List (Nat × Nat × List Byte) → List (Nat × Nat × List Byte)
  | [] => [x]
  | y :: r => if x.1 < y.1 ∨ (x.1 = y.1 ∧ x.2.1 < y.2.1) then x :: y :: r else y :: insertRec x r

/-- The end of a cycle for a context's trace on a chip: START, the records by core and slot, STOP, as the trigger's state
asks (19 R426, R432). -/
def W.endTraceCycle (w : W) (chip ctx : Nat) : W :=
  let p := w.probe chip ctx
  if p.recs.isEmpty && !p.fireStart && !p.fireStop then w else
  let sorted := p.recs.foldl (fun acc x => insertRec x acc) []
  let mark := fun (k : Nat) => traceRecord k ctx chip 0 0 0 0 0 0 0 (w.time chip)
  let body := sorted.map fun x => x.2.2
  let (recs, st) :=
    match p.trgState with
    | 0 => (body, 0)
    | 1 => if p.fireStart then
        (if p.fireStop then ([mark 5] ++ body ++ [mark 6], 3) else ([mark 5] ++ body, 2)) else ([], 1)
    | 2 => if p.fireStop then (body ++ [mark 6], 3) else (body, 2)
    | n => ([], n)
  let w1 := w.updProbe chip ctx fun p =>
    { p with recs := [], fireStart := false, fireStop := false, trgState := st }
  if p.tracing then w1.each recs fun w b => w.ringPut chip ctx b else w1

/-! ## Vector registers and their names (09 R191 to R195) -/

/-- The value of a vector register (09 R188). -/
def Group.vget (g : Group) (n : Nat) : VReg := ((AList.get? g.v n).map VMap.bits).getD 0
/-- The value of a scalar register (09 R204). -/
def Group.sget (g : Group) (n : Nat) : DWord := AList.getD g.s n 0
/-- The value of a predicate register. -/
def Group.pget (g : Group) (n : Nat) : LaneMask := AList.getD g.p n 0

/-- The physical register of a mapping. -/
def VMap.holds (m : VMap) (p : Phys) : Bool :=
  match m.unnamed with
  | none => p.index.isSome && p.bits == m.bits
  | some k => p.index.isNone && p.number == k

/-- The cached register least recently written or hit; registers stand newest first (09 R193). -/
def oldestCached (ps : List Phys) : Option Phys :=
  (ps.filter fun p => p.count == 0).foldl (fun b p => match b with
    | none => some p
    | some q => if q.used.1 < p.used.1 ∨ (q.used.1 = p.used.1 ∧ q.used.2 < p.used.2) then some q else some p) none

/-- Evicts a cached register where the file holds more than its 24,576: the reuse entries that name it go (09 R193). -/
def Core.trim (c : Core) : Core :=
  if c.names.length ≤ 24576 then c
  else
    match oldestCached c.names with
    | none => c
    | some p => { c with
        names := c.names.filter (· != p)
        reuse := if p.index.isSome then c.reuse.filter fun e => !e.names.contains p.bits else c.reuse }

/-- Drops a mapping: a register whose count falls to zero stays cached (09 R192). -/
def Core.unmap (c : Core) (m : VMap) : Core :=
  if m.bits = 0 then c
  else { c with names := c.names.map fun p => if m.holds p then { p with count := p.count - 1 } else p }

/-- Live(h, c) of 09 R191. -/
def Core.live (c : Core) (h : BitVec 64) (i : Nat) : Option Phys :=
  c.names.find? fun p => p.index == some i && Config.hash p.bits == h

/-- NewUnnamed(value) of 09 R191. -/
def Core.newUnnamed (c : Core) (now : Nat × Nat) (value : VReg) : VMap × Core :=
  ({ bits := value, unnamed := some c.unnamed },
   { c with unnamed := c.unnamed + 1
            names := { bits := value, index := none, number := c.unnamed, count := 1, used := now } :: c.names })

/-- Names a value and counts one mapping of it, at a cycle and slot: the named register that holds the value, where its count
allows; else a new name with the lowest free collision index; else an unnamed register (09 R191). -/
def Core.mapTo (c : Core) (now : Nat × Nat) (value : VReg) : VMap × Core :=
  if value = 0 then ({ bits := value }, c)
  else
    match c.names.find? fun p => p.index.isSome && p.bits == value with
    | some p =>
      if p.count < 255 then
        ({ bits := value }, { c with names := { p with count := p.count + 1, used := now } :: c.names.filter (· != p) })
      else c.newUnnamed now value
    | none =>
      match (upTo 4).find? fun i => (c.live (Config.hash value) i).isNone with
      | some i => ({ bits := value }, { c with names := { bits := value, index := some i, count := 1, used := now } :: c.names })
      | none => c.newUnnamed now value

/-- Writes a vector register of a group: WriteBack of 09 R191. A register is evicted for the new one where the file is full; the
old mapping is dropped after, and gives its own register where no other could go (09 R193). -/
def W.setV (w : W) (r : GroupRef) (n : Nat) (value : VReg) : W :=
  match w.group r with
  | none => w
  | some g =>
    let (m, c) := (w.core (coreKey r)).mapTo (w.s.cycle, r.slot) value
    let c1 := c.trim
    let c2 := match AList.get? g.v n with
      | some old => (c1.unmap old).trim
      | none => c1
    (w.updCore (coreKey r) fun _ => c2).updGroup r fun g => { g with v := AList.put g.v n m }

/-- Writes a scalar register (09 R204). -/
def W.setS (w : W) (r : GroupRef) (n : Nat) (value : DWord) : W :=
  w.updGroup r fun g => { g with s := AList.put g.s n value }
/-- Writes a predicate register (08 R173). -/
def W.setP (w : W) (r : GroupRef) (n : Nat) (value : LaneMask) : W :=
  w.updGroup r fun g => { g with p := AList.put g.p n value }
/-- ORs flags into `%fflags` (02 R42). -/
def W.orFlags (w : W) (r : GroupRef) (f : Flags) : W := w.updGroup r fun g => { g with fflags := g.fflags ||| f }

/-- Makes one register write. -/
def W.writeReg (w : W) (r : GroupRef) : RegWrite → W
  | .v n x => w.setV r n x
  | .s n x => w.setS r n x
  | .p n x => w.setP r n x

/-- Drops every mapping of a group (09 R188, R192). -/
def W.unmapAll (w : W) (r : GroupRef) (g : Group) : W :=
  w.updCore (coreKey r) fun c => g.v.foldl (fun c p => c.unmap p.2) c

/-- Names again the vector registers of a group whose registers stand in a record (05 R117). -/
def W.nameAll (w : W) (r : GroupRef) (vs : AList Nat VMap) : W := w.each vs fun w p => w.setV r p.1 p.2.bits

/-- Whether a lease may still be used: now is before its expiry less the guard band (14 R317). -/
def W.leaseLive (w : W) (chip expiry : Nat) : Bool := decide (w.s.now + w.guardBand chip < expiry)

/-- Whether every line of a reuse entry is in the core's L1 under a live lease (09 R199; 14 R317). -/
def W.entryLive (w : W) (k : Nat × Nat) (e : ReuseEntry) : Bool :=
  e.lines.all fun l => match AList.get? (w.core k).l1 l with
    | some (x, _) => w.leaseLive k.1 x
    | none => false

/-- Discards load entries of the reuse table of a core (09 R199). -/
def W.dropLoads (w : W) (k : Nat × Nat) (f : ReuseEntry → Bool) : W :=
  if (w.core k).reuse.isEmpty then w
  else w.updCore k fun c => { c with reuse := c.reuse.filter fun e => !(f e) || e.lines.isEmpty }

/-- Discards every load entry of a context on a core: an acquire, a `fence`, a `turn`, a barrier or `waitb` (09 R199). -/
def W.acquireLoads (w : W) (r : GroupRef) (ctx : Nat) : W := w.dropLoads (coreKey r) fun e => e.ctx == ctx

/-- Discards the load entries on a core that a store, atomic, reduction, commit or copy meets: those of a context, or of every
one, on its lines (09 R199). -/
def W.storeLoads (w : W) (k : Nat × Nat) (ctx : Option Nat) (cells : List Nat) : W :=
  if (w.core k).reuse.isEmpty then w
  else
    let ls := (cells.map lineOf).eraseDups
    w.dropLoads k fun e => (ctx.all fun x => e.ctx == x) && e.lines.any fun l => ls.contains l

/-! ## Mode state -/

/-- %mode with a pending restore applied (08 R166: Applied). -/
def applied (mode : Word) : Option PendingRestore → Word
  | none => mode
  | some p =>
    if p.high then (p.saved.setWidth 7 ++ mode.setWidth 18).setWidth 32
    else ((mode.extractLsb' 18 7) ++ p.saved).setWidth 32

/-- The reset value of `%mode` (03 R76). -/
def modeReset : Word := 0x0000014F
/-- The reset value of `%fmt` (03 R82). -/
def fmtReset : Word := 0x00030ABB

/-- A fragment's mode state. -/
def Entry.modeState (e : Entry) : ModeState := { mode := e.mode, fmt := e.fmt, pending := e.pending }
/-- Sets a fragment's mode state. -/
def Entry.setModeState (e : Entry) (m : ModeState) : Entry := { e with mode := m.mode, fmt := m.fmt, pending := m.pending }

/-- One more instruction of the fragment has issued (03 R78). -/
def PendingRestore.counted (p : PendingRestore) : PendingRestore := { p with count := p.count - 1 }

/-! ## `%rgn` (16 R389) -/

/-- The value of `%rgn` from its fields. -/
def rgnOf (out cause nchg rst foff : Nat) : DWord :=
  BitVec.ofNat 64 (out + cause * 2 ^ 8 + nchg * 2 ^ 16 + rst * 2 ^ 24 + foff * 2 ^ 32)
/-- RST of a `%rgn` value. -/
def rgnRst (v : DWord) : Nat := fieldOf v.toNat 24 8
/-- OUT of a `%rgn` value. -/
def rgnOut (v : DWord) : Nat := fieldOf v.toNat 0 3

/-- Restores a region's checkpoint with one of its two mode states, and ends the region (16 R385, R387, R388). -/
def W.restoreRegion (w : W) (r : GroupRef) (rg : Region) (ms : ModeState) (pc : DWord) : W :=
  match w.group r with
  | none => w
  | some g =>
    let bits := fun (t : AList Nat VMap) n => ((AList.get? t n).map VMap.bits).getD 0
    let changed := ((g.v ++ rg.v).map Prod.fst).eraseDups.filter fun n => bits rg.v n != bits g.v n
    let w1 := w.each changed fun w n => w.setV r n (bits rg.v n)
    w1.updGroup r fun g => { (g.updEntry rg.entry fun e => { e.setModeState ms with pc := pc, rcv := e.rcv, wait := none }) with
      s := rg.s, p := rg.p, windows := rg.windows, region := none, ops := g.ops.filter fun o => !o.isV }

/-- Discards an open region that has not been sent, so that it resumes at `ab` (16 R387, R388; 05 R114). -/
def W.discardRegion (w : W) (r : GroupRef) (out cause foff : Nat) : W :=
  match w.group r with
  | none => w
  | some g =>
    match g.region with
    | none => w
    | some rg =>
      if rg.sent then w
      else (w.restoreRegion r rg rg.before rg.abpc).updGroup r fun g =>
        { g with rgn := rgnOf out cause 0 (rgnRst g.rgn) foff }

/-! ## Stopping a group and taking an exception (05 R110 to R113) -/

/-- Whether a V-class result of a group is outstanding (03 R55). -/
def Group.outstanding (g : Group) : Bool := g.ops.any fun o => o.isV

/-- The groups a `%quor` value lists (11 R252). -/
def quorList (q : DWord) : List Nat := (upTo (fieldOf q.toNat 0 3)).map fun i => fieldOf q.toNat (3 + 7 * i) 7

/-- An event of 11 R254 by a group that a rendezvous lists: every held group but that one takes QUORUM, delivered once its
V-class results are written, and the latch is empty (11 R254). -/
def W.quorumEvent (w : W) (r : GroupRef) (detail : Nat) : W :=
  match w.group r with
  | none => w
  | some g =>
    match (w.block g.block).bind Block.latch with
    | none => w
    | some l =>
      if !(quorList l.quor).contains g.gid then w
      else
        let w1 := w.updBlock g.block fun b => { b with latch := none }
        w1.each (l.held.filter fun h => h.1.grp != r) fun w h => w.updGroup h.1.grp fun g =>
          { g with fault := g.fault.or (some { code := 0x0F, detail := detail, entry := h.1.entry,
                                               tpc := ((AList.get? g.entries h.1.entry).map Entry.pc).getD 0 }) }

/-- Stops a group: it keeps its slot, registers and mode state, and has not arrived at a `regrp` (05 R112; 08 R182). -/
def W.stopGroup (w : W) (r : GroupRef) (cause : Option StopCause) : W :=
  let w1 := (w.quorumEvent r 3).updGroup r fun g => { g with
    st := .stopped, stopCause := cause, stopping := false, parked := false, buffer := [], latchAt := none }
  match w.group r with
  | some g => w1.updBlock g.block fun b => { b with arrived := b.arrived.filter (· != g.gid) }
  | none => w1

/-- The HALTED event of a group (05 R467). -/
def W.halted (w : W) (r : GroupRef) (ctx : Nat) (pc code : Nat) : W :=
  w.event r.chip 0x0C ctx code (bytesOf 1 r.core ++ [0] ++ bytesOf 2 r.slot ++ bytesOf 8 pc ++ bytesOf 1 code)

/-- Asks every group of a context on a chip to stop for a dump; one with no outstanding result stops at once
(19 R434). -/
def W.haltContext (w : W) (chip ctx : Nat) : W :=
  w.each (AList.keysWhere w.s.groups fun r g =>
      r.chip == chip && g.ctx == ctx && (g.st == .active || g.st == .resident)) fun w r =>
    match w.group r with
    | some g =>
      let busy := g.outstanding || g.fault.isSome || g.turnWait.isSome || (match g.region with
        | some rg => rg.sent
        | none => false)
      if busy then w.updGroup r fun g => { g with stopping := true }
                else w.stopGroup r (some .dumpHalt)
    | none => w

/-- A fault stopped a group: with DUMPEN the dump sequence starts, or counts one more fault (19 R434). -/
def W.startDump (w : W) (r : GroupRef) (ctx entry code : Nat) : W :=
  let p := w.probe r.chip ctx
  if !bitOf p.cfg.toNat 3 then w
  else match p.dump with
    | some _ => w.updProbe r.chip ctx fun p => { p with dump := p.dump.map fun d => { d with others := d.others + 1 } }
    | none =>
      (w.updProbe r.chip ctx fun p =>
        { p with dump := some { grp := r, entry := entry, code := code, faultTime := w.time r.chip } }).haltContext r.chip ctx

/-- `%tcause` from its fields (05 R111). -/
def tcauseOf (code detail : Nat) (tv : Bool) : Word :=
  BitVec.ofNat 32 (code % 256 + (if tv then 256 else 0) + detail % 256 * 65536)

/-- The place that the group's next instruction to issue has in the region it stands in; 0 outside one (16 R389). -/
def Group.regionPlace (g : Group) : Nat :=
  match g.region with
  | some rg => rg.issued + 1
  | none => 0

/-- The trap registers after a fault of an entry (05 R111). -/
def Group.trapped (g : Group) (f : FaultInfo) (e : Entry) (tpc : DWord) : Group :=
  { g with
    fault := none
    late := none
    parked := false
    latchAt := none
    tcause := tcauseOf f.code f.detail f.tval.isSome
    tpc := tpc
    tmask := e.lanes
    tval := f.tval.getD 0
    tmode := applied e.mode e.pending
    tfmt := e.fmt }

/-- TAKING AN EXCEPTION (05 R110 to R112; 16 R387): an open region is discarded; the trap registers are written; the group
enters its handler, or stops with event HALTED and, where enabled, a dump. A late fault that waits goes first, and the
instruction that faulted issues again after it (14 R326). -/
def W.deliver (w0 : W) (r : GroupRef) : W :=
  match w0.group r with
  | none => w0
  | some g0 =>
    match g0.fault with
    | none => w0
    | some f0 =>
      let f := match g0.late with
        | some l => { l with entry := f0.entry, tpc := ((AList.get? g0.entries f0.entry).map Entry.pc).getD f0.tpc }
        | none => f0
      let inRegion := match g0.region with
        | some rg => !rg.sent
        | none => false
      let foff := if g0.region.isSome then f.place.getD g0.regionPlace else 0
      let w := w0.discardRegion r 5 f.code foff
      match w.group r with
      | none => w
      | some g =>
        match AList.get? g.entries f.entry with
        | none => w.updGroup r fun g => { g with fault := none }
        | some e =>
          let tpc := if inRegion then e.pc else f.tpc
          let w1 := w.updGroup r fun g => g.trapped f e tpc
          let handler := (w.contextOf r g).handler
          if handler ≠ 0 ∧ g.handler = none then
            (w1.quorumEvent r 3).updGroup r fun g => { (g.updEntry f.entry fun e =>
                { e with pc := BitVec.ofNat 64 handler, mode := modeReset, pending := none, wait := none, stall := none,
                         linkWait := false, refill := none }) with handler := some f.entry }
          else
            let w2 := (w1.updEntry r f.entry fun e => { e with pc := tpc, wait := none, stall := none, linkWait := false, refill := none })
            ((w2.stopGroup r (some .fault)).halted r g.ctx tpc.toNat f.code).startDump r g.ctx f.entry f.code

/-- Raises a fault: it is delivered at once when no V-class result is outstanding, and by TRAP_DELIVER otherwise
(05 R110). A fault that reaches a context in DRAINING has no effect (05 R108). -/
def W.raise (w : W) (r : GroupRef) (f : FaultInfo) : W :=
  match w.group r with
  | none => w
  | some g =>
    if (w.contextOf r g).st = .draining then w.stopGroup r none
    else
      let w1 := w.updGroup r fun g => { g with fault := some f }
      if g.outstanding then w1 else w1.deliver r

/-- The first entry in state RUN after the one that issued last, wrapping around; in handler mode the handler's entry
(05 R112; 08 R162). -/
def Group.nextEntry (g : Group) : Option Nat :=
  if g.handler.isSome then g.handler else
  let runs := (upTo 32).filter fun i => match AList.get? g.entries i with
    | some e => e.st == .run
    | none => false
  match runs.find? fun i => decide (g.lastEntry < i) with
  | some i => some i
  | none => runs.head?

/-- A group passes a switch marker with every V-class result written (03 R55; 09 R206; 14 R326; 19 R433). -/
def W.marker (w : W) (r : GroupRef) : W :=
  match w.group r with
  | none => w
  | some g =>
    let log := match w.block g.block with
      | some b => b.scalars.length
      | none => 0
    let w1 := w.updGroup r fun g => { g with
      parked := false
      unmarked := ([], [])
      runCheck := bitOf (w.probe r.chip g.ctx).cfg.toNat 2
      scalarMark := log
      late := none }
    match g.late with
    | none => w1
    | some f =>
      match g.nextEntry with
      | none => w1
      | some i =>
        let pc := match AList.get? g.entries i with
          | some e => e.pc
          | none => 0
        w1.raise r { f with entry := i, tpc := pc }

/-- Parks a group at a switch marker, or passes it at once when nothing is outstanding (03 R55). -/
def W.park (w : W) (r : GroupRef) : W :=
  match w.group r with
  | none => w
  | some g => if g.outstanding then w.updGroup r fun g => { g with parked := true } else w.marker r

/-- After a V-class result is written: a waiting fault is delivered, a stop that was asked for takes place, a parked group
unparks (03 R55; 05 R110; 19 R434). -/
def W.settle (w : W) (r : GroupRef) : W :=
  match w.group r with
  | none => w
  | some g =>
    if g.outstanding then w
    else if g.fault.isSome then w.deliver r
    else if g.stopping && (w.probe r.chip g.ctx).dump.isSome then
      let w1 := if g.parked then w.marker r else w
      if (w1.group r).any fun g => g.st == .stopped then w1 else w1.stopGroup r (some .dumpHalt)
    else if g.parked then w.marker r
    else w

end Sys2Proof.Machine
end

