-- ==== Sys2Proof/Machine/Operands.lean ====
section
/-! DEFINITION. The fields of %mode and %fmt, the guard and the enabled lanes, the operand forms, and the registers an
instruction names (03 R57, R60, R76, R77, R82; 02 R25 to R28). -/
namespace Sys2Proof.Machine

/-- A fragment at the instruction it issues. -/
structure At where
  /-- The group's slot. -/
  r : GroupRef
  /-- The split-table entry. -/
  ei : Nat
  /-- The group. -/
  g : Group
  /-- The entry. -/
  e : Entry

/-! ## %mode and %fmt -/

/-- `%mode.G` (03 R76). -/
def modeG (m : Word) : Nat := fieldOf m.toNat 0 4
/-- `%mode.sense` (03 R76). -/
def modeSense (m : Word) : Bool := bitOf m.toNat 4
/-- `%mode.E` (03 R76). -/
def modeE (m : Word) : Nat := fieldOf m.toNat 5 4
/-- `%mode.X` (03 R76). -/
def modeX (m : Word) : Nat := fieldOf m.toNat 9 4
/-- `%mode.R` (03 R76). -/
def modeR (m : Word) : Nat := fieldOf m.toNat 13 3
/-- `%mode.SAT` (03 R76). -/
def modeSat (m : Word) : Bool := bitOf m.toNat 16
/-- `%mode.FTZ` (03 R76). -/
def modeFtz (m : Word) : Bool := bitOf m.toNat 17
/-- `%mode.O` (03 R76). -/
def modeO (m : Word) : Nat := fieldOf m.toNat 18 3
/-- `%mode.SC` (03 R76). -/
def modeSC (m : Word) : Nat := fieldOf m.toNat 21 3
/-- `%mode.NR` (03 R76). -/
def modeNR (m : Word) : Bool := bitOf m.toNat 24

/-- Whether a `%mode` value holds a reserved value (03 R76, R79). -/
def modeReserved (m : Word) : Bool :=
  decide (6 ≤ modeSC m) || decide (6 ≤ modeO m) || decide (5 ≤ modeR m) || decide (12 ≤ modeX m) ||
  decide (12 ≤ modeE m) || (decide (12 ≤ modeG m) && modeG m != 15) || decide (2 ^ 25 ≤ m.toNat)

/-- `%fmt.A` (03 R82). -/
def fmtA (f : Word) : Nat := fieldOf f.toNat 0 4
/-- `%fmt.B` (03 R82). -/
def fmtB (f : Word) : Nat := fieldOf f.toNat 4 4
/-- `%fmt.C` (03 R82). -/
def fmtC (f : Word) : Nat := fieldOf f.toNat 8 4
/-- `%fmt.TA` (03 R82). -/
def fmtTA (f : Word) : Bool := bitOf f.toNat 12
/-- `%fmt.TB` (03 R82). -/
def fmtTB (f : Word) : Bool := bitOf f.toNat 13
/-- `%fmt.SM` (03 R82). -/
def fmtSM (f : Word) : Nat := fieldOf f.toNat 14 2
/-- `%fmt.KO` (03 R82). -/
def fmtKO (f : Word) : Nat := fieldOf f.toNat 16 2
/-- `%fmt.OG` (03 R82). -/
def fmtOG (f : Word) : Nat := fieldOf f.toNat 18 2

/-- Whether a `%fmt` value holds a reserved value (03 R82, R83). -/
def fmtReserved (f : Word) : Bool :=
  decide (12 ≤ fmtA f) || decide (12 ≤ fmtB f) || decide (12 ≤ fmtC f) || decide (2 ≤ fmtSM f) ||
  decide (2 ≤ fmtOG f) || decide (2 ^ 20 ≤ f.toNat)

/-- The numeric part of `%mode`; a reserved R, which no write leaves there, counts as rne. -/
def numOf (m : Word) : NumMode := { rnd := (roundingOf (modeR m)).getD .rne, sat := modeSat m, ftz := modeFtz m }

/-! ## Lanes -/

/-- The lanes whose guard is true, whatever fragment they belong to (03 R77). -/
def At.guard (a : At) : LaneMask :=
  if modeG a.e.mode = 15 then 0xFFFFFFFF
  else if modeSense a.e.mode then a.g.pget (modeG a.e.mode) else ~~~(a.g.pget (modeG a.e.mode))
/-- The enabled lanes: active in the fragment and guard-true (00 R7). -/
def At.enabled (a : At) : LaneMask := a.e.lanes &&& a.guard
/-- The element type; none for a reserved code, which no write leaves in `%mode`. -/
def At.etype (a : At) : Option EType := etypeOf (modeE a.e.mode)
/-- The numeric mode. -/
def At.num (a : At) : NumMode := numOf a.e.mode
/-- The address after the instruction. -/
def At.next (a : At) : DWord := a.e.pc + 4
/-- A PC-relative target (03 R61). -/
def At.target (a : At) (w off : Nat) : DWord := a.e.pc + BitVec.ofNat 64 (unsignedOf 64 (4 * signedOf w off))
/-- A scalar register. -/
def At.sval (a : At) (n : Nat) : DWord := a.g.sget n
/-- The element of a lane of a vector register or pair (02 R26, R27). -/
def At.elem (a : At) (t : EType) (n l : Nat) : Nat := elemOf t (laneOf (a.g.vget n) l) (laneOf (a.g.vget (n + 1)) l)
/-- A whole 32-bit lane. -/
def At.lane (a : At) (n l : Nat) : Nat := (laneOf (a.g.vget n) l).toNat
/-- A scalar operand's low bits in the element's encoding (09 R218). -/
def scalarElem (t : EType) (x : DWord) : Nat := x.toNat % 2 ^ widthOf t

/-- The registers a vector operand names: one, or the pair of a 64-bit type (02 R27). -/
def regsOf (t : EType) (n : Nat) : List Nat := if is64 t then [n, n + 1] else [n]

/-- The register writes of lane results into a register or pair (02 R25, R27). -/
def At.put (a : At) (t : EType) (en : LaneMask) (d : Nat) (f : Nat → LaneRes) : List RegWrite :=
  if is64 t then [.v d (newLanes en (a.g.vget d) f), .v (d + 1) (newLanesHigh en (a.g.vget (d + 1)) f)]
  else [.v d (newLanes en (a.g.vget d) f)]

/-- The register write of 32-bit lanes. -/
def At.put32 (a : At) (en : LaneMask) (d : Nat) (f : Nat → Nat) : List RegWrite :=
  [.v d (newLanes en (a.g.vget d) fun l => (f l, 0))]

/-! ## The registers an instruction names -/

/-- The registers read and written. -/
structure Use where
  /-- Vector registers read. -/
  vr : List Nat := []
  /-- Vector registers written. -/
  vw : List Nat := []
  /-- Scalar registers read. -/
  sr : List Nat := []
  /-- Scalar registers written. -/
  sw : List Nat := []

/-- What the checks of 03 R62 say of an instruction, HAZARD apart. -/
structure Chk where
  /-- The registers. -/
  use : Use := {}
  /-- PRIV: outside handler mode. -/
  priv : Bool := false
  /-- REG for a reason other than the declared count. -/
  reg : Bool := false
  /-- TYPE. -/
  typ : Bool := false
  /-- MODEVAL with its detail. -/
  modeval : Option Nat := none

/-- The fault codes of 05 R121. -/
def fcILLEGAL : Nat := 0x01
/-- 05 R121. -/
def fcREG : Nat := 0x02
/-- 05 R121. -/
def fcMODEVAL : Nat := 0x03
/-- 05 R121. -/
def fcPRIV : Nat := 0x04
/-- 05 R121. -/
def fcALIGN : Nat := 0x05
/-- 05 R121. -/
def fcWINDOW : Nat := 0x06
/-- 05 R121. -/
def fcNOMAP : Nat := 0x07
/-- 05 R121. -/
def fcPERM : Nat := 0x08
/-- 05 R121. -/
def fcPERMIT : Nat := 0x09
/-- 05 R121. -/
def fcPOISON : Nat := 0x0A
/-- 05 R121. -/
def fcINDEX : Nat := 0x0B
/-- 05 R121. -/
def fcSTACK : Nat := 0x0C
/-- 05 R121. -/
def fcTILE : Nat := 0x0D
/-- 05 R121. -/
def fcENGINE : Nat := 0x0E
/-- 05 R121. -/
def fcQUORUM : Nat := 0x0F
/-- 05 R121. -/
def fcSPLINE : Nat := 0x10
/-- 05 R121. -/
def fcBARRIER : Nat := 0x11
/-- 05 R121. -/
def fcBATCH : Nat := 0x12
/-- 05 R121. -/
def fcREGION : Nat := 0x13
/-- 05 R121. -/
def fcTABLE : Nat := 0x14
/-- 05 R121. -/
def fcTRAP : Nat := 0x15
/-- 05 R121. -/
def fcBREAK : Nat := 0x16
/-- 05 R121. -/
def fcWATCH : Nat := 0x17
/-- 05 R121. -/
def fcHAZARD : Nat := 0x18
/-- 05 R121. -/
def fcTYPE : Nat := 0x19

/-- A fault before it is bound to an address. -/
structure Flt where
  /-- Fault code. -/
  code : Nat
  /-- `%tcause.detail`. -/
  detail : Nat := 0
  /-- `%tval` where meaningful. -/
  tval : Option DWord := none

/-- The vector registers a pending operation still writes (03 R57). -/
def GroupOp.vdests (o : GroupOp) : List Nat :=
  if !o.isV then [] else
  let pair := fun (t d : Nat) => regsOf ((etypeOf t).getD .i32) d
  match o.kind with
  | .value ws => ws.filterMap fun x => match x with
    | .v n _ => some n
    | _ => none
  | .load t vd _ => pair t vd
  | .atomic _ t vd _ => pair t vd
  | .pop vd _ => [vd]
  | .external vs _ => vs
  | _ => []

/-- The scalar registers a pending operation still writes. -/
def GroupOp.sdests (o : GroupOp) : List Nat :=
  if !o.isV then [] else
  match o.kind with
  | .value ws => ws.filterMap fun x => match x with
    | .s n _ => some n
    | _ => none
  | .sload sd _ => [sd]
  | .satomic sd _ _ => [sd]
  | .external _ ss => ss
  | _ => []

/-- `%tval` of a HAZARD: the register's kind and number (19 R433). -/
def hazardTval (kind n : Nat) : DWord := BitVec.ofNat 64 (kind * 256 + n)

/-- Whether an instruction is V-class (03 R56, R63 to R75). -/
def isVariable : Instr → Bool
  | .vdiv .. | .vrem .. | .vrcp .. | .vrsq .. | .vsqrt .. | .vexp2 .. | .vlog2 .. | .vsin .. | .vcos .. | .vtos .. => true
  | .vld .. | .vaadd .. | .vamin .. | .vamax .. | .vaand .. | .vaor .. | .vaxor .. | .vaxch .. | .vacas .. => true
  | .vpopSpill .. | .sld .. | .saadd .. | .tstate .. | .bstat .. | .cget .. | .osig .. | .tblq .. | .rdtime .. => true
  | .srd _ _ s => s == 0x006 || s == 0x020
  | _ => false

/-- A read of a register that a V-class instruction writes with no marker between, else a write of one whose V-class result is
pending, as run-checking reports it (03 R57; 19 R433). -/
def hazardOf (g : Group) (u : Use) : Option Flt :=
  let pv := g.ops.flatMap GroupOp.vdests
  let ps := g.ops.flatMap GroupOp.sdests
  let first := fun (kind detail : Nat) (pend regs : List Nat) =>
    (regs.find? fun n => pend.contains n).map fun n =>
      ({ code := fcHAZARD, detail := detail, tval := some (hazardTval kind n) } : Flt)
  (first 0 1 g.unmarked.1 u.vr).or ((first 1 1 g.unmarked.2 u.sr).or ((first 0 2 pv u.vw).or (first 1 2 ps u.sw)))

/-! ## Reuse keys (09 R196) -/

/-- Which of R, SAT and FTZ act on an instruction (09 R196). -/
inductive NumKey
  /-- None of them. -/
  | raw
  /-- SAT for integers; all three for floats. -/
  | arith
  /-- All three for floats, none for integers. -/
  | floatArith
  /-- FTZ for floats. -/
  | flush
  /-- SAT for integers, FTZ for floats. -/
  | negate
  /-- R and FTZ for floats. -/
  | integral
  deriving DecidableEq, Repr

/-- A numeric mode as numbers. -/
def numAll (m : Word) : List Nat := [modeR m, fieldOf m.toNat 16 1, fieldOf m.toNat 17 1]

/-- The numeric mode fields of a key. -/
def numKeyOf (k : NumKey) (t : EType) (m : Word) : List Nat :=
  let sat := fieldOf m.toNat 16 1
  let ftz := fieldOf m.toNat 17 1
  match k with
  | .raw => []
  | .arith => if isInteger t then [sat] else if isArithFloat t then [modeR m, sat, ftz] else [modeR m, sat]
  | .floatArith => if isInteger t then [] else [modeR m, sat, ftz]
  | .flush => if isArithFloat t then [ftz] else []
  | .negate => if isInteger t then [sat] else [ftz]
  | .integral => [modeR m, ftz]

end Sys2Proof.Machine
end

