-- ==== Sys2Proof/Machine/Issue.lean ====
section
/-! DEFINITION. Issuing a word: breakpoints, the checks in the order of 03 R62, the limits of an atomic region, the operand
buffer, the effect, and what every issue leaves behind (03 R55, R62, R78; 08 R162; 09 R189, R198; 16 R373, R374;
19 R427, R428). -/
namespace Sys2Proof.Machine

/-! ## Breakpoint comparators (19 R427) -/

/-- Whether a comparator's test holds of one value: w bits, signed. -/
def comparatorTest (test w value arg : Nat) (isPred : Bool) : Bool :=
  let v := signedOf w value
  let x := signedOf w arg
  match test with
  | 0 => true
  | 1 => decide (v = x)
  | 2 => decide (v ≠ x)
  | 3 => !isPred && decide (v < x)
  | 4 => !isPred && decide (x ≤ v)
  | 5 => Nat.land (value % 2 ^ w) (arg % 2 ^ w) != 0
  | _ => false

/-- Whether a comparator hits at the instruction a fragment is about to issue (19 R427). -/
def comparatorHits (a : At) (c : Comparator) : Bool :=
  let m := c.mode.toNat
  let test := fieldOf m 10 3
  let kind := fieldOf m 7 2
  let reg := fieldOf m 16 8
  let act := fieldOf m 13 2
  let each := fun (f : Nat → Bool) => if bitOf m 9 then (lanesIn a.e.lanes).all f else (lanesIn a.e.lanes).any f
  bitOf m 15 && act != 3 && decide (test < 6) && kind != 3 && fieldOf m 0 6 == a.g.ctx && c.addr == a.e.pc &&
  (test == 0 ||
    match kind with
    | 0 => decide (reg < a.g.vregs) && each fun l => comparatorTest test 32 (a.lane reg l) c.value.toNat false
    | 1 => decide (reg < 192) && comparatorTest test 64 (a.sval reg).toNat c.value.toNat false
    | _ => decide (reg < 12) && each fun l =>
        comparatorTest test 1 (if laneAt (a.g.pget reg) l then 1 else 0) c.value.toNat true)

/-- The comparators that hit, ascending, with their ACT. -/
def W.hits (w : W) (a : At) : List (Nat × Nat) :=
  let cs := (w.core (coreKey a.r)).comparators
  if cs.isEmpty || a.e.unchecked then []
  else (upTo 8).filterMap fun n =>
    match AList.get? cs n with
    | some c => if comparatorHits a c then some (n, fieldOf c.mode.toNat 13 2) else none
    | none => none

/-- The records and the trigger firings of comparator hits (19 R428). -/
def W.noteHits (w : W) (a : At) (hs : List (Nat × Nat)) : W :=
  w.each hs fun w h =>
    (w.trace a.r a.g.ctx 3 a.ei h.1 a.e.pc.toNat a.e.lanes.toNat 0).fireTrigger a.r.chip a.g.ctx 1 h.1

/-! ## Atomic regions: limits and tags (16 R373, R374, R377 to R379) -/

/-- What an instruction takes of an open region's limits. -/
structure RegionUse where
  /-- It may stand in a region (16 R374). -/
  allowed : Bool := true
  /-- It counts as an instruction: all but `ab`, `ac` and `aa` (16 R373). -/
  counts : Bool := true
  /-- Lanes it loads in. -/
  loads : LaneMask := 0
  /-- Lanes it stores in. -/
  stores : LaneMask := 0
  /-- Lanes it records a constraint for. -/
  constraints : LaneMask := 0
  /-- Vector registers it writes in a lane. -/
  writes : Nat → List Nat := fun _ => []

/-- A register set with others added. -/
def addRegs (xs ys : List Nat) : List Nat := ys.foldl (fun acc y => if acc.contains y then acc else acc ++ [y]) xs

/-- Whether a lane of a mask has reached a count. -/
def laneFull (m : LaneMask) (t : AList Nat Nat) : Bool := (lanesIn m).any fun l => decide (8 ≤ AList.getD t l 0)

/-- Constraints recorded for a lane. -/
def Region.constraintsOf (rg : Region) (l : Nat) : Nat := (rg.constraints.filter fun c => c.lane == l).length

/-- The detail of the REGION fault an instruction meets in an open region: the lowest (16 R373, R374). -/
def regionDetail (rg : Region) (u : RegionUse) : Option Nat :=
  if !u.allowed then some 2
  else if laneFull u.loads rg.loadCount then some 3
  else if laneFull u.stores rg.storeCount then some 4
  else if (lanesIn u.constraints).any fun l => decide (8 ≤ rg.constraintsOf l) then some 5
  else if u.counts && decide (64 ≤ rg.issued) then some 6
  else if lanes.any fun l => decide (16 < (addRegs (AList.getD rg.written l []) (u.writes l)).length) then some 7
  else none

/-- Adds one to a lane's count. -/
def countLane (t : AList Nat Nat) (l : Nat) : AList Nat Nat := AList.put t l (AList.getD t l 0 + 1)

/-- An open region's counts after an instruction. -/
def Region.charge (rg : Region) (u : RegionUse) : Region :=
  { rg with
    issued := rg.issued + if u.counts then 1 else 0
    loadCount := (lanesIn u.loads).foldl countLane rg.loadCount
    storeCount := (lanesIn u.stores).foldl countLane rg.storeCount
    written := lanes.foldl (fun t l =>
      let ws := u.writes l
      if ws.isEmpty then t else AList.put t l (addRegs (AList.getD t l []) ws)) rg.written }

/-- The references of a tag held in a lane (16 R377). -/
def refsOf (l : Nat) : Option Tag → List (Nat × Nat)
  | none => []
  | some (.sym k _) => [(l, k)]
  | some (.deps s) => s

/-- Union of reference sets. -/
def addRefs (xs ys : List (Nat × Nat)) : List (Nat × Nat) :=
  ys.foldl (fun acc y => if acc.contains y then acc else acc ++ [y]) xs

/-- The tag of a lane of a vector register in a region. -/
def Region.tag (rg : Region) (n l : Nat) : Option Tag := AList.get? rg.tags (n, l)
/-- Sets the tag of a lane: none is PLAIN. -/
def Region.setTag (rg : Region) (n l : Nat) (t : Option Tag) : Region :=
  match t with
  | none => { rg with tags := AList.del rg.tags (n, l) }
  | some x => { rg with tags := AList.put rg.tags (n, l) x }
/-- The union of the references of some lanes. -/
def Region.refs (rg : Region) (src : List (Nat × Nat)) : List (Nat × Nat) :=
  src.foldl (fun acc x => addRefs acc (refsOf x.2 (rg.tag x.1 x.2))) []
/-- The tag OPAQUE of a set of references, PLAIN for none. -/
def depsTag (refs : List (Nat × Nat)) : Option Tag := if refs.isEmpty then none else some (.deps refs)

/-- How an instruction tags the lanes it writes (16 R378). -/
structure Tagging where
  /-- The vector register lanes read for a result lane. -/
  src : Nat → List (Nat × Nat)
  /-- The lane's tag where a SYM row of the table applies. -/
  sym : Region → Nat → Option Tag := fun _ _ => none

/-- Changes a group's open region, if there is one. -/
def W.updRegion (w : W) (r : GroupRef) (f : Region → Region) : W :=
  w.updGroup r fun g => { g with region := g.region.map f }

/-- Tags the written lanes of destination registers (16 R378). -/
def Region.tagWrites (rg : Region) (dst : List Nat) (written : LaneMask) (t : Tagging) : Region :=
  let tags := (lanesIn written).map fun l => (l, (t.sym rg l).or (depsTag (rg.refs (t.src l))))
  tags.foldl (fun acc p => dst.foldl (fun acc d => acc.setTag d p.1 p.2) acc) rg

/-- Adds references to the fragile set (16 R379). -/
def Region.addFragile (rg : Region) (refs : List (Nat × Nat)) : Region :=
  { rg with fragile := addRefs rg.fragile refs }

/-! ## Issue -/

/-- The outcome of an attempt to issue. -/
inductive Did
  /-- The instruction has issued; the fragment continues at an address, unless the effect has placed it. -/
  | done (w : W) (pc : Option DWord) (reused : Bool)
  /-- It faults; `%tpc` is the instruction's own address unless another is named. -/
  | fault (w : W) (f : Flt) (tpc : Option DWord)
  /-- It stalls; the leaf its slot is lost to (19 R422). -/
  | stall (w : W) (leaf : Leaf)

/-- The instruction has issued and the next one follows. -/
def Did.next (w : W) (a : At) : Did := .done w (some a.next) false
/-- A fault of the instruction before any effect. -/
def Did.refuse (w : W) (f : Flt) : Did := .fault w f none

/-- A word as it issues. -/
structure Issue where
  /-- The instruction. -/
  i : Instr
  /-- Its switch marker. -/
  k : Bool
  /-- The checks of 03 R62. -/
  chk : At → Chk
  /-- Its use of an open region. -/
  region : At → RegionUse := fun _ => {}
  /-- Its own checks and its effect. -/
  body : W → At → Did

/-- The first fault of 03 R62, HAZARD and the region's rules, in that order. -/
def firstFault (x : Issue) (a : At) : Option Flt :=
  let c := x.chk a
  let declared := (c.use.vr ++ c.use.vw).any fun n => decide (a.g.vregs ≤ n)
  if (rejectOf x.i).isSome then some { code := fcILLEGAL }
  else if c.priv then some { code := fcPRIV }
  else if declared || c.reg then some { code := fcREG }
  else if c.typ then some { code := fcTYPE }
  else match c.modeval with
    | some d => some { code := fcMODEVAL, detail := d }
    | none =>
      match (if a.g.runCheck then hazardOf a.g c.use else none) with
      | some f => some f
      | none =>
        match a.g.region with
        | none => none
        | some rg => (regionDetail rg (x.region a)).map fun d => { code := fcREGION, detail := d }

/-- Moves a register to the front of the operand buffer; the least recently read register outside the opf set gives way
(09 R189). -/
def bufferRead (opf : List Nat) (b : List Nat) (n : Nat) : List Nat :=
  if b.contains n then n :: b.filter (· != n)
  else if b.length < 16 then n :: b
  else match b.reverse.find? fun m => !opf.contains m with
    | some m => n :: b.filter (· != m)
    | none => b

/-- What a stalled attempt leaves: the leaf and the cycle (08 R158). -/
def W.stalled (w : W) (r : GroupRef) (ei : Nat) (leaf : Leaf) : W :=
  w.updEntry r ei fun e => { e with stall := some (leaf, w.s.cycle) }

/-- What an issue leaves behind: the next address, the fragment's and the group's place in the rotation, the region's counts,
the slot's leaf, and the group parked where the word has K set (03 R55; 08 R162; 16 R373; 19 R422). -/
def W.finish (w : W) (x : Issue) (a : At) (pc : Option DWord) (reused : Bool) : W :=
  let sub := a.r.slot % 4
  let u := (x.chk a).use
  let w1 := w.updGroup a.r fun g =>
    { (g.updEntry a.ei fun e => { e with
        pc := pc.getD e.pc, wait := none, stall := none, linkWait := false, refill := none }) with
      lastEntry := a.ei
      unmarked := if isVariable x.i then (g.unmarked.1 ++ u.vw, g.unmarked.2 ++ u.sw) else g.unmarked
      region := g.region.map fun rg => rg.charge (x.region a) }
  let w2 := w1.updCore (coreKey a.r) fun c => { c with
    lastSlot := AList.put c.lastSlot sub a.r.slot
    used := AList.put c.used sub (if reused then .reused else .executed)
    charged := AList.put c.charged sub (some ⟨a.r, a.ei⟩, if reused then .reused else .executed)
    issuedBy := AList.put c.issuedBy sub (a.g.ctx, a.g.block, a.g.gid) }
  if x.k then w2.park a.r else w2

/-- The pending restore counts the issue, and comparators watch again (03 R78; 19 R428). -/
def W.countIssue (w : W) (a : At) : W :=
  w.updEntry a.r a.ei fun e => { e with pending := e.pending.map PendingRestore.counted, unchecked := false }

/-- The pending restore as it was, for an attempt that did not issue. -/
def W.uncount (w : W) (a : At) : W :=
  w.updEntry a.r a.ei fun e => { e with pending := a.e.pending, unchecked := a.e.unchecked }

/-- One attempt of a fragment to issue a word. -/
def attempt (x : Issue) (a : At) (w : W) : W :=
  let hs := w.hits a
  let raise := fun (w : W) (f : Flt) (tpc : DWord) =>
    (w.noteHits a hs).raise a.r { code := f.code, detail := f.detail, tval := f.tval, tpc := tpc, entry := a.ei }
  match hs.find? fun h => h.2 == 0 with
  | some h => raise w { code := fcBREAK, tval := some (BitVec.ofNat 64 h.1) } a.e.pc
  | none =>
    match firstFault x a with
    | some f => raise w f a.e.pc
    | none =>
      let missing := ((x.chk a).use.vr.eraseDups).filter fun n => !a.g.buffer.contains n
      let waits := match a.e.refill with
        | some c => decide (w.s.cycle < c)
        | none => !missing.isEmpty
      if waits then
        match a.e.refill with
        | some _ => w.stalled a.r a.ei .operand
        | none =>
          let w1 := w.updGroup a.r fun g => { g with buffer := missing.foldl (bufferRead g.opf) g.buffer }
          (w1.updEntry a.r a.ei fun e => { e with refill := some (w.s.cycle + 4 * missing.length) }).stalled a.r a.ei .operand
      else
        let w1 := w.updGroup a.r fun g => { g with buffer := (x.chk a).use.vr.foldl (bufferRead g.opf) g.buffer }
        match x.body (w1.countIssue a) a with
        | .done w2 pc reused => (w2.finish x a pc reused).noteHits a hs
        | .fault w2 f none => raise (w2.uncount a) f a.e.pc
        | .fault w2 f (some tpc) => raise w2 f tpc
        | .stall w2 leaf => (w2.uncount a).stalled a.r a.ei leaf

/-- The fragment that issues, as the state names it. -/
def issuing (s : State) : Option At :=
  match s.issuer with
  | none => none
  | some f =>
    match AList.get? s.groups f.grp with
    | none => none
    | some g =>
      match AList.get? g.entries f.entry with
      | none => none
      | some e => some { r := f.grp, ei := f.entry, g := g, e := e }

/-- The meaning of a word: the issuing fragment's attempt. -/
def issue (x : Issue) (s : State) : Host.Outcome State Fault Refusal :=
  match issuing s with
  | none => .refused .noIssuer
  | some a => lift (attempt x a) s

/-! ## Instructions that only read and write registers -/

/-- The result of an instruction on registers. -/
structure RegRes where
  /-- The register writes. -/
  writes : List RegWrite
  /-- The flags. -/
  flags : Flags := 0

/-- An instruction on registers. -/
structure RegOp where
  /-- The instruction. -/
  i : Instr
  /-- Its switch marker. -/
  k : Bool
  /-- V-class: the result is written later (03 R56). -/
  late : Bool := false
  /-- The checks. -/
  chk : At → Chk
  /-- The lanes it writes in its vector destinations. -/
  written : At → LaneMask := fun a => a.enabled
  /-- Where vector destinations exist, how they are tagged (16 R378). -/
  tagging : At → Tagging := fun _ => { src := fun _ => [] }
  /-- The vector lanes whose references go to the fragile set (16 R379). -/
  frag : At → List (Nat × Nat) := fun _ => []
  /-- The key of the reuse table beyond the word and the operands; none where the instruction is not eligible
  (09 R196, R197). -/
  key : At → Option (List Nat) := fun _ => none
  /-- The result. -/
  result : At → RegRes

/-- The lowest bit of the function code of a class whose instructions may have a key (03 R58; 09 R197). -/
def functionBit (cls : Nat) : Nat := if cls ≤ 1 then 21 else if cls = 3 then 24 else 22

/-- The fields below the function code that name no register: immediates, lane fields and the tile of `ttov`
(03 R58, R71 to R73; 09 R196). -/
def keptFields (word : Nat) : Nat :=
  let f := fieldOf word 22 5
  match fieldOf word 27 4 with
  | 3 => fieldOf word 0 10
  | 0xA => if f == 1 || f == 3 || f == 4 || f == 5 || f == 6 then fieldOf word 0 5 else 0
  | 0xB => if f == 0x13 then fieldOf word 0 6 else 0
  | 0xC => fieldOf word 17 5 * 2 ^ 17
  | _ => 0

/-- The word of an instruction with K and the register fields clear, as a key starts (09 R196). -/
def keyWord (i : Instr) : Nat :=
  let word := (encode i).getD 0
  let lo := functionBit (fieldOf word 27 4)
  fieldOf word lo (31 - lo) * 2 ^ lo + keptFields word

/-- The vector registers whose physical names an instruction's key holds: its sources, and the destination where a lane is
disabled or keeps its old bits (09 R196). -/
def Chk.keyed (c : Chk) (enabled written : LaneMask) : List Nat :=
  c.use.vr ++ if enabled = 0xFFFFFFFF ∧ written = 0xFFFFFFFF then [] else c.use.vw

/-- The whole reuse key: word, the extra part, operands by value, and the enabled mask (09 R196). -/
def reuseKey (a : At) (c : Chk) (written : LaneMask) (word : Nat) (extra : List Nat) : List Nat :=
  word :: extra ++ ((c.keyed a.enabled written).map fun n => (a.g.vget n).toNat) ++ (c.use.sr.map fun n => (a.sval n).toNat) ++
    [a.enabled.toNat]

/-- Whether every vector register of a list is named or zero: an unnamed one has no name to be a key (09 R191, R196). -/
def Group.allNamed (g : Group) (ns : List Nat) : Bool :=
  ns.all fun n => match AList.get? g.v n with
    | some m => m.unnamed.isNone
    | none => true

/-- The vector registers that some writes go to. -/
def vectorDests (ws : List RegWrite) : List Nat :=
  ws.filterMap fun x => match x with
    | .v n _ => some n
    | _ => none

/-- The vector values that some writes leave. -/
def vectorResults (ws : List RegWrite) : List VReg :=
  ws.filterMap fun x => match x with
    | .v _ b => some b
    | _ => none

/-- The values recorded for one instruction's destinations, written to another's (09 R198). -/
def retarget (dests recorded : List RegWrite) : List RegWrite :=
  List.zipWith (fun d x => match d, x with
    | .v n _, .v _ b => .v n b
    | .s n _, .s _ b => .s n b
    | d, _ => d) dests recorded

/-- Looks a key up: the entry hit, if there is one, moves to the front (09 R198, R199). -/
def W.reuseLookup (w : W) (k : Nat × Nat) (ctx : Nat) (key : List Nat) : Option ReuseEntry × W :=
  match (w.core k).reuse.find? fun e => e.ctx == ctx && e.key == key && w.entryLive k e with
  | none => (none, w)
  | some e => (some e, w.updCore k fun c => { c with reuse := e :: c.reuse.filter fun x => !(x.ctx == ctx && x.key == key) })

/-- Inserts an entry; a full table loses the least recently hit or inserted one (09 R198). -/
def W.reuseInsert (w : W) (k : Nat × Nat) (e : ReuseEntry) : W :=
  w.updCore k fun c =>
    { c with reuse := (e :: c.reuse.filter fun x => !(x.ctx == e.ctx && x.key == e.key)).take 4096 }

/-- Inserts the entry of a result just written by a group, whose registers must have names, and a load's lines be in the L1
(09 R193, R198, R199). -/
def W.reuseRecord (w : W) (r : GroupRef) (key : List Nat × List VReg) (ws : List RegWrite) (flags : Flags) (lines : List Nat) : W :=
  match w.group r with
  | none => w
  | some g =>
    let e : ReuseEntry := { ctx := g.ctx, key := key.1, result := ws, flags := flags, lines := lines,
                            names := key.2 ++ vectorResults ws }
    if g.allNamed (vectorDests ws) && w.entryLive (coreKey r) e then w.reuseInsert (coreKey r) e else w

/-- Adds an operation to a group's queue. -/
def W.pushOp (w : W) (r : GroupRef) (kind : OpKind) (flags : Flags) (isV : Bool) (key : Option (List Nat × List VReg))
    (acq : Bool) : W :=
  w.updGroup r fun g => { g with
    ops := g.ops ++ [{ id := g.nextOp, kind := kind, flags := flags, isV := isV, issued := w.s.now, key := key, acquire := acq, place := g.regionPlace }]
    nextOp := g.nextOp + 1 }

/-- The reuse key of an instruction on registers, where it is eligible now (09 R196, R197; 16 R373). -/
def RegOp.keyAt (x : RegOp) (a : At) : Option (List Nat × List VReg) :=
  match x.key a with
  | some extra =>
    let named := (x.chk a).keyed a.enabled (x.written a)
    if modeNR a.e.mode || a.g.region.isSome || !a.g.allNamed named then none
    else some (reuseKey a (x.chk a) (x.written a) (keyWord x.i) extra, named.map a.g.vget)
  | none => none

/-- Looks a key up where there is one. -/
def W.reuseTry (w : W) (a : At) : Option (List Nat × List VReg) → Option ReuseEntry × W
  | some k => w.reuseLookup (coreKey a.r) a.g.ctx k.1
  | none => (none, w)

/-- Issues an instruction on registers: looked up in the reuse table where eligible, its result written at once (F) or
later (V). The key holds everything the result depends on, so a hit's recorded result is the executed one (09 R196, R198). -/
def regBody (x : RegOp) (w : W) (a : At) : Did :=
  let res := x.result a
  let c := x.chk a
  let mask := x.written a
  let key := x.keyAt a
  let (hit, w1) := w.reuseTry a key
  let w2 := w1.updRegion a.r fun rg =>
    (rg.addFragile (rg.refs (x.frag a))).tagWrites c.use.vw mask (x.tagging a)
  if x.late then
    .done (w2.pushOp a.r (.value res.writes) res.flags true (if hit.isSome then none else key) false) (some a.next) hit.isSome
  else
    let w3 := (w2.each res.writes fun w rw => w.writeReg a.r rw).orFlags a.r res.flags
    let w4 := match key with
      | some k => if hit.isSome then w3 else w3.reuseRecord a.r k res.writes res.flags []
      | none => w3
    .done w4 (some a.next) hit.isSome

/-- An instruction on registers as a word. -/
def RegOp.word (x : RegOp) : Issue :=
  { i := x.i, k := x.k, chk := x.chk, body := regBody x,
    region := fun a => { writes := fun l => if laneAt (x.written a) l then (x.chk a).use.vw else [] } }

/-- The meaning of an instruction on registers. -/
def issueReg (x : RegOp) (s : State) : Host.Outcome State Fault Refusal := issue x.word s

end Sys2Proof.Machine
end

