-- ==== Sys2Proof/Machine/Home.lean ====
section
/-! DEFINITION. How bytes are reached: links (18 R416 to R418), leases (14 R317 to R320), check-out and check-in (14 R321 to
R323), and the arithmetic of atomics (14 R329, R334). -/
namespace Sys2Proof.Machine

/-! ## Links -/

/-- Whether a destination can be reached now (18 R417). -/
inductive Reach
  | live | held | fenced
  deriving DecidableEq, Repr

/-- A link's state (18 R418). -/
def W.linkState (w : W) (pkg n : Nat) : LinkState := ((AList.get? w.s.links (pkg, n)).map Link.st).getD .down

/-- What a link in a state lets through. -/
def reachOf : LinkState → Reach
  | .up | .degraded => .live
  | .fenced => .fenced
  | _ => .held

/-- Both of two stretches of a way. -/
def Reach.both : Reach → Reach → Reach
  | .live, r => r
  | .fenced, _ => .fenced
  | .held, .fenced => .fenced
  | .held, _ => .held

/-- The number of the link between two CLDs of a package (18 R409). -/
def pairLink (a b : Nat) : Nat :=
  let lo := min (a % 4) (b % 4)
  let hi := max (a % 4) (b % 4)
  if lo = 0 then 0x20 + (hi - 1) else if lo = 1 then 0x23 + (hi - 2) else 0x25

/-- The transport between two chips of different packages. -/
def W.transport (w : W) (src dst : Nat) : Transport := AList.getD w.s.transports (src, dst) {}

/-- Whether one CLD reaches another; traffic to a SAFE chip is held as for a fenced link (18 R416, R417; 20 R449). -/
def W.cldReach (w : W) (src dst : Nat) : Reach :=
  if src = dst then .live
  else if (w.chip dst).power = .safe then .fenced
  else if pkgOf src = pkgOf dst then reachOf (w.linkState (pkgOf src) (pairLink src dst))
  else
    let t := w.transport src dst
    let ports := if t.paths.isEmpty then (upTo 16).map (· + 0x30) else t.paths.map FabricPath.port
    if t.paths.any FabricPath.live then .live
    else if ports.all fun n => w.linkState (pkgOf src) n == .fenced then .fenced
    else .held

/-- Whether the host's register and memory accesses reach a chip: those to chips 1 to 3 cross the link from CLD 0 (01 R18;
18 R412). -/
def W.barReach (w : W) (chip : Nat) : Reach :=
  if chip % 4 = 0 then .live else reachOf (w.linkState (pkgOf chip) (pairLink 0 chip))

/-- A register access of system software to a chip: it takes place where the chip can be reached (18 R412). -/
def liftBar (chip : Nat) (f : W → W) (st : State) : Host.Outcome State Fault Refusal :=
  lift (fun w => if w.barReach chip = .live then f w else w) st

/-- The link between a compute die and its CLD (18 R409). -/
def W.dieReach (w : W) (chip : Nat) : Reach := reachOf (w.linkState (pkgOf chip) (0x10 + chip % 4))

/-- Whether a unit of a chip's CLD reaches the bytes of a path. -/
def W.unitReach (w : W) (chip : Nat) : Path → Reach
  | .home h _ _ => w.cldReach chip h
  | .host => (w.cldReach chip (pkgOf chip * 4)).both (reachOf (w.linkState (pkgOf chip) 0))
  | _ => .live

/-- Whether a group of a chip reaches the bytes of a path: block-shared memory alone is reached without the CLD (01 R10). -/
def W.reach (w : W) (chip : Nat) (p : Path) : Reach :=
  match p with
  | .shared => .live
  | _ => (w.dieReach chip).both (w.unitReach chip p)

/-- The live paths from a chip to another (14 R340; 18 R416): a die-to-die link is one path. -/
def W.livePaths (w : W) (src dst : Nat) : Nat :=
  if src = dst then 1
  else if pkgOf src = pkgOf dst then (if w.cldReach src dst = .live then 1 else 0)
  else ((w.transport src dst).paths.filter FabricPath.live).length

/-! ## Leases (14 R317 to R320) -/

/-- Raises a line's horizon at its home (14 R319). -/
def W.raiseHorizon (w : W) (line expiry : Nat) : W :=
  { w with s := { w.s with horizon := AList.put w.s.horizon line (max expiry (AList.getD w.s.horizon line 0)) } }

/-- The rest of a load's L1 fill: the line enters the core's L1, the oldest fill gives way in a full one, and the line's reuse
entries go (09 R199; 14 R318). -/
def W.fillL1 (w : W) (r : GroupRef) (ctx line : Nat) : W :=
  let core := w.core (coreKey r)
  let expiry := w.s.now + (w.chip r.chip).leaseL1.toNat
  let gone := (core.l1.map Prod.fst).take (core.l1.length - 1023)
  ((w.dropLoads (coreKey r) fun e => e.lines.any fun l => l == line || gone.contains l).updCore (coreKey r) fun c =>
    { c with l1 := (AList.del (c.l1.drop (core.l1.length - 1023)) line) ++ [(line, expiry, ctx)] }).raiseHorizon line expiry

/-! ## Check-out and check-in (14 R321 to R323) -/

/-- Sends a writer's copy back: the home writes the bytes that differ from the twin, and every group that wrote the line waits
for them at its next release, as the group does whose release this is (14 R322, R324). A home that a link holds takes it
later; of one behind fenced links the bytes are lost, as a stalled store is (18 R417). -/
def W.checkIn (w : W) (owners : List (Nat × Nat)) (c : CheckOut) : W :=
  let base := c.line * 128
  let way := w.cldReach c.writer (homeOf base)
  if way = .held then w else
  let diff := c.written.filter fun p => (c.twin.drop (p.1 - base)).head? != some p.2
  let w1 := { w with s := { w.s with directory := w.s.directory.filter (· != c) } }
  if diff.isEmpty || way == .fenced then w1
  else w1.reachHome ((c.owners ++ owners).eraseDups) c.launches (some c.writer) diff

/-- Checks in every line a chip holds for a context (14 R322). -/
def W.checkInAll (w : W) (owners : List (Nat × Nat)) (chip ctx : Nat) : W :=
  w.each (w.s.directory.filter fun c => c.writer == chip && c.ctx == ctx) fun w c => w.checkIn owners c

/-- Checks in one line of a chip. -/
def W.checkInLine (w : W) (owners : List (Nat × Nat)) (chip line : Nat) : W :=
  w.each (w.s.directory.filter fun c => c.writer == chip && c.line == line) fun w c => w.checkIn owners c

/-- Recalls a line from every chip but one (14 R323; 16 R382). -/
def W.recall (w : W) (line : Nat) (keep : Option Nat) : W :=
  w.each (w.s.directory.filter fun c => c.line == line && some c.writer != keep) fun w c => w.checkIn [] c

/-- No chip but one has a line checked out. -/
def W.recalled (w : W) (line : Nat) (keep : Option Nat) : Bool :=
  !(w.s.directory.any fun c => c.line == line && some c.writer != keep)

/-! ## The LLC (01 R11; 14 R317, R318; 17 R397) -/

/-- Lines that a chip's LLC holds: 4 GiB of SRAM less the carve-outs bound on the chip (01 R11). -/
def W.llcLines (w : W) (chip : Nat) : Nat :=
  let carved := (w.s.contexts.filter fun c => c.1.1 == pkgOf chip && c.2.st != .free && c.2.st != .building).map fun c => c.2.scratch
  (2 ^ 32 - carved.foldl (· + ·) 0) / 128

/-- The line that a full LLC evicts: of the lowest priority the least recently used (17 R397). -/
def evicted (ls : AList Nat LlcLine) : Option Nat :=
  (ls.foldl (fun (b : Option (Nat × LlcLine)) x => match b with
    | none => some x
    | some y => if x.2.keep < y.2.keep then some x else some y) none).map Prod.fst

/-- The LLC of a chip evicts a line: one checked out is checked in, a leased copy goes (14 R317, R322). -/
def W.evictLine (w : W) (chip line : Nat) : W :=
  (w.checkInLine [] chip line).updChip chip fun h => { h with llc := AList.del h.llc line }

/-- A line enters a chip's LLC, or is used there: it is the most recently used one; a full LLC evicts another first
(17 R397). -/
def W.useLlc (w : W) (chip line : Nat) (x : LlcLine) : W :=
  let llc := (w.chip chip).llc
  let w1 := if AList.has llc line || decide (llc.length < w.llcLines chip) then w
    else match evicted llc with
      | some l => w.evictLine chip l
      | none => w
  w1.updChip chip fun h => { h with llc := AList.del h.llc line ++ [(line, x)] }

/-- A load's fill of the LLC: a line of the chip itself, or one of another chip's under a lease (14 R318; 17 R397). -/
def W.fillLlc (w : W) (chip ctx line keep : Nat) (remote : Bool) : W :=
  let len := (w.chip chip).leaseLLC.toNat
  if !remote then w.useLlc chip line { ctx := ctx, keep := keep }
  else if len = 0 then w
  else
    let old := AList.get? (w.chip chip).llc line
    match old with
    | some x => if (match x.expiry with
        | some e => w.leaseLive chip e
        | none => true) then w.useLlc chip line x
      else (w.useLlc chip line { expiry := some (w.s.now + len), ctx := ctx, keep := keep }).raiseHorizon line (w.s.now + len)
    | none => (w.useLlc chip line { expiry := some (w.s.now + len), ctx := ctx, keep := keep }).raiseHorizon line (w.s.now + len)

/-- A load's fills: an L1 line where the page's cache level has L1, a line of the chip's LLC where it has the LLC, under the
lease lengths in force (14 R318; 17 R397). While an update of the line waits at its home, the home grants no lease (14 R313;
DEDUCED, log entry 41). -/
def W.fill (w : W) (r : GroupRef) (ctx : Nat) (acc : Acc) : W :=
  let line := lineOf acc.key
  if w.s.awaited.contains line || w.s.waiting.any fun h => h.line == line then w else
  let hit := match AList.get? (w.core (coreKey r)).l1 line with
    | some (e, _) => w.leaseLive r.chip e
    | none => false
  let w1 := if acc.l1 && (w.chip r.chip).leaseL1.toNat != 0 && !hit then w.fillL1 r ctx line else w
  match acc.path with
  | .home h _ _ => if acc.llc then w1.fillLlc r.chip ctx line acc.keep (h != r.chip) else w1
  | .replica _ => if acc.llc then w1.fillLlc r.chip ctx line acc.keep false else w1
  | _ => w1

/-- An acquire: at clu scope or wider the core's L1 lines go, at pkg or sys also the chip's leased remote lines of the
context; every load entry of the context on the core is discarded (14 R320; 09 R199). -/
def W.acquire (w : W) (r : GroupRef) (ctx scope : Nat) : W :=
  let w1 := w.acquireLoads r ctx
  let w2 := if 2 ≤ scope then w1.updCore (coreKey r) fun c => { c with l1 := [] } else w1
  if 4 ≤ scope then w2.updChip r.chip fun c => { c with llc := c.llc.filter fun p => p.2.expiry.isNone || p.2.ctx != ctx } else w2

/-! ## The directory (14 R323) -/

/-- The entry that stands in a place of a home's directory: a way, and the line whose hash names the place. -/
def W.placed (w : W) (way line : Nat) : Option CheckOut :=
  w.s.directory.find? fun c => c.way == way && homeOf (c.line * 128) == homeOf (line * 128) &&
    Config.directoryHash way c.line % 131072 == Config.directoryHash way line % 131072

/-- Puts an entry into its way's place with so many relocations left: the entry it displaces goes to its other way; with none
left that one is recalled (14 R323). -/
def W.placeEntry (w : W) : Nat → CheckOut → W
  | k, c =>
    let put := fun (w : W) => { w with s := { w.s with directory := w.s.directory ++ [c] } }
    match w.placed c.way c.line with
    | none => put w
    | some o => match k with
      | 0 => put (w.checkIn [] o)
      | n + 1 => W.placeEntry (put { w with s := { w.s with directory := w.s.directory.filter (· != o) } }) n { o with way := 1 - o.way }

/-- Inserts an entry into its home's directory: two hash ways, up to 8 relocations (14 R323; DEDUCED, log 19). -/
def W.insertEntry (w : W) (c : CheckOut) : W :=
  if (w.placed 0 c.line).isNone then w.placeEntry 8 { c with way := 0 }
  else if (w.placed 1 c.line).isNone then w.placeEntry 8 { c with way := 1 }
  else w.placeEntry 8 { c with way := 0 }

/-- A byte at its home with every write that waits there (14 R319). -/
def W.latestByte (w : W) (cell : Nat) : Byte :=
  w.s.waiting.foldl (fun b h => if h.line == lineOf cell then (AList.get? h.bytes cell).getD b else b) (w.m.get cell)

/-- A write of some groups to a line homed on another chip: the line is checked out, with its twin, and the chip's LLC gathers
the bytes (14 R321). -/
def W.checkOutWrite (w : W) (chip : Nat) (owner : List (Nat × Nat)) (ctx keep : Nat) (bs : List (Nat × Byte)) : W :=
  let launch := w.launchesOf owner
  w.each (byLine bs) fun w p =>
    let mine := fun (c : CheckOut) => c.line == p.1 && c.writer == chip && c.ctx == ctx
    let w1 := if w.s.directory.any mine then w
      else w.insertEntry { line := p.1, writer := chip, ctx := ctx, written := []
                           twin := (upTo 128).map fun i => w.latestByte (p.1 * 128 + i) }
    let w2 := w1.useLlc chip p.1 { ctx := ctx, keep := keep }
    { w2 with s := { w2.s with directory := w2.s.directory.map fun c =>
        (if mine c then { c with written := p.2.foldl (fun t b => AList.put t b.1 b.2) c.written
                                 owners := (c.owners ++ owner).eraseDups
                                 launches := (c.launches ++ launch).eraseDups } else c) } }

/-! ## Bytes as a group reads and writes them -/

/-- The byte at a cell as some groups of a chip load it: its home's byte; over it the writes that wait at the home and that the
group made or its chip held checked out; over those the chip's own checked-out copy (14 R308, R319, R321). -/
def W.byteFor (w : W) (chip : Nat) (own : List (Nat × Nat)) (cell : Nat) : Byte :=
  let seen := w.s.waiting.foldl (fun b h =>
    if h.line == lineOf cell && (h.chip == some chip || own.any h.owners.contains)
    then h.bytes.foldl (fun b x => if x.1 == cell then x.2 else b) b else b) (w.m.get cell)
  w.s.directory.foldl (fun b c =>
    if c.writer == chip && c.line == lineOf cell then (AList.get? c.written cell).getD b else b) seen

/-- The byte at a cell as a group loads it. -/
def W.loadByte (w : W) (r : GroupRef) (cell : Nat) : Byte := w.byteFor r.chip (w.ownerOf r) cell

/-- The value of an access as a group loads it, low byte first. -/
def W.loadValue (w : W) (r : GroupRef) (acc : Acc) : Nat :=
  ofBytes ((upTo acc.width).map fun i => w.loadByte r (acc.key + i))

/-- Whether an access meets poison (14 R325, R326). -/
def W.accPoisoned (w : W) (acc : Acc) : Bool := !w.s.poison.isEmpty && (upTo acc.width).any fun i => w.poisoned (acc.key + i)

/-- Notes that groups have written at the home of another chip, which their next release flushes (14 R324). -/
def W.noteWrote (w : W) (owners : List (Nat × Nat)) (home : Nat) : W :=
  { w with s := { w.s with groups := AList.mapVal w.s.groups fun _ g =>
    (if owners.contains (g.block, g.gid) && !g.wrote.contains home then { g with wrote := g.wrote ++ [home] } else g) } }

/-- Bytes that groups of a chip, or copies of them, write reach their place: another chip's line is checked out unless the write
goes to its home, which takes it after what the chip held of the line; every other write takes the bytes at once
(14 R319, R321; 17 R397). -/
def W.placeBytes (w : W) (chip : Nat) (owners : List (Nat × Nat)) (ctx : Nat) (acc : Acc) (bs : List (Nat × Byte)) : W :=
  match acc.path with
  | .home h shared wt =>
    if shared && h != chip && !wt then w.checkOutWrite chip owners ctx acc.keep bs
    else
      let w1 := (w.checkInLine owners chip (lineOf acc.key)).reachHome owners (w.launchesOf owners) none bs
      if h != chip then w1.noteWrote owners h else w1
  | .host => w.reachHome owners (w.launchesOf owners) none bs
  | _ => w.writeCells bs

/-! ## Races with a copy of the group (13 R288) -/

/-- Copies of a group in flight. -/
def W.ownCopies (w : W) (r : GroupRef) : List Copy :=
  if w.s.copies.isEmpty then [] else (w.s.copies.map Prod.snd).filter fun c => (w.ownerOf r).contains (c.block, c.gid)

/-- What a cell held before a walk wrote it. -/
def Copy.before (c : Copy) (cell : Nat) : Option Byte := AList.get? c.undo cell

/-- A group's value of an access: a byte that a copy of its own has written is the old or the new one, as free values choose
(13 R288). -/
def W.racedValue (w : W) (r : GroupRef) (acc : Acc) : W × Nat :=
  let cs := (w.ownCopies r).filter fun c => (upTo acc.width).any fun i => (c.before (acc.key + i)).isSome
  if cs.isEmpty then (w, w.loadValue r acc)
  else
    let (w1, bs) := (upTo acc.width).foldl (fun (x : W × List Byte) i =>
      let new := x.1.loadByte r (acc.key + i)
      match cs.findSome? fun c => c.before (acc.key + i) with
      | some old => let (n, w') := x.1.draw
                    (w', x.2 ++ [if n % 2 = 0 then new else old])
      | none => (x.1, x.2 ++ [new])) (w, [])
    (w1, ofBytes bs)

/-- Whether a unit operation is a launch append. -/
def UnitOp.isLaunch : UnitOp → Bool
  | .launch _ => true
  | _ => false

/-- Bytes that a program changes may lie in a launch record that a batch of the context still has to read: what they held
before is remembered (06 R135). -/
def W.raceRecords (w : W) (ctx : Nat) (old : List (Nat × Byte)) : W :=
  if w.s.units.any fun u => u.2.ctx == ctx && u.2.kind.isLaunch then
    { w with s := { w.s with units := AList.mapVal w.s.units fun _ u =>
      (if u.ctx == ctx && u.kind.isLaunch then { u with raced := old.foldl (fun t b =>
        if AList.has t b.1 then t else AList.put t b.1 b.2) u.raced } else u) } }
  else w

/-- A group's store meets copies of its own: a byte that a walk has written is left to the copy or taken by the store, as free
values choose, and a byte that a walk may still read or write is remembered as the store finds it (13 R288). -/
def W.raceStore (w : W) (r : GroupRef) (bs : List (Nat × Byte)) : W × List (Nat × Byte) :=
  let cs := w.ownCopies r
  if cs.isEmpty then (w, bs)
  else
    let old := bs.map fun b => (b.1, w.loadByte r b.1)
    let mine := cs.map Copy.op
    let w1 : W := { w with s := { w.s with copies := w.s.copies.map fun p =>
      (if mine.contains p.1 then (p.1, { p.2 with raced := old.foldl (fun t b =>
        if AList.has t b.1 then t else AList.put t b.1 b.2) p.2.raced }) else p) } }
    bs.foldl (fun (x : W × List (Nat × Byte)) b =>
      if cs.any fun c => (c.before b.1).isSome then
        let (n, w') := x.1.draw
        (w', if n % 2 = 0 then x.2 ++ [b] else x.2)
      else (x.1, x.2 ++ [b])) (w1, [])

/-- Whether an atomic, a reduction or a commit may act on a line of a home now: no lease counts as live and no write waits
before it (14 R311, R319). -/
def W.lineFree (w : W) (cell : Nat) : Bool :=
  !leasedCell cell || (w.lineClear (lineOf cell) && !(w.s.waiting.any fun h => h.line == lineOf cell))

/-- Asks for the lines of some cells, to update them at their homes at once: answers whether all are free. Until they are, the
homes grant no lease on them (14 R313; DEDUCED, log entry 41). -/
def W.claim (w : W) (cells : List Nat) : W × Bool :=
  let lines := (cells.filter leasedCell).map lineOf
  if cells.all w.lineFree then ({ w with s := { w.s with awaited := w.s.awaited.filter fun l => !lines.contains l } }, true)
  else ({ w with s := { w.s with awaited := (w.s.awaited ++ lines).eraseDups } }, false)

/-- Brings lines home from the chips that hold them and claims them: whether they can be updated at their homes now, none
waiting behind a held link (14 R313, R323). -/
def W.secure (w : W) (lines : List Nat) : W × Bool :=
  let (w1, free) := (w.each lines fun w l => w.recall l none).claim (lines.map fun l => l * 128)
  (w1, free && lines.all fun l => w1.recalled l none)

/-- Writes the records that stand in line for a context's trace ring, oldest first, each in a place where it can be seen at
once, and then advances PRTHEAD (19 R425). -/
def W.ringFlush (w : W) (chip ctx : Nat) : Nat → W
  | 0 => w
  | n + 1 =>
    let p := w.probe chip ctx
    match p.queued with
    | [] => w
    | b :: rest =>
      match anyCell (pkgOf chip) (fieldOf p.tbase.toNat 12 40 * 4096 + 32 * (p.thead.toNat % p.ringSize)) with
      | none => w.noFrame
      | some cell =>
        match w.secure [lineOf cell] with
        | (w1, false) => w1
        | (w1, true) =>
          ((w1.writeCells (cellsOf cell b)).updProbe chip ctx fun p => { p with thead := p.thead + 1, queued := rest }).ringFlush
            chip ctx n

/-! ## The arithmetic of atomics and reductions (14 R329, R334) -/

/-- The new value of an atomic on a raw element (14 R329). -/
def atomicNew (op : AtomicOp) (t : EType) (old x expected : Nat) : Nat :=
  let m := 2 ^ widthOf t
  match op with
  | .add => (lnAdd t engineMode old x).1 % m
  | .min => (lnMinMax t engineMode false old x).1 % m
  | .max => (lnMinMax t engineMode true old x).1 % m
  | .and => Nat.land old x
  | .or => Nat.lor old x
  | .xor => Nat.xor old x
  | .xch => x
  | .cas => if old = expected then x else old

/-- The reductions of 14 R334 by number: 0 add, 1 min, 2 max. -/
def reduceOp : Nat → AtomicOp
  | 0 => .add
  | 1 => .min
  | _ => .max

/-- The raw element of an access at its home. -/
def W.homeValue (w : W) (cell width : Nat) : Nat := ofBytes (w.m.bytes cell width)

end Sys2Proof.Machine
end

