-- ==== Sys2Proof/Machine/Translate.lean ====
section
/-! DEFINITION. Windows, page walks, translation caches and the checks of an access (14 R303, R304, R327, R339, R343;
15 R369; 17 R391 to R408). -/
namespace Sys2Proof.Machine

/-! ## The walk -/

/-- The levels of a context's tables: lowest virtual bit and bits of the index (17 R391). -/
def walkLevels : List (Nat × Nat) := [(44, 12), (33, 11), (29, 4), (21, 8), (16, 5)]

/-- The result of a walk. -/
inductive Walked
  /-- A leaf, the page's virtual bits, and the aperture entry of a peer leaf. -/
  | leaf (leaf bits : Nat) (aperture : Option Nat)
  /-- NOMAP with a cause. -/
  | nomap (cause : Nat)
  /-- It must be made again: MIG = 1, or what it needs is behind a link or under a lease (17 R403, R404; 18 R417). -/
  | migrating
  deriving DecidableEq, Repr

/-- KIND of a leaf (17 R393). -/
def leafKind (e : Nat) : Nat := fieldOf e 5 3
/-- AIDX of a leaf (17 R393). -/
def leafAidx (e : Nat) : Nat := fieldOf e 52 6
/-- PA of a leaf, as an address (17 R393). -/
def leafPA (e : Nat) : Nat := fieldOf e 16 36 * 65536

/-- A malformed leaf (17 R394). -/
def leafMalformed (e bits : Nat) : Bool :=
  fieldOf e 61 3 != 0 || decide (5 ≤ leafKind e) || leafPA e % 2 ^ bits != 0 ||
  bitOf e 14 != (leafKind e == 4) || (leafAidx e != 0 && !bitOf e 14) ||
  (decide (leafKind e ≤ 2) && decide (3 < fieldOf e 48 4))

/-- An aperture entry of a context, 128 bits (17 R398). -/
def W.apertureEntry (w : W) (pkg ctx i : Nat) : Nat :=
  ofBytes (w.physRead pkg ((w.context pkg ctx).aptab + 16 * i) 16)

/-- Whether an aperture entry is enabled: EN, and no nonzero must-be-zero field (17 R398). -/
def apertureOn (e : Nat) : Bool :=
  bitOf e 0 && fieldOf e 1 4 == 0 && fieldOf e 9 55 == 0 && fieldOf e 116 12 == 0
/-- FABCFG.PKG of a package (18 R415). -/
def W.packageIndex (w : W) (pkg : Nat) : Nat := fieldOf (w.chip (4 * pkg)).fabcfg.toNat 14 2
/-- The package that a table index names from a package: itself, another that bears the index, or the one of that number
(17 R398; 18 R415; DESIGN CHOICE, log 23). -/
def W.packageAt (w : W) (pkg index : Nat) : Nat :=
  if w.packageIndex pkg = index then pkg
  else ((upTo 4).find? fun p => p != pkg && w.packageIndex p == index).getD index
/-- The chip number of an aperture entry within the table: 4 × PKG + CHIP (14 R341; 17 R398). -/
def tableChip (e : Nat) : Nat := fieldOf e 5 2 * 4 + fieldOf e 7 2
/-- The target chip of an aperture entry, over all packages (17 R398, R399). -/
def W.apertureChip (w : W) (pkg e : Nat) : Nat := w.packageAt pkg (fieldOf e 5 2) * 4 + fieldOf e 7 2

/-- The cell that an address of a chip's HBM names. -/
def chipCell (chip off : Nat) : Option Nat := physCell (pkgOf chip) (chip % 4 * 2 ^ 48 + off % 2 ^ 48)

/-- The owner mark of a frame (17 R404). -/
def W.ownerMark (w : W) (frame : Nat) : Nat :=
  ((w.s.owners.find? fun o => decide (o.1 ≤ frame ∧ frame < o.1 + o.2.1)).map fun o => o.2.2).getD 0
/-- The mark of a context slot: slot and bind count (17 R404). -/
def W.contextMark (w : W) (pkg ctx : Nat) : Nat := ctx + 64 * ((w.context pkg ctx).binds % 1024)

/-- Takes zeros for the bytes of some cells as the last write of each: what waits or is checked out for them came before, and is
gone (17 R404). -/
def W.zeroCells (w : W) (zero : Nat → Bool) : W :=
  let line := fun (l : Nat) => zero (l * 128)
  { m := w.m.clear zero
    s := { w.s with
      poison := w.s.poison.filter fun a => !(zero a)
      waiting := w.s.waiting.filter fun h => !(line h.line)
      awaited := w.s.awaited.filter fun l => !(line l)
      directory := w.s.directory.filter fun c => !(line c.line)
      chips := AList.mapVal w.s.chips fun _ h => { h with llc := h.llc.filter fun x => !(line x.1) } } }

/-- Zeros that must be visible at once, where no lease counts as live on a line of them; until then their homes grant none
(14 R319; 17 R404). -/
def W.zeroFill (w : W) (zero : Nat → Bool) : W × Bool :=
  let leased := (w.s.horizon.map Prod.fst).filter fun l => zero (l * 128) && !(w.lineClear l)
  if leased.isEmpty then (w.zeroCells zero, true)
  else ({ w with s := { w.s with awaited := (w.s.awaited ++ leased).eraseDups } }, false)

/-- Zero-fills the frames of a page whose owner mark differs, or all of them, and marks them; or waits for a lease (17 R404). -/
def W.claimFrames (w : W) (cell bits mark : Nat) (all : Bool) : W × Bool :=
  let lo := cell / 65536
  let n := 2 ^ (bits - 16)
  let zero := fun (a : Nat) => decide (lo ≤ a / 65536 ∧ a / 65536 < lo + n) && (all || w.ownerMark (a / 65536) != mark)
  match w.zeroFill zero with
  | (w1, true) => ({ w1 with s := { w1.s with owners := (lo, n, mark) :: w1.s.owners } }, true)
  | x => x

/-- Whether every frame of a page carries a mark already in one run. -/
def W.claimed (w : W) (cell bits mark : Nat) : Bool :=
  let lo := cell / 65536
  let n := 2 ^ (bits - 16)
  match w.s.owners.find? fun o => decide (o.1 < lo + n ∧ lo < o.1 + o.2.1) with
  | some o => o.2.2 == mark && decide (o.1 ≤ lo ∧ lo + n ≤ o.1 + o.2.1)
  | none => mark == 0

/-- Whether a walk or a zero-fill by a chip's CLD reaches a cell: HBM at its home, host memory through CLD 0 (01 R18; 18 R410,
R417). -/
def W.cellReach (w : W) (chip cell : Nat) : Reach := w.unitReach chip (if inHbm cell then .home (homeOf cell) false false else .host)

/-- Clears FR in a leaf by a compare-and-swap at the entry's home, which acts when the entry's line is free there; the walk is
made again otherwise (17 R404). -/
def W.clearFresh (w : W) (pkg e ea : Nat) : W × Bool :=
  match anyCell pkg ea with
  | none => (w.noFrame, false)
  | some c =>
    match w.secure [lineOf c] with
    | (w1, true) =>
      if w1.phys64 pkg ea = e then (w1.writeCells (cellsOf c (bytesOf 8 (e - 2 ^ 60))), true) else (w1, false)
    | x => x

/-- The frames that a walk zeroes and marks: of the package, or of a peer's package through its aperture (17 R404). -/
def leafFrames (w : W) (pkg e : Nat) (ap : Option Nat) : Option (Option Nat) :=
  match leafKind e with
  | 0 | 1 => some (physCell pkg (leafPA e))
  | 4 => match ap with
    | some x => if apertureOn x then some (chipCell (w.apertureChip pkg x) (leafPA e)) else none
    | none => none
  | _ => none

/-- What a walk does with the leaf it found before the translation serves any access: frames of a new owner are zeroed and
marked, FR is cleared in the entry (17 R404). Frames behind fenced links stay as they are, and the leaf FRESH, since no access
gets there. -/
def W.adoptLeaf (w : W) (chip ctx e bits ea : Nat) : W × Walked :=
  let pkg := pkgOf chip
  if bitOf e 59 then (w, .migrating)
  else
    let ap := if leafKind e = 4 then some (w.apertureEntry pkg ctx (leafAidx e)) else none
    let fresh := bitOf e 60
    let mark := w.contextMark pkg ctx
    let host := hostKey pkg (leafPA e)
    let filled : Option (W × Bool) := match leafFrames w pkg e ap with
      | some (some c) =>
        if !fresh && w.claimed c bits mark then some (w, true)
        else match w.cellReach chip c with
          | .live => some (w.claimFrames c bits mark fresh)
          | .held => some (w, false)
          | .fenced => none
      | some none => some (w.noFrame, true)
      | none =>
        if leafKind e = 3 && fresh then match w.cellReach chip host with
          | .live => some (w.zeroFill fun a => decide (host ≤ a ∧ a < host + 2 ^ bits))
          | .held => some (w, false)
          | .fenced => none
        else some (w, true)
    match filled with
    | none => (w, .leaf (if fresh then e else e + 2 ^ 60) bits ap)
    | some (w1, false) => (w1, .migrating)
    | some (w1, true) =>
      if !fresh then (w1, .leaf e bits ap)
      else match w1.clearFresh pkg e ea with
        | (w2, true) => (w2, .leaf (e - 2 ^ 60) bits ap)
        | (w2, false) => (w2, .migrating)

/-- The walk from one level on (17 R392). A table that a link holds off is waited for (DESIGN CHOICE, log 119). -/
def W.walkFrom (w : W) (chip ctx va : Nat) : List (Nat × Nat) → Nat → Bool → W × Walked
  | [], _, _ => (w, .nomap 2)
  | (lo, n) :: rest, t, top =>
    let ea := t + 8 * fieldOf va lo n
    let pkg := pkgOf chip
    let w0 := if (anyCell pkg ea).isNone then w.noFrame else w
    let e := w0.phys64 pkg ea
    if (anyCell pkg ea).any fun c => w.cellReach chip c != .live then (w, .migrating)
    else if !bitOf e 0 then (w0, .nomap 1)
    else if !bitOf e 1 then
      match rest with
      | [] => (w0, .nomap 2)
      | (_, n') :: _ =>
        let t' := fieldOf e 7 45 * 128
        if fieldOf e 52 12 != 0 || fieldOf e 2 5 != 0 || t' % (8 * 2 ^ n') != 0 then (w0, .nomap 2)
        else w0.walkFrom chip ctx va rest t' false
    else if top || leafMalformed e lo then (w0, .nomap 2)
    else w0.adoptLeaf chip ctx e lo ea

/-- Walk(ctx, va) of 17 R392, made by a chip's CLD. -/
def W.walk (w : W) (chip ctx va : Nat) : W × Walked :=
  w.walkFrom chip ctx va walkLevels (w.context (pkgOf chip) ctx).root true

/-! ## Translation caches (17 R405, R406) -/

/-- Whether a cached leaf covers a virtual address. -/
def TlbEntry.covers (t : TlbEntry) (va : Nat) : Bool := t.base / 2 ^ t.bits == va / 2 ^ t.bits
/-- The cache number of a CLD. -/
def cldCache : Nat := 96

/-- XINV.SCOPE. -/
def xinvScope (v : DWord) : Nat := fieldOf v.toNat 62 2
/-- XINV.CTX. -/
def xinvCtx (v : DWord) : Nat := fieldOf v.toNat 56 6
/-- The RW bits of XINV. -/
def xinvMask : DWord := 0xFFFFFFFFFFFF0000

/-- Whether a cached leaf goes: it covers the page, it is of the context, or it is a peer leaf of the aperture entry. -/
def TlbEntry.invalidated (t : TlbEntry) (v : DWord) : Bool :=
  t.ctx == xinvCtx v &&
  match xinvScope v with
  | 0 => t.covers (fieldOf v.toNat 16 40 * 65536)
  | 1 => true
  | _ => leafKind t.leaf == 4 && leafAidx t.leaf == fieldOf v.toNat 16 6

/-- Whether a cached aperture entry goes. -/
def apertureInvalidated (ctx index : Nat) (v : DWord) : Bool :=
  ctx == xinvCtx v && (xinvScope v == 1 || (xinvScope v == 2 && index == fieldOf v.toNat 16 6))

/-- Looks a translation up in one cache. -/
def W.tlbFind (w : W) (chip core ctx va : Nat) : Option TlbEntry :=
  w.s.tlb.find? fun t => t.chip == chip && t.core == core && t.ctx == ctx && t.covers va && !t.hidden

/-- Keeps the first n entries of one cache. -/
def tlbTrim (chip core : Nat) : Nat → List TlbEntry → List TlbEntry
  | _, [] => []
  | n, t :: r =>
    if t.chip == chip && t.core == core then
      match n with
      | 0 => tlbTrim chip core 0 r
      | m + 1 => t :: tlbTrim chip core m r
    else t :: tlbTrim chip core n r

/-- Enters a translation in a cache: 512 entries of a core, 8,192 of a CLD; in a full one the entry made
longest ago gives way (DESIGN CHOICE: the spec names no replacement; log entry 42). -/
def W.tlbPut (w : W) (t : TlbEntry) : W :=
  let cap := if t.core = cldCache then 8192 else 512
  { w with s := { w.s with tlb := tlbTrim t.chip t.core cap (t :: w.s.tlb.filter (· != t)) } }

/-- Whether a leaf may be cached: no MIG, FR or PSN (17 R406). -/
def cachable (e : Nat) : Bool := !bitOf e 60 && !bitOf e 59 && !bitOf e 58

/-- Whether a unit's miss waits: it joins a walk of the page in flight, or finds 2,048 walks in flight (17 R405). -/
def W.walkBusy (w : W) (chip ctx va : Nat) : Bool :=
  let mine := w.s.walks.filter fun x => x.chip == chip
  (w.tlbFind chip cldCache ctx va).isNone &&
    ((mine.any fun x => x.ctx == ctx && x.page == va / 65536) || decide (2048 ≤ mine.length))

/-- A translation by a unit of a chip's CLD: its cache, else a walk, which takes no time where no walk in flight is in its way
(17 R405). -/
def W.unitWalk (w : W) (chip ctx va : Nat) : W × Walked :=
  if w.walkBusy chip ctx va then (w, .migrating) else
  match w.tlbFind chip cldCache ctx va with
  | some t => (w, .leaf t.leaf t.bits t.aperture)
  | none =>
    match w.walk chip ctx va with
    | (w1, .leaf e bits ap) =>
      (if cachable e then w1.tlbPut { chip := chip, core := cldCache, ctx := ctx, base := va / 2 ^ bits * 2 ^ bits, bits := bits,
                                      leaf := e, aperture := ap } else w1, .leaf e bits ap)
    | r => r

/-- A translation by a group: the core's cache or the CLD's, or what a walk handed to the group (17 R405). -/
def W.groupLookup (w : W) (a : At) (va : Nat) : Option Walked :=
  match w.tlbFind a.r.chip a.r.core a.g.ctx va with
  | some t => some (.leaf t.leaf t.bits t.aperture)
  | none =>
    match a.g.walks.find? fun x => x.1 == va / 65536 with
    | some (_, some e, bits) =>
      some (.leaf e bits (if leafKind e = 4 then some (w.apertureEntry (pkgOf a.r.chip) a.g.ctx (leafAidx e)) else none))
    | some (_, none, cause) => some (.nomap cause)
    | none =>
      match w.tlbFind a.r.chip cldCache a.g.ctx va with
      | some t => some (.leaf t.leaf t.bits t.aperture)
      | none => none

/-- Starts or joins the walk of a page; beyond 2,048 walks of a chip the miss waits (17 R405). -/
def W.joinWalk (w : W) (r : GroupRef) (ctx page : Nat) : W :=
  let same := fun (x : Walk) => x.chip == r.chip && x.ctx == ctx && x.page == page
  if w.s.walks.any same then
    { w with s := { w.s with walks := w.s.walks.map fun x =>
        (if (same x && !x.joined.contains r) then { x with joined := x.joined ++ [r] } else x) } }
  else if (w.s.walks.filter fun x => x.chip == r.chip).length < 2048 then
    { w with s := { w.s with walks := w.s.walks ++ [{ chip := r.chip, ctx := ctx, page := page, joined := [r], since := w.s.now }] } }
  else w

/-- A walk in flight returns: a leaf that may be cached enters both caches of each joined core; any other result goes to each
joined group once; MIG keeps the walk (17 R403, R405, R406). -/
def W.completeWalk (w : W) (k : Walk) : W :=
  let va := k.page * 65536
  let (w1, res) := w.walk k.chip k.ctx va
  let drop := fun (w : W) => { w with s := { w.s with walks := w.s.walks.filter fun x =>
    !(x.chip == k.chip && x.ctx == k.ctx && x.page == k.page) } }
  let hand := fun (w : W) (leaf : Option Nat) (aux : Nat) =>
    w.each k.joined fun w r => w.updGroup r fun g => { g with walks := (k.page, leaf, aux) :: g.walks.filter fun x => x.1 != k.page }
  match res with
  | .migrating => { w1 with s := { w1.s with walks := w1.s.walks.map fun x =>
      (if (x.chip == k.chip && x.ctx == k.ctx && x.page == k.page) then { x with mig := some w.s.now } else x) } }
  | .nomap c => hand (drop w1) none c
  | .leaf e bits ap =>
    if cachable e then
      let t : TlbEntry := { chip := k.chip, core := cldCache, ctx := k.ctx, base := va / 2 ^ bits * 2 ^ bits, bits := bits,
                            leaf := e, aperture := ap }
      ((drop w1).tlbPut t).each ((k.joined.map GroupRef.core).eraseDups) fun w c => w.tlbPut { t with core := c }
    else hand (drop w1) (some e) bits

/-! ## The checks of an access (14 R303, R304, R327) -/

/-- What an access asks of a page (17 R396). -/
inductive Need
  | read | write | atomic | fetch
  deriving DecidableEq, Repr

/-- The result of an access's checks. -/
inductive LaneChk
  | ok (acc : Acc)
  | flt (f : Flt)
  /-- It waits for the walk of a page. -/
  | walk (page : Nat)
  /-- Its frame does not exist. -/
  | gone

/-- Whether a seat takes accesses of a context: a table of that context, in neither OFF nor FORMING (15 R369). -/
def Seat.serves (t : Seat) (ctx : Nat) : Bool :=
  fieldOf t.cfg.toNat 40 6 == ctx && t.st != .off && t.st != .forming

/-- The offset of a physical address in a seat's region; none outside it (17 R395; DEDUCED, log 5). -/
def Seat.offsetOf (t : Seat) (pa : Nat) : Option Nat :=
  let base := t.base.toNat % 2 ^ 48
  let off := pa % 2 ^ 48
  if base ≤ off ∧ off < base + fieldOf t.cfg.toNat 8 7 * 2 ^ 30 then some (off - base) else none

/-- The local copy's cell of an offset of a chip's region. -/
def W.replicaCell (w : W) (chip off : Nat) : Option Nat := chipCell chip ((w.seat chip).base.toNat % 2 ^ 48 + off)

/-- Which check of a page an access fails, from its leaf: NOMAP, PERM, PERMIT, TABLE, POISON in that order (14 R327;
17 R394 to R402). `va` is the whole address, `lane` its lane or 0. -/
def W.checkLeaf (w : W) (chip ctx : Nat) (need : Need) (strong : Bool) (lane width : Nat) (va : DWord)
    (leaf bits : Nat) (ap : Option Nat) : LaneChk :=
  let pa := leafPA leaf + va.toNat % 2 ^ bits
  let flt := fun (code detail : Nat) => LaneChk.flt { code := code, detail := detail, tval := some va }
  let kind := leafKind leaf
  let seat := w.seat chip
  let plainTable := need != .atomic || strong
  let nomap := if kind = 0 ∧ fieldOf pa 48 2 ≠ chip % 4 then some (flt fcNOMAP (3 * 32 + lane))
    else if kind = 4 ∧ !(ap.map apertureOn).getD false then some (flt fcNOMAP (4 * 32 + lane))
    else if kind = 2 then
      if !seat.serves ctx then (if plainTable then some (flt fcTABLE 3) else none)
      else if (seat.offsetOf pa).isNone then some (flt fcNOMAP (5 * 32 + lane)) else none
    else none
  let r := bitOf leaf 2
  let wr := bitOf leaf 3
  let perm := match need with
    | .read => if r then none else some 1
    | .write => if wr then none else some 2
    | .atomic => if !r then some 1 else if !wr then some 2 else none
    | .fetch => if bitOf leaf 4 then none else some 3
  match nomap with
  | some f => f
  | none =>
    match perm with
    | some c => flt fcPERM (c * 32 + lane)
    | none =>
      if kind = 4 ∧ need = .atomic ∧ !bitOf leaf 15 then flt fcPERMIT lane
      else if kind = 2 ∧ !plainTable then flt fcTABLE 1
      else if kind = 2 ∧ seat.st = .departed ∧ (need = .write ∨ need = .atomic) then flt fcTABLE 4
      else if bitOf leaf 58 then flt fcPOISON (64 + lane)
      else
        let shared := kind == 1 || kind == 4
        let cl := fieldOf leaf 8 2
        let wt := bitOf leaf 10 || cl == 2
        let mk := fun (key : Nat) (path : Path) =>
          LaneChk.ok { lane := lane, va := va, key := key, width := width, path := path, l1 := cl == 0, llc := cl != 2,
                        keep := if cl = 3 then 0 else 1 + fieldOf leaf 12 2 }
        match kind with
        | 2 => match seat.offsetOf pa with
          | some off => match w.replicaCell chip off with
            | some c => mk c (.replica off)
            | none => .gone
          | none => .gone
        | 3 => mk (hostKey (pkgOf chip) pa) .host
        | 4 =>
          let t := w.apertureChip (pkgOf chip) (ap.getD 0)
          match chipCell t pa with
          | some c => mk c (.home t shared wt)
          | none => .gone
        | _ => match physCell (pkgOf chip) pa with
          | some c => mk c (.home (homeOf c) shared wt)
          | none => .gone

/-- WINDOW, ALIGN and STACK of an address, by its tag: a fault, or where it leads outside window 0x0 (14 R303, R327). -/
def W.checkWindow (w : W) (chip : Nat) (g : Group) (lane width : Nat) (va : DWord) : Option LaneChk :=
  let v := va.toNat
  let window := some (LaneChk.flt { code := fcWINDOW, detail := 1, tval := some va })
  let align := some (LaneChk.flt { code := fcALIGN, detail := lane, tval := some va })
  let shared := ((w.block g.block).map Block.shared).getD 0
  let scratch := (w.context (pkgOf chip) g.ctx).scratch
  match fieldOf v 60 4 with
  | 0 => if fieldOf v 56 4 != 0 then window else if v % width != 0 then align else none
  | 1 =>
    let off := v % 2 ^ 60
    if 2 ^ 21 ≤ off ∨ shared ≤ off then window else if v % width != 0 then align
    else some (.ok { lane := lane, va := va, key := sharedKey g.block off, width := width, path := .shared })
  | 2 =>
    let off := v % 2 ^ 60
    if 2 ^ 30 ≤ off ∨ scratch ≤ off then window else if v % width != 0 then align
    else some (.ok { lane := lane, va := va, key := scratchKey chip g.ctx off, width := width, path := .scratch })
  | 3 =>
    let off := v % 2 ^ 60
    if 2 ^ 20 ≤ off then window else if v % width != 0 then align
    else if g.stackLen ≤ off then some (.flt { code := fcSTACK, detail := lane, tval := some va })
    else some (.ok { lane := lane, va := va, key := scratchKey chip g.ctx (g.stackBase + off), width := width, path := .stack })
  | _ => window

/-- Every check of one access of a group, in the order of 14 R327. -/
def W.checkAccess (w : W) (a : At) (need : Need) (strong : Bool) (lane width : Nat) (va : DWord) : LaneChk :=
  match w.checkWindow a.r.chip a.g lane width va with
  | some c => c
  | none =>
    let v := va.toNat % 2 ^ 56
    match w.groupLookup a v with
    | none => .walk (v / 65536)
    | some (.nomap c) => .flt { code := fcNOMAP, detail := c * 32 + lane, tval := some va }
    | some .migrating => .walk (v / 65536)
    | some (.leaf e bits ap) => w.checkLeaf a.r.chip a.g.ctx need strong lane width va e bits ap

/-- The checks of several lanes: the accesses, or the fault of the lowest lane that faults, or the pages to walk: every miss
is waited for before any lane applies (14 R304; 17 R405). -/
inductive AllChk
  | ok (accs : List Acc)
  | flt (f : Flt)
  | walk (pages : List Nat)
  | gone

/-- Collects the lanes' checks, ascending. -/
def gather : List LaneChk → AllChk
  | [] => .ok []
  | .flt f :: _ => .flt f
  | .gone :: _ => .gone
  | .walk p :: r => .walk ((p :: r.filterMap fun c => match c with
      | .walk q => some q
      | _ => none).eraseDups)
  | .ok acc :: r => match gather r with
    | .ok accs => .ok (acc :: accs)
    | x => x

/-- Checks accesses of a group: lane, width and address each. -/
def W.checkAll (w : W) (a : At) (need : Need) (strong : Bool) (xs : List (Nat × Nat × DWord)) : AllChk :=
  gather (xs.map fun x => w.checkAccess a need strong x.1 x.2.1 x.2.2)

/-- Forgets the handed-over walk results of a group that an instruction has used. -/
def W.useWalks (w : W) (a : At) (xs : List (Nat × Nat × DWord)) : W :=
  if a.g.walks.isEmpty then w
  else
    let pages := xs.map fun x => x.2.2.toNat % 2 ^ 56 / 65536
    w.updGroup a.r fun g => { g with walks := g.walks.filter fun y => !pages.contains y.1 }

/-- Runs an instruction's accesses through their checks: a fault, a wait for walks, or the continuation. -/
def W.withAccess (w : W) (a : At) (need : Need) (strong : Bool) (xs : List (Nat × Nat × DWord)) (k : W → List Acc → Did) : Did :=
  match w.checkAll a need strong xs with
  | .ok accs => k (w.useWalks a xs) accs
  | .flt f => .refuse (w.useWalks a xs) f
  | .walk ps => .stall (w.each ps fun w p => w.joinWalk a.r a.g.ctx p) .memTranslation
  | .gone => .stall w.noFrame .memTranslation

/-- The access of a device unit on behalf of a context: the window 0x0 or 0x2 address, with the checks a group's access
meets (13 R298, R465; 16 R375). -/
def W.unitAccess (w : W) (chip ctx : Nat) (need : Need) (width : Nat) (va : DWord) : W × LaneChk :=
  let v := va.toNat
  match fieldOf v 60 4 with
  | 0 =>
    if fieldOf v 56 4 != 0 then (w, .flt { code := fcWINDOW, detail := 1, tval := some va })
    else
      match w.unitWalk chip ctx (v % 2 ^ 56) with
      | (w1, .nomap c) => (w1, .flt { code := fcNOMAP, detail := c * 32, tval := some va })
      | (w1, .migrating) => (w1, .walk (v % 2 ^ 56 / 65536))
      | (w1, .leaf e bits ap) => (w1, w1.checkLeaf chip ctx need false 0 width va e bits ap)
  | 2 =>
    let off := v % 2 ^ 60
    if 2 ^ 30 ≤ off ∨ (w.context (pkgOf chip) ctx).scratch ≤ off then (w, .flt { code := fcWINDOW, detail := 1, tval := some va })
    else (w, .ok { lane := 0, va := va, key := scratchKey chip ctx off, width := width, path := .scratch })
  | _ => (w, .flt { code := fcWINDOW, detail := 1, tval := some va })

end Sys2Proof.Machine
end

