-- ==== Sys2Proof/Machine/Commit.lean ====
section
/-! DEFINITION. The commit of an atomic region's record (16 R379, R380, R382): one function of the values read, which a home
CLD and every seat of a table run alike. -/
namespace Sys2Proof.Machine

/-- The fresh value of a load of the record. -/
def freshOf (fresh : List (Nat × Nat × Nat)) (lane k : Nat) : Nat :=
  ((fresh.find? fun x => x.1 == lane && x.2.1 == k).map fun x => x.2.2).getD 0

/-- Fresh + c modulo 2^32 (16 R377). -/
def freshPlus (fresh : List (Nat × Nat × Nat)) (lane k : Nat) (c : Word) : Word := BitVec.ofNat 32 (freshOf fresh lane k) + c

/-- The outcome of a constraint on a value (16 R379). -/
def Constraint.holds (c : Constraint) (x : Word) : Bool :=
  let read := fun (v : Word) => if c.signed then v.toInt else (v.toNat : Int)
  let (p, q) := if c.symFirst then (read x, read c.plain) else (read c.plain, read x)
  match c.rel with
  | 0 => decide (p = q)
  | 1 => decide (p ≠ q)
  | 2 => decide (p < q)
  | _ => decide (p ≤ q)

/-- The bytes' value of a store record (16 R380). -/
def StoreData.value (fresh : List (Nat × Nat × Nat)) : StoreData → Nat
  | .plain v => v
  | .sym lane k c _ => (freshPlus fresh lane k c).toNat
  | .deps _ v => v

/-- Commit of 16 R382: the outcome, and the stores to make. -/
def commitEval (read : RegionLoad → Nat) (poisoned : RegionLoad → Bool) (loads : List RegionLoad) (stores : List RegionStore)
    (constraints : List Constraint) (fragile : List (Nat × Nat)) : CommitResult × List (Acc × Nat) :=
  let fresh := loads.map fun l => (l.lane, l.k, read l)
  let changed := (loads.filter fun l => read l != l.old).map fun l => (l.lane, l.k)
  let nchg := min 255 changed.length
  let flipped := constraints.any fun c =>
    changed.contains (c.lane, c.k) && c.holds (freshPlus fresh c.lane c.k c.c) != c.outcome
  let (out, cause) :=
    if loads.any poisoned then (4, 4)
    else if changed.isEmpty then (2, 0)
    else if changed.any fragile.contains then (4, 2)
    else if flipped then (4, 3)
    else (3, 0)
  ({ out := out, cause := cause, nchg := nchg, fresh := fresh },
    if out = 4 then [] else stores.map fun s => (s.acc, s.data.value fresh))

end Sys2Proof.Machine
end

