-- ==== Sys2Proof/Machine/Table.lean ====
section
/-! DEFINITION. The replicated segment at its seats: vectors, weak updates, the rack, the recent-write table, strong
operations and turns (15 R344 to R358, R362 to R368; 21 R451, R452). -/
namespace Sys2Proof.Machine

/-! ## Vectors -/

/-- An entry of a vector: 0 to 15 the seats, 16 the turn entry (15 R347). -/
def vecGet (v : Vec17) (i : Nat) : Nat := v.getD i 0
/-- Sets an entry. -/
def vecSet (v : Vec17) (i x : Nat) : Vec17 := v.set i x
/-- Every entry of one vector is at least the other's. -/
def vecCovers (a b : Vec17) : Bool := (upTo 17).all fun i => decide (vecGet b i ≤ vecGet a i)
/-- Subtraction entry by entry, clamped at 0 (15 R366). -/
def vecSub (a b : Vec17) : Vec17 := (upTo 17).map fun i => vecGet a i - vecGet b i
/-- Minimum entry by entry (15 R354). -/
def vecMin (a b : Vec17) : Vec17 := (upTo 17).map fun i => min (vecGet a i) (vecGet b i)
/-- The sum of the entries. -/
def vecSum (v : Vec17) : Nat := v.foldl (· + ·) 0
/-- The starting vector (15 R347). -/
def vecZero : Vec17 := List.replicate 17 0

/-! ## Seats -/

/-- The seat's number (15 R345). -/
def Seat.num (t : Seat) : Nat := fieldOf t.cfg.toNat 36 4
/-- The live set (15 R345). -/
def Seat.live (t : Seat) : List Nat := (upTo 16).filter fun s => bitOf t.cfg.toNat (48 + s)
/-- The table's identity (15 R345). -/
def Seat.tid (t : Seat) : Nat := fieldOf t.cfg.toNat 20 16
/-- The owning context slot (15 R345). -/
def Seat.ctx (t : Seat) : Nat := fieldOf t.cfg.toNat 40 6
/-- Removes a seat from the live set. -/
def Seat.dropLive (t : Seat) (s : Nat) : Seat := { t with cfg := t.cfg &&& ~~~((1 : DWord) <<< (48 + s)) }

/-- The chip that holds a seat of a table, while the seat is in FORMING, LIVE, CHANGING or DEPARTED: seat s is a chip of the
package with table index s div 4 (15 R344). -/
def W.seatChip (w : W) (tid s : Nat) : Option Nat :=
  ((w.s.chips.find? fun c => c.2.seat.st != .off && c.2.seat.tid == tid && c.2.seat.num == s &&
    w.packageIndex (pkgOf c.1) == s / 4)).map Prod.fst

/-- The chips of the live seats of a chip's table, itself among them. -/
def W.liveChips (w : W) (chip : Nat) : List Nat := (w.seat chip).live.filterMap (w.seatChip (w.seat chip).tid)

/-- Changes the transport between two chips of different packages. -/
def W.updTransport (w : W) (src dst : Nat) (f : Transport → Transport) : W :=
  { w with s := { w.s with transports := AList.put w.s.transports (src, dst) (f (w.transport src dst)) } }

/-- The live path whose turn it is, in rotation after some packets: the path's index (18 R416). -/
def Transport.turnPath (t : Transport) (n : Nat) : Option Nat :=
  let live := (upTo t.paths.length).filter fun i => ((t.paths[i]?).map FabricPath.live).getD false
  live[n % max 1 live.length]?

/-- The MAC address of a port of a package, 0 to 15, as a chip's registers give it (18 R415). -/
def W.portMac (w : W) (chip pkg port : Nat) : BitVec 48 :=
  (AList.getD (w.chip chip).mac (w.packageIndex pkg) 0).setWidth 48 + BitVec.ofNat 48 port

/-- The frame of a packet from a chip on a path (18 R415). -/
def W.frameOn (w : W) (src dst : Nat) (p : FabricPath) : Frame :=
  { dest := w.portMac src (pkgOf dst) p.remote, src := w.portMac src (pkgOf src) (p.port - 0x30)
    etype := BitVec.ofNat 16 (fieldOf (w.chip src).fabcfg.toNat 16 16) }

/-- Whether what a number names, a packet, message or operation, has arrived: no transport still holds a packet of it
(18 R416). -/
def W.arrived (w : W) (n : Nat) : Bool := w.s.transports.all fun t => t.2.unacked.all fun u => u.carries != n

/-- A packet put on the fabric for what a number names: it takes the destination's next sequence number and the next live path's
next number, or is held (18 R416, R417). Traffic inside a package takes no path. -/
def W.transportSend (w : W) (src dst carries : Nat) : W :=
  if pkgOf src = pkgOf dst then w
  else w.updTransport src dst fun t =>
    let path := t.turnPath t.nextSeq
    { t with
      nextSeq := t.nextSeq + 1
      unacked := t.unacked ++ [{ seq := t.nextSeq, sent := w.s.now, carries := carries
                                 frame := (path.bind fun i => t.paths[i]?).map (w.frameOn src dst)
                                 path := path.map fun i => (i, ((t.paths[i]?).map FabricPath.next).getD 0) }]
      paths := match path with
        | some i => t.paths.modify i fun p => { p with next := p.next + 1 }
        | none => t.paths }

/-- Puts a packet in flight to a chip. -/
def W.sendPacket (w : W) (dst : Nat) (p : Packet) : W :=
  let (n, w0) := w.fresh
  let w1 := match w.seatChip p.tid p.seat with
    | some src => w0.transportSend src dst n
    | none => w0
  { w1 with s := { w1.s with packets := AList.put w1.s.packets (dst, n) p } }

/-- Broadcasts a packet to every other live seat (15 R348, R356). -/
def W.broadcast (w : W) (chip : Nat) (p : Packet) : W :=
  w.each ((w.liveChips chip).filter (· != chip)) fun w d => w.sendPacket d p

/-- Puts a message in flight from a chip to another. -/
def W.sendMessage (w : W) (src dst : Nat) (m : TurnMsg) : W :=
  let (n, w0) := w.fresh
  let w1 := w0.transportSend src dst n
  { w1 with s := { w1.s with messages := AList.put w1.s.messages (dst, n) m } }

/-! ## Writing bytes under their keys (15 R353, R355) -/

/-- Whether one key beats another (15 R350). -/
def ByteKey.beats (a b : ByteKey) : Bool := decide (b.stamp < a.stamp) || (a.stamp == b.stamp && decide (a.seat < b.seat))

/-- The key of the last write remembered at a byte of the region (15 R353). -/
def Seat.keyAt (t : Seat) (o : Nat) : Option ByteKey := (AList.get? t.rwt (o / 4)).bind fun e => AList.get? e.keys (o % 4)

/-- Whether a write at a byte mixes with the last one there: one is strong, the other weak, and neither's DV covers the other's
(15 R355). -/
def Seat.clash (t : Seat) (key : ByteKey) (o : Nat) : Bool :=
  match t.keyAt o with
  | some k => k.strong != key.strong && !vecCovers k.dv key.dv && !vecCovers key.dv k.dv
  | none => false

/-- Counts a write once where any of its bytes is mixed (15 R355). -/
def W.countMixed (w : W) (chip : Nat) (offs : List Nat) (key : ByteKey) : W :=
  if offs.any ((w.seat chip).clash key) then w.updSeat chip fun t => { t with mixed := min (2 ^ 32 - 1) (t.mixed + 1) } else w

/-- Whether a write under a key takes a byte: no key remembered there beats its own (15 R353). -/
def Seat.takes (t : Seat) (key : ByteKey) (o : Nat) : Bool :=
  match t.keyAt o with
  | some k => !k.beats key
  | none => true

/-- Remembers a key at the bytes it takes (15 R353). -/
def Seat.recordKeys (t : Seat) (offs : List Nat) (key : ByteKey) : Seat :=
  { t with rwt := (offs.filter (t.takes key)).foldl (fun r o =>
      let e := AList.getD r (o / 4) {}
      AList.put r (o / 4) { keys := AList.put e.keys (o % 4) key, mark := none }) t.rwt }

/-- An incoming update reaches some bytes of a seat's copy: the load entries of the chip's cores on its lines go, whichever
bytes it writes (09 R199; 15 R352). -/
def W.incoming (w : W) (chip : Nat) (offs : List Nat) : W :=
  let cores := (w.s.cores.filter fun c => c.1.1 == chip && !c.2.reuse.isEmpty).map Prod.fst
  if cores.isEmpty then w else
  let cells := offs.filterMap (w.replicaCell chip)
  w.each cores fun w k => w.storeLoads k none cells

/-- Applies bytes of one write at a seat: offset and value each. The higher key is remembered; of two mixed writes a free value
chooses which value the byte holds (15 R353, R355). A group's own store waits for the horizons of the lines at its home as
every store does (14 R319). -/
def W.applyBytes (w : W) (chip : Nat) (own : Option GroupRef) (bs : List (Nat × Byte)) (key : ByteKey) : W :=
  let seat := w.seat chip
  let clash := seat.clash key
  let offs := ((bs.map Prod.fst).filter clash).eraseDups
  let (n, w0) := if offs.isEmpty then (0, w) else w.draw
  let takes := fun (o : Nat) => if clash o then n.testBit (offs.idxOf o) else seat.takes key o
  let cells := (bs.filter fun b => takes b.1).filterMap fun b => (w.replicaCell chip b.1).map fun c => (c, b.2)
  (if own.isSome then w0.homeWrite own cells else w0.writeCells cells).updSeat chip fun t => t.recordKeys (bs.map Prod.fst) key

/-- Words of the region not yet in the recent-write table. -/
def Seat.newWords (t : Seat) (offs : List Nat) : Nat :=
  (((offs.map (· / 4)).eraseDups).filter fun k => !AList.has t.rwt k).length

/-- Whether the recent-write table has room for bytes: at 100 % fill none are taken, and words that it does not hold need an
entry each (15 R353, R365). -/
def Seat.hasRoom (t : Seat) (offs : List Nat) : Bool :=
  offs.isEmpty || (decide (t.rwt.length < 65536) && decide (t.rwt.length + t.newWords offs ≤ 65536))

/-! ## Weak updates (15 R348) -/

/-- Whether a replicated store of some bytes must stall: a CHANGING seat, a full table, an entry that would pass
0xBF_FFFF before the switch (15 R363, R365, R366). -/
def Seat.storeStalls (t : Seat) (offs : List Nat) : Bool :=
  t.st == .changing || !t.hasRoom offs || decide (0xBFFFFF ≤ vecGet t.applied t.num)

/-- The records of a packet: one for each store and aligned 32-byte chunk (15 R349). -/
def recordChunks (rs : List (Nat × Nat × Byte)) : List (Nat × Nat) := (rs.map fun x => (x.1, x.2.1 / 32)).eraseDups

/-- A packet as it is sent: eight records, 256 bytes of data, to a part (15 R349; DEDUCED, log 108). -/
def Packet.parts (p : Packet) : List Packet :=
  let ks := recordChunks p.records
  if ks.length ≤ 8 then [p] else
  let n := ceilDiv ks.length 8
  (upTo n).map fun i =>
    let mine := (ks.drop (8 * i)).take 8
    { p with part := (i, n), records := p.records.filter fun x => mine.contains (x.1, x.2.1 / 32) }

/-- Whether a packet on its way takes one more store of its seat: the next in sequence, with no update of another seat applied
between, and room for it (15 R349). -/
def Packet.joins (p q : Packet) : Bool :=
  p.kind == .weak && p.seat == q.seat && p.tid == q.tid && p.parity == q.parity && p.view == q.view && p.part == (0, 1) &&
    p.first + p.count == q.first && decide (p.count < 255) && p.stamp + 1 == q.stamp && vecSet p.dv p.seat q.first == q.dv &&
    decide ((recordChunks p.records).length + (recordChunks q.records).length ≤ 8)

/-- The packet with one more store: one DV serves them all, with the last store's number (15 R349). -/
def Packet.join (p q : Packet) : Packet :=
  { p with count := p.count + 1, dv := q.dv, stamp := q.stamp, records := p.records ++ q.records.map fun x => (p.count, x.2) }

/-- Sends one store's update to every other live seat: in the packet of the stores before it while that is still on its way to
each of them, else in packets of its own (15 R348, R349; DESIGN CHOICE, log 120). -/
def W.sendWeak (w : W) (chip : Nat) (q : Packet) : W :=
  let dests := (w.liveChips chip).filter (· != chip)
  let open' := dests.filterMap fun d => (w.s.packets.find? fun p => p.1.1 == d && p.2.joins q).map Prod.fst
  if !dests.isEmpty && open'.length == dests.length then
    w.each open' fun w k => { w with s := { w.s with packets := AList.upd w.s.packets k fun p => p.join q } }
  else w.each q.parts fun w p => w.broadcast chip p

/-- Steps 1 and 2 of a store instruction to the replicated region: one sequence number for all its lanes, the bytes written to
the local copy; and the packet of step 3 (15 R348; 21 R451). -/
def W.numberStore (w : W) (r : GroupRef) (bs : List (Nat × Byte)) : Packet × W :=
  let chip := r.chip
  let t := w.seat chip
  let s := t.num
  let n := vecGet t.applied s + 1
  let dv := vecSet t.applied s n
  let stamp : Int := (vecSum dv % 2 ^ 28 : Nat)
  let key : ByteKey := { stamp := stamp, seat := s, number := n, strong := false, dv := dv }
  let w1 := (w.countMixed chip (bs.map Prod.fst) key).applyBytes chip (some r) bs key
  ({ kind := .weak, seat := s, parity := t.parity, view := t.view, first := n, count := 1, dv := dv, stamp := stamp,
     records := bs.map fun b => (0, b.1, b.2), tid := t.tid },
   w1.updSeat chip fun t => { t with applied := vecSet t.applied s n })

/-- A store instruction to the replicated region with O plain (15 R348). -/
def W.weakStore (w : W) (r : GroupRef) (bs : List (Nat × Byte)) : W :=
  let (p, w1) := w.numberStore r bs
  w1.sendWeak r.chip p

/-! ## Strong operations at a seat (15 R356, R357; 16 R386) -/

/-- The slot that holds a group of a block. -/
def W.groupOf (w : W) (owner : Nat × Nat) : Option GroupRef :=
  (w.s.groups.find? fun g => g.2.block == owner.1 && g.2.gid == owner.2).map Prod.fst

/-- The value of some bytes of a seat's copy. -/
def W.replicaValue (w : W) (chip off width : Nat) : Nat :=
  ofBytes ((upTo width).map fun i => match w.replicaCell chip (off + i) with
    | some c => w.m.get c
    | none => 0)

/-- Whether some bytes of a seat's copy meet poison (14 R325). -/
def W.replicaPoisoned (w : W) (chip off width : Nat) : Bool :=
  (upTo width).any fun i => match w.replicaCell chip (off + i) with
    | some c => w.poisoned c
    | none => false

/-- Notes a POISON for the group's next marker; the first one counts (14 R326). -/
def W.noteLate (w : W) (r : GroupRef) (detail : Nat) (va : DWord) : W :=
  w.updGroup r fun g => { g with late := g.late.or (some { code := fcPOISON, detail := detail, tval := some va }) }

/-- Applies the lanes of a strong atomic at one seat, ascending: the old values. A lane that meets poison is not applied, and
its old value is free (14 R326; 15 R357). -/
def W.strongLanes (w : W) (chip : Nat) (op : AtomicOp) (t : EType) (key : ByteKey) :
    List (Nat × Nat × Nat × Nat) → W × List (Nat × Nat)
  | [] => (w, [])
  | (l, off, x, expected) :: r =>
    let width := widthOf t / 8
    if w.replicaPoisoned chip off width then
      let (n, w0) := w.draw
      let (w1, rest) := w0.strongLanes chip op t key r
      (w1, (l, n % 2 ^ widthOf t) :: rest)
    else
    let old := w.replicaValue chip off width
    let new := atomicNew op t old x expected
    let (w1, rest) := (w.applyBytes chip none (cellsOf off (bytesOf width new)) key).strongLanes chip op t key r
    (w1, (l, old) :: rest)

/-- The bytes of the region that count as written by a strong operation, by offset: those it may write, and those a region
loads (15 R355; 16 R386). -/
def StrongBody.writes : StrongBody → List Nat
  | .turn => []
  | .atomic _ t lanes => lanes.flatMap fun x => (upTo (widthOf ((etypeOf t).getD .i32) / 8)).map (x.2.1 + ·)
  | .commit loads stores _ _ => ((loads.map RegionLoad.acc) ++ stores.map RegionStore.acc).flatMap fun c => match c.path with
    | .replica o => (upTo c.width).map (o + ·)
    | _ => []

/-- Replaces a group's operation that waits for a unit by the result that has come (03 R56; 15 R357). -/
def W.giveResult (w : W) (owner : Nat × Nat) (op : Nat) (f : Group → List RegWrite) : W :=
  match w.groupOf owner with
  | none => w
  | some r => w.updGroup r fun g =>
    { g with ops := g.ops.map fun o => (if o.id == op then { o with kind := .value (f g) } else o) }

/-- The register writes of old values into a destination. -/
def strongWrites (d : StrongDest) (g : Group) (olds : List (Nat × Nat)) : List RegWrite :=
  match d with
  | .scalar sd => [.s sd (BitVec.ofNat 64 ((olds.head?.map Prod.snd).getD 0))]
  | .vector vd t =>
    let ty := (etypeOf t).getD .i32
    let en := maskOf fun l => AList.has olds l
    let f := fun l => plainLane ty (AList.getD olds l 0)
    if is64 ty then [.v vd (newLanes en (g.vget vd) f), .v (vd + 1) (newLanesHigh en (g.vget (vd + 1)) f)]
    else [.v vd (newLanes en (g.vget vd) f)]

/-- A seat applies a turn: the operation's effect on its copy, and at the issuing seat the result (15 R356, R357;
16 R386). -/
def W.applyTurn (w : W) (chip : Nat) (p : Packet) : W :=
  let t0 := w.seat chip
  let mine := p.seat == t0.num
  let waiting := if mine then t0.strong.find? fun o => o.op == p.op else none
  let w := if mine then w else w.incoming chip p.body.writes
  let key : ByteKey := { stamp := p.stamp, seat := p.seat, number := p.turn, strong := true, dv := p.dv }
  let w1 : W := match p.kind with
    | .strong =>
      match p.body with
      | .turn => match waiting with
        | some o => match w.groupOf o.owner with
          | some r => ((w.updGroup r fun g => { g with
              turnWait := if g.turnWait = some p.op then none else g.turnWait }).acquire r t0.ctx 5).settle r
          | none => w
        | none => w
      | .atomic op et ls =>
        let (w', olds) := (w.countMixed chip p.body.writes key).strongLanes chip op ((etypeOf et).getD .i32) key ls
        match waiting with
        | some o =>
          match o.dest, o.groupOp with
          | some d, some id =>
            let w2 := w'.giveResult o.owner id fun g => strongWrites d g olds
            let bad := ls.find? fun x => w.replicaPoisoned chip x.2.1 (widthOf ((etypeOf et).getD .i32) / 8)
            match w2.groupOf o.owner with
            | some r =>
              let w3 := w2.acquire r t0.ctx 5
              match bad with
              | some x => w3.noteLate r (0x80 + x.1) (AList.getD o.addrs x.1 0)
              | none => w3
            | none => w2
          | _, _ => w'
        | none => w'
      | .commit loads stores cons frag =>
        let off := fun (a : Acc) => match a.path with
          | .replica o => o
          | _ => 0
        let (res, writes) := commitEval (fun l => w.replicaValue chip (off l.acc) l.acc.width)
          (fun l => w.replicaPoisoned chip (off l.acc) l.acc.width) loads stores cons frag
        let w0 := ((w.countMixed chip p.body.writes key).each writes fun w x =>
          w.applyBytes chip none (cellsOf (off x.1) (bytesOf x.1.width x.2)) key)
        let w' := w0.updSeat chip fun t => t.recordKeys p.body.writes key
        match waiting with
        | some o =>
          match w'.groupOf o.owner with
          | some r => w'.updRegion r fun rg => { rg with result := some res }
          | none => w'
        | none => w'
    | .handoff => w.updSeat chip fun t =>
        let t1 := { t with shooter := p.shooter, left := 1023 }
        if p.shooter = t.num then { t1 with nextGrant := p.turn + 1, turnsLeft := 1023, handoffDue := false } else t1
    | .rebase => w.updSeat chip fun t => { t with rebasing := some (p.base, vecGet t.applied 16 + 1, p.turn) }
    | _ => w
  w1.updSeat chip fun t =>
    { t with applied := vecSet t.applied 16 (vecGet t.applied 16 + 1), nextTurn := t.nextTurn + 1,
             left := if p.kind = .strong then t.left - 1 else t.left,
             strong := if mine then t.strong.filter fun o => o.op != p.op else t.strong }

/-! ## The rack (15 R351) -/

/-- The parts of a held weak update that the rack has, itself among them (15 R349). -/
def Seat.partsHeld (t : Seat) (p : Packet) : List Packet :=
  t.rack.filter fun q => q.kind == .weak && q.seat == p.seat && q.first == p.first && q.parity == p.parity

/-- The key of a store that a weak packet carries, by its place: it has the packet's DV with its own number, and a stamp smaller
by the stores after it (15 R349). -/
def Packet.keyOf (p : Packet) (i : Nat) : ByteKey :=
  { stamp := p.stamp - ((p.count - 1 - i : Nat) : Int), seat := p.seat, number := p.first + i, strong := false,
    dv := vecSet p.dv p.seat (p.first + i) }

/-- Whether a held packet may be applied now (15 R351): a store in parts once they are all there (15 R349); what would write to
a full recent-write table waits (15 R353, R365). -/
def Seat.eligible (t : Seat) (p : Packet) : Bool :=
  p.parity == t.parity &&
  match p.kind with
  | .weak => p.first == vecGet t.applied p.seat + 1 &&
      ((upTo 17).all fun i => i == p.seat || decide (vecGet p.dv i ≤ vecGet t.applied i)) &&
      ((upTo p.part.2).all fun i => (t.partsHeld p).any fun q => q.part == (i, p.part.2)) &&
      t.hasRoom ((t.partsHeld p).flatMap fun q => q.records.map fun x => x.2.1)
  | .strong => ((upTo 16).all fun i => decide (vecGet p.dv i ≤ vecGet t.applied i)) && p.turn == t.nextTurn &&
      t.hasRoom p.body.writes
  | _ => p.turn == t.nextTurn

/-- The eligible held update of the lowest seat, turns before weak updates (15 R351). -/
def Seat.pick (t : Seat) : Option Packet :=
  let el := t.rack.filter t.eligible
  let best := fun (ps : List Packet) => ps.foldl (fun (b : Option Packet) p => match b with
    | none => some p
    | some q => if p.seat < q.seat then some p else some q) none
  (best (el.filter fun p => p.kind != .weak)).or (best el)

/-- Applies the stores that a weak packet or the parts of one carry, in order and all at once (15 R349, R351). -/
def W.applyWeak (w : W) (chip : Nat) (p : Packet) (records : List (Nat × Nat × Byte)) : W :=
  let w1 := (w.incoming chip (records.map fun x => x.2.1)).each (upTo p.count) fun w i =>
    let bs := (records.filter fun x => x.1 == i).map fun x => x.2
    (w.countMixed chip (bs.map Prod.fst) (p.keyOf i)).applyBytes chip none bs (p.keyOf i)
  w1.updSeat chip fun t => { t with applied := vecSet t.applied p.seat (p.first + p.count - 1) }

/-- Applies one held update. -/
def W.applyHeld (w : W) (chip : Nat) (p : Packet) : W :=
  match p.kind with
  | .weak =>
    let ps := (w.seat chip).partsHeld p
    (w.updSeat chip fun t => { t with rack := ps.foldl List.erase t.rack }).applyWeak chip p (ps.flatMap Packet.records)
  | _ => (w.updSeat chip fun t => { t with rack := t.rack.erase p }).applyTurn chip p

/-- The bytes of the region that a held update writes. -/
def Seat.updates (t : Seat) (p : Packet) : List Nat :=
  match p.kind with
  | .weak => (t.partsHeld p).flatMap fun q => q.records.map fun x => x.2.1
  | .strong => p.body.writes
  | _ => []

/-- The receive engine: re-tests held updates after every application (15 R351). An update of lines that loads hold leases on
waits for their horizons (14 R319). -/
def W.runRack (w : W) (chip : Nat) : Nat → W
  | 0 => w
  | n + 1 =>
    let t := w.seat chip
    if t.st != .live && t.st != .changing then w
    else match t.pick with
      | none => w
      | some p =>
        match w.claim ((t.updates p).filterMap (w.replicaCell chip)) with
        | (w1, true) => (w1.applyHeld chip p).runRack chip n
        | (w1, false) => w1

/-- The receive engine on all a rack holds. -/
def W.drainRack (w : W) (chip : Nat) : W := w.runRack chip (w.seat chip).rack.length

/-- A packet of the old parity brought to the base in force (15 R366). -/
def Packet.rebased (p : Packet) (b : Vec17) (parity : Bool) : Packet :=
  { p with dv := vecSub p.dv b, stamp := p.stamp - (vecSum b : Nat), first := p.first - vecGet b p.seat, parity := parity }

/-- A packet arrives at a seat: discarded, held for back-pressure, or racked; none when it must stay in flight
(15 R346, R351, R352, R363, R366). -/
def W.receivePacket (w : W) (chip : Nat) (p : Packet) : Option W :=
  let t := w.seat chip
  if t.st = .off ∨ t.st = .departed ∨ p.tid ≠ t.tid ∨ !t.live.contains p.seat ∨ (p.view < t.view) then some w
  else if t.leaving = some p.seat then some (w.updSeat chip fun t => { t with refused := t.refused ++ [p] })
  else if 8192 ≤ (t.rack.filter fun q => q.seat == p.seat).length then none
  else
    let q := if p.parity != t.parity && t.rebasing.isNone && !t.lastBase.isEmpty then p.rebased t.lastBase t.parity else p
    some ((w.updSeat chip fun t => { t with rack := t.rack ++ [q] }).drainRack chip)

/-! ## Turns (15 R356, R358, R366) -/

/-- A seat sends a turn request for a strong operation to its shooter. -/
def W.requestTurn (w : W) (chip op : Nat) : W :=
  let t := w.seat chip
  match w.seatChip t.tid t.shooter with
  | none => w
  | some d => (w.sendMessage chip d (.request t.num t.shooter op)).updSeat chip fun t =>
      { t with strong := t.strong.map fun o => (if o.op == op then { o with requested := true } else o) }

/-- A group hands its seat a strong operation: its number. -/
def W.startStrong (w : W) (chip : Nat) (owner : Nat × Nat) (body : StrongBody) (dest : Option StrongDest) (groupOp : Option Nat)
    (addrs : AList Nat DWord) : Nat × W :=
  let (n, w1) := w.fresh
  let w2 := w1.updSeat chip fun t =>
    { t with strong := t.strong ++ [{ op := n, owner := owner, body := body, dest := dest, addrs := addrs, groupOp := groupOp }] }
  (n, if (w2.seat chip).st = .live && decide ((w2.seat chip).rwt.length < 65536) then w2.requestTurn chip n else w2)

/-- Sends the turn requests that a change or a full recent-write table has held back (15 R363, R365). -/
def W.sendRequests (w : W) (chip : Nat) : W :=
  let t := w.seat chip
  if t.st != .live || decide (65536 ≤ t.rwt.length) then w
  else w.each (t.strong.filter fun o => !o.requested) fun w o => w.requestTurn chip o.op

/-- The shooter grants itself a turn of its own: a handoff, a skip or a rebase. -/
def W.ownTurn (w : W) (chip : Nat) (kind : PacketKind) (turn shooter : Nat) (base : Vec17) : W :=
  let t := w.seat chip
  let p : Packet := { kind := kind, seat := t.num, parity := t.parity, view := t.view, turn := turn,
                      dv := vecSet t.applied 16 (turn - t.baseTurn), stamp := 0, shooter := shooter, base := base, tid := t.tid }
  ((w.broadcast chip p).updSeat chip fun t => { t with rack := t.rack ++ [p] }).drainRack chip

/-- A turn request at a shooter: granted, redirected, discarded where it comes from a seat that has left the table, or still in
flight (15 R356, R358, R363, R366). -/
def W.turnRequested (w : W) (chip seat op : Nat) : Option W :=
  let t := w.seat chip
  match w.seatChip t.tid seat with
  | none => some w
  | some from' =>
    if t.st != .live then none
    else if !t.live.contains seat then some w
    else if t.shooter != t.num then some (w.sendMessage chip from' (.redirect seat t.shooter op chip))
    else if t.turnsLeft = 0 || decide (0xBFFFFF < t.nextGrant - t.baseTurn) then none
    else some ((w.sendMessage chip from' (.grant seat t.nextGrant op chip)).updSeat chip fun t =>
      { t with nextGrant := t.nextGrant + 1, turnsLeft := t.turnsLeft - 1, handoffDue := decide (t.turnsLeft = 1) })

/-- A grant reaches the issuer, which broadcasts the strong packet (15 R356). A seat that has departed broadcasts nothing
(21 R452). -/
def W.turnGranted (w : W) (chip turn op : Nat) : W :=
  let t := w.seat chip
  match t.strong.find? fun o => o.op == op with
  | none => w
  | some o =>
    let dv := vecSet t.applied 16 (turn - t.baseTurn)
    let p : Packet := { kind := .strong, seat := t.num, parity := t.parity, view := t.view, turn := turn, dv := dv,
                        stamp := ((vecSum dv % 2 ^ 28 : Nat) : Int), body := o.body, op := op, tid := t.tid }
    let w1 := w.updSeat chip fun t => { t with
      strong := t.strong.map fun o => (if o.op == op then { o with turn := some turn, sent := true } else o)
      rack := t.rack ++ [p] }
    (w1.broadcast chip p).drainRack chip

/-! ## Stability, retirement and the switch (15 R354, R366) -/

/-- The switch to a new base (15 R366). -/
def W.switchBase (w : W) (chip : Nat) : W :=
  let t := w.seat chip
  match t.rebasing with
  | none => w
  | some (b, entry, turn) =>
    if vecGet t.stable 16 < entry then w
    else
      let sum := vecSum b
      let rekey := fun (k : ByteKey) => { k with stamp := k.stamp - (sum : Int), dv := vecSub k.dv b,
                                                 number := if k.strong then k.number else k.number - vecGet b k.seat }
      let w1 := w.updSeat chip fun t => { t with
        applied := vecSub t.applied b
        stable := vecSub t.stable b
        stableAt := vecSub t.stableAt b
        vectors := t.vectors.map fun p => (p.1, vecSub p.2 b)
        rack := t.rack.map fun p => if p.parity == t.parity then p.rebased b (!t.parity) else p
        rwt := t.rwt.map fun p => (p.1, { p.2 with keys := p.2.keys.map fun k => (k.1, rekey k.2),
                                                   mark := p.2.mark.map fun m => vecSub m b })
        baseTurn := t.baseTurn + vecGet b 16
        parity := !t.parity
        rebases := t.rebases + 1
        offset := (upTo 17).map fun i => vecGet t.offset i + vecGet b i
        rebasing := none
        lastBase := b }
      let w2 : W := { w1 with s := { w1.s with groups := AList.mapVal w1.s.groups fun r g =>
        if r.chip == chip then { g with entries := AList.mapVal g.entries fun _ e => match e.wait with
          | some (.tsync v) => { e with wait := some (.tsync (v - vecGet b t.num)) }
          | _ => e } else g } }
      (w2.event chip 0x03 t.ctx 0 (bytesOf 4 t.view ++ bytesOf 8 turn ++ bytesOf 4 sum)).drainRack chip

/-- Whether a seat lags: its recent-write table is 75 % full and its stability vector has not advanced over two exchanges
(15 R365). -/
def Seat.lags (t : Seat) : Bool := decide (49152 ≤ t.rwt.length) && decide (2 ≤ t.stuck)

/-- A seat that does not lag raises LAG at once when it next does (15 R365). -/
def Seat.calm (t : Seat) : Seat := if t.lags then t else { t with lagAt := none }

/-- An exchange has taken place: whether the stability vector has advanced since the last one (15 R354, R365). -/
def Seat.exchanged (t : Seat) : Seat :=
  { t with stuck := if t.stable = t.stableAt then t.stuck + 1 else 0, stableAt := t.stable }.calm

/-- A seat forms its stability vector from the latest vectors of the live seats, retires entries and switches base
(15 R354). -/
def W.restabilise (w : W) (chip : Nat) : W :=
  let t := w.seat chip
  let latest := fun (s : Nat) => if s = t.num then some t.applied else AList.get? t.vectors s
  let vs := t.live.map latest
  if vs.any Option.isNone then w
  else
    let all := vs.filterMap id
    let stable := all.foldl vecMin (all.headD vecZero)
    let own : Vec17 := (upTo 17).map fun i => if t.live.contains i then vecGet ((latest i).getD vecZero) i else 0
    let covered := fun (k : ByteKey) =>
      if k.strong then decide (vecGet k.dv 16 ≤ vecGet stable 16) else decide (vecGet k.dv k.seat ≤ vecGet stable k.seat)
    let step := fun (e : RwtEntry) =>
      match e.mark with
      | some _ => e
      | none => if e.keys.all fun k => covered k.2 then { e with mark := some own } else e
    let done := fun (e : RwtEntry) => match e.mark with
      | some m => (upTo 16).all fun i => decide (vecGet m i ≤ vecGet stable i)
      | none => false
    let w1 := w.updSeat chip fun t => { t with
      stable := stable
      rwt := (t.rwt.filter fun p => !done p.2).map fun p => (p.1, step p.2) }
    (((w1.updSeat chip Seat.calm).switchBase chip).drainRack chip).sendRequests chip

end Sys2Proof.Machine
end

