-- ==== Sys2Proof/Machine/Vector.lean ====
section
/-! DEFINITION. The VR, VU, VS and VI instructions (09 R207 to R219; 02 R48): one meaning each over shared forms. -/
namespace Sys2Proof.Machine

/-! ## Shared forms -/

/-- Every element type (09 R208: All). -/
def anyType (_ : EType) : Bool := true
/-- All types but e4m3 (09 R208). -/
def notE4m3 (t : EType) : Bool := t != .e4m3
/-- i types, f16, bf16 and f32 (09 R208, R213). -/
def signedOrFloat (t : EType) : Bool := isSigned t || isArithFloat t
/-- Types of the float classes (09 R213). -/
def anyFloat (t : EType) : Bool := isArithFloat t || t == .e4m3
/-- Types of 8 and 16 bits (09 R212). -/
def narrowType (t : EType) : Bool := decide (widthOf t ≤ 16)
/-- i8 and e4m3 (02 R48). -/
def dotType (t : EType) : Bool := t == .i8 || t == .e4m3

/-- The checks of an instruction whose vector operands are all of `%mode.E` (09 R207; 02 R27, R53). -/
def vecChk (accept : EType → Bool) (src : List Nat) (d : List Nat) (sr : List Nat) (a : At) : Chk :=
  match a.etype with
  | none => { typ := true }
  | some t =>
    { use := { vr := src.flatMap (regsOf t), vw := d.flatMap (regsOf t), sr := sr }
      reg := is64 t && (src ++ d).any fun n => n % 2 == 1
      typ := !accept t }

/-- The element type at issue; the checks have refused a reserved code. -/
def At.ty (a : At) : EType := a.etype.getD .i32
/-- The source type at issue. -/
def At.xty (a : At) : EType := (etypeOf (modeX a.e.mode)).getD .i32

/-- The source lanes of a lane-wise instruction: its own lane of every vector source (16 R378). -/
def ownLanes (regs : List Nat) (l : Nat) : List (Nat × Nat) := regs.map fun n => (n, l)

/-- Whether the additive rows of 16 R378 apply: E i32 or n32 and SAT = 0. -/
def symMode (a : At) : Bool := (a.ty == .i32 || a.ty == .n32) && !modeSat a.e.mode

/-- SYM plus a PLAIN operand, in either order (16 R378). -/
def symAdd (a : At) (x y : Nat) (rg : Region) (l : Nat) : Option Tag :=
  if !symMode a then none else
  match rg.tag x l, rg.tag y l with
  | some (.sym k c), none => some (.sym k (c + BitVec.ofNat 32 (a.lane y l)))
  | none, some (.sym k c) => some (.sym k (c + BitVec.ofNat 32 (a.lane x l)))
  | _, _ => none

/-- SYM minus a PLAIN operand (16 R378). -/
def symSub (a : At) (x y : Nat) (rg : Region) (l : Nat) : Option Tag :=
  if !symMode a then none else
  match rg.tag x l, rg.tag y l with
  | some (.sym k c), none => some (.sym k (c - BitVec.ofNat 32 (a.lane y l)))
  | _, _ => none

/-- SYM plus a value that is no vector lane (16 R378). -/
def symPlus (a : At) (x : Nat) (value : Word) (rg : Region) (l : Nat) : Option Tag :=
  if !symMode a then none else
  match rg.tag x l with
  | some (.sym k c) => some (.sym k (c + value))
  | _ => none

/-- A lane-wise instruction on vector sources and perhaps a scalar: the common form of 09 R207. -/
def vecOp (i : Instr) (k late : Bool) (accept : EType → Bool) (nk : NumKey) (src : List Nat) (d : Nat) (sr : List Nat)
    (lane : At → EType → Nat → LaneRes) (sym : At → Region → Nat → Option Tag := fun _ _ _ => none) : RegOp :=
  { i := i, k := k, late := late
    chk := vecChk accept src [d] sr
    tagging := fun a => { src := ownLanes (src.flatMap (regsOf a.ty)), sym := sym a }
    key := fun a => some (modeE a.e.mode :: numKeyOf nk a.ty a.e.mode)
    result := fun a =>
      { writes := a.put a.ty a.enabled d (lane a a.ty)
        flags := lanesFlags a.enabled (lane a a.ty) } }

/-- VR: two vector sources (09 R208). -/
def vrOp (i : Instr) (k late : Bool) (accept : EType → Bool) (nk : NumKey) (d a b : Nat)
    (f : EType → NumMode → Nat → Nat → LaneRes) (sym : At → Region → Nat → Option Tag := fun _ _ _ => none) : RegOp :=
  vecOp i k late accept nk [a, b] d [] (fun x t l => f t x.num (x.elem t a l) (x.elem t b l)) sym

/-- A shift by the low 32 bits of the second operand's lane (09 R209). -/
def shiftOp (i : Instr) (k : Bool) (d a b : Nat) (f : EType → Nat → Nat → LaneRes) : RegOp :=
  vecOp i k false isInteger .raw [a, b] d [] (fun x t l => f t (x.elem t a l) (x.lane b l))

/-- VU: one vector source (09 R213). -/
def vuOp (i : Instr) (k late : Bool) (accept : EType → Bool) (nk : NumKey) (d a : Nat)
    (f : EType → NumMode → Nat → LaneRes) : RegOp :=
  vecOp i k late accept nk [a] d [] fun x t l => f t x.num (x.elem t a l)

/-- VU with the destination as third source (09 R213). -/
def vu3Op (i : Instr) (k : Bool) (accept : EType → Bool) (nk : NumKey) (d a b : Nat)
    (f : EType → NumMode → Nat → Nat → Nat → LaneRes) : RegOp :=
  vecOp i k false accept nk [a, b, d] d [] fun x t l => f t x.num (x.elem t a l) (x.elem t b l) (x.elem t d l)

/-- VS: a vector source and a scalar (09 R218). -/
def vsOp (i : Instr) (k : Bool) (accept : EType → Bool) (nk : NumKey) (s d a : Nat)
    (f : EType → NumMode → Nat → Nat → LaneRes) (sym : At → Region → Nat → Option Tag := fun _ _ _ => none) : RegOp :=
  vecOp i k false accept nk [a] d [s] (fun x t l => f t x.num (x.elem t a l) (scalarElem t (x.sval s))) sym

/-- A VS shift, by the scalar's bits [31:0] (09 R218). -/
def vsShiftOp (i : Instr) (k : Bool) (s d a : Nat) (f : EType → Nat → Nat → LaneRes) : RegOp :=
  vecOp i k false isInteger .raw [a] d [s] fun x t l => f t (x.elem t a l) ((x.sval s).toNat % 2 ^ 32)

/-- VI: a vector source and a sign-extended immediate (09 R219). -/
def viOp (i : Instr) (k : Bool) (nk : NumKey) (d a imm : Nat)
    (f : EType → NumMode → Nat → Nat → LaneRes) (sym : At → Region → Nat → Option Tag := fun _ _ _ => none) : RegOp :=
  let o := vecOp i k false isInteger nk [a] d [] (fun x t l => f t x.num (x.elem t a l) (immElem t imm)) sym
  { o with key := fun x => (o.key x).map fun y => imm :: y }

/-- A VI shift, by 0 to 63 (09 R219). -/
def viShiftOp (i : Instr) (k : Bool) (d a n : Nat) (f : EType → Nat → Nat → LaneRes) : RegOp :=
  let o := vecOp i k false isInteger .raw [a] d [] fun x t l => f t (x.elem t a l) n
  { o with key := fun x => (o.key x).map fun y => n :: y }

/-- The numeric key of a conversion from X to E (09 R196; 02 R36, R39, R40). -/
def cvtKey (x t : EType) (m : Word) : List Nat :=
  if isInteger x && isInteger t then [fieldOf m.toNat 16 1] else numAll m

/-! ## VR (09 R208 to R212) -/

/-- vadd: a + b (09 R208). -/
def execVadd (k : Bool) (d a b : BitVec 7)
    (s : State) : Host.Outcome State Fault Refusal :=
  issueReg (vrOp (.vadd k d a b) k false notE4m3 .arith d.toNat a.toNat b.toNat lnAdd
    (fun x => symAdd x a.toNat b.toNat)) s

/-- vsub: a − b (09 R208). -/
def execVsub (k : Bool) (d a b : BitVec 7)
    (s : State) : Host.Outcome State Fault Refusal :=
  issueReg (vrOp (.vsub k d a b) k false notE4m3 .arith d.toNat a.toNat b.toNat lnSub
    (fun x => symSub x a.toNat b.toNat)) s

/-- vmul: a × b (09 R208). -/
def execVmul (k : Bool) (d a b : BitVec 7)
    (s : State) : Host.Outcome State Fault Refusal :=
  issueReg (vrOp (.vmul k d a b) k false notE4m3 .arith d.toNat a.toNat b.toNat lnMul) s

/-- vmulh: the high half of the exact integer product (09 R208). -/
def execVmulh (k : Bool) (d a b : BitVec 7)
    (s : State) : Host.Outcome State Fault Refusal :=
  issueReg (vrOp (.vmulh k d a b) k false isInteger .raw d.toNat a.toNat b.toNat (fun t _ => lnMulh t)) s

/-- vdiv: a ÷ b, V-class (09 R208; 02 R38). -/
def execVdiv (k : Bool) (d a b : BitVec 7)
    (s : State) : Host.Outcome State Fault Refusal :=
  issueReg (vrOp (.vdiv k d a b) k true notE4m3 .arith d.toNat a.toNat b.toNat lnDiv) s

/-- vrem: the integer remainder, V-class (02 R38). -/
def execVrem (k : Bool) (d a b : BitVec 7)
    (s : State) : Host.Outcome State Fault Refusal :=
  issueReg (vrOp (.vrem k d a b) k true isInteger .raw d.toNat a.toNat b.toNat (fun t _ => lnRem t)) s

/-- vmin: the smaller (09 R208; 02 R32). -/
def execVmin (k : Bool) (d a b : BitVec 7)
    (s : State) : Host.Outcome State Fault Refusal :=
  issueReg (vrOp (.vmin k d a b) k false anyType .flush d.toNat a.toNat b.toNat (fun t m => lnMinMax t m false)) s

/-- vmax: the larger (09 R208; 02 R32). -/
def execVmax (k : Bool) (d a b : BitVec 7)
    (s : State) : Host.Outcome State Fault Refusal :=
  issueReg (vrOp (.vmax k d a b) k false anyType .flush d.toNat a.toNat b.toNat (fun t m => lnMinMax t m true)) s

/-- vand (09 R208). -/
def execVand (k : Bool) (d a b : BitVec 7)
    (s : State) : Host.Outcome State Fault Refusal :=
  issueReg (vrOp (.vand k d a b) k false anyType .raw d.toNat a.toNat b.toNat (fun t _ => lnLogic t Nat.land)) s

/-- vor (09 R208). -/
def execVor (k : Bool) (d a b : BitVec 7)
    (s : State) : Host.Outcome State Fault Refusal :=
  issueReg (vrOp (.vor k d a b) k false anyType .raw d.toNat a.toNat b.toNat (fun t _ => lnLogic t Nat.lor)) s

/-- vxor (09 R208). -/
def execVxor (k : Bool) (d a b : BitVec 7)
    (s : State) : Host.Outcome State Fault Refusal :=
  issueReg (vrOp (.vxor k d a b) k false anyType .raw d.toNat a.toNat b.toNat (fun t _ => lnLogic t Nat.xor)) s

/-- vshl: shift left (09 R209). -/
def execVshl (k : Bool) (d a b : BitVec 7)
    (s : State) : Host.Outcome State Fault Refusal :=
  issueReg (shiftOp (.vshl k d a b) k d.toNat a.toNat b.toNat lnShl) s

/-- vshr: logical shift right (09 R209). -/
def execVshr (k : Bool) (d a b : BitVec 7)
    (s : State) : Host.Outcome State Fault Refusal :=
  issueReg (shiftOp (.vshr k d a b) k d.toNat a.toNat b.toNat lnShr) s

/-- vsra: arithmetic shift right (09 R209). -/
def execVsra (k : Bool) (d a b : BitVec 7)
    (s : State) : Host.Outcome State Fault Refusal :=
  issueReg (shiftOp (.vsra k d a b) k d.toNat a.toNat b.toNat lnSra) s

/-- vrot: rotate left (09 R209). -/
def execVrot (k : Bool) (d a b : BitVec 7)
    (s : State) : Host.Outcome State Fault Refusal :=
  issueReg (shiftOp (.vrot k d a b) k d.toNat a.toNat b.toNat lnRot) s

/-- vsel: a where the guard is true and b elsewhere, in every active lane (09 R210). -/
def execVsel (k : Bool) (d a b : BitVec 7) (s : State) : Host.Outcome State Fault Refusal :=
  let lane := fun (x : At) (l : Nat) =>
    plainLane x.ty (x.elem x.ty (if laneAt x.guard l then a.toNat else b.toNat) l)
  let o := vrOp (.vsel k d a b) k false anyType .raw d.toNat a.toNat b.toNat fun t _ p _ => plainLane t p
  issueReg { o with
    written := fun x => x.e.lanes
    key := fun x => some [modeE x.e.mode, x.guard.toNat]
    result := fun x => { writes := x.put x.ty x.e.lanes d.toNat (lane x) } } s

/-- vabsd: |a − b| (09 R208; 02 R37). -/
def execVabsd (k : Bool) (d a b : BitVec 7)
    (s : State) : Host.Outcome State Fault Refusal :=
  issueReg (vrOp (.vabsd k d a b) k false notE4m3 .floatArith d.toNat a.toNat b.toNat lnAbsd) s

/-- vcsgn: the magnitude of a with the sign of b (09 R211). -/
def execVcsgn (k : Bool) (d a b : BitVec 7)
    (s : State) : Host.Outcome State Fault Refusal :=
  issueReg (vrOp (.vcsgn k d a b) k false signedOrFloat .flush d.toNat a.toNat b.toNat lnCsgn) s

/-- vpk: two conversions from X to E packed into the lane (09 R212). -/
def execVpk (k : Bool) (d a b : BitVec 7) (s : State) : Host.Outcome State Fault Refusal :=
  let lane := fun (x : At) (l : Nat) => lnPk x.xty x.ty x.num (x.elem x.xty a.toNat l) (x.elem x.xty b.toNat l)
  let o := vrOp (.vpk k d a b) k false narrowType .arith d.toNat a.toNat b.toNat lnAdd
  issueReg { o with
    chk := fun x =>
      let c := vecChk narrowType [a.toNat, b.toNat] [d.toNat] [] x
      { c with typ := c.typ || (etypeOf (modeX x.e.mode)).isNone || is64 x.xty }
    key := fun x => some (modeE x.e.mode :: modeX x.e.mode :: cvtKey x.xty x.ty x.e.mode)
    result := fun x => { writes := x.put .i32 x.enabled d.toNat (lane x), flags := lanesFlags x.enabled (lane x) } } s

/-! ## VU (09 R213 to R217; 02 R48) -/

/-- vmad: a × b + d with one rounding (09 R213). -/
def execVmad (k : Bool) (d a b : BitVec 7)
    (s : State) : Host.Outcome State Fault Refusal :=
  issueReg (vu3Op (.vmad k d a b) k notE4m3 .arith d.toNat a.toNat b.toNat fun t m => lnMad t m false) s

/-- vmsb: a × b − d with one rounding (09 R213). -/
def execVmsb (k : Bool) (d a b : BitVec 7)
    (s : State) : Host.Outcome State Fault Refusal :=
  issueReg (vu3Op (.vmsb k d a b) k notE4m3 .arith d.toNat a.toNat b.toNat fun t m => lnMad t m true) s

/-- vclmp: Min(Max(d, a), b) (09 R213). -/
def execVclmp (k : Bool) (d a b : BitVec 7)
    (s : State) : Host.Outcome State Fault Refusal :=
  issueReg (vu3Op (.vclmp k d a b) k anyType .flush d.toNat a.toNat b.toNat lnClmp) s

/-- vdot4: the four packed products added onto the 32-bit lane of vd (02 R48). -/
def execVdot4 (k : Bool) (d a b : BitVec 7) (s : State) : Host.Outcome State Fault Refusal :=
  let lane := fun (x : At) (l : Nat) => lnDot4 x.ty x.num (x.lane a.toNat l) (x.lane b.toNat l) (x.lane d.toNat l)
  let o := vu3Op (.vdot4 k d a b) k dotType .arith d.toNat a.toNat b.toNat fun t m => lnDot4 t m
  issueReg { o with
    key := fun x => some (modeE x.e.mode :: (if x.ty == .i8 then [fieldOf x.e.mode.toNat 16 1] else numAll x.e.mode))
    result := fun x => { writes := x.put .i32 x.enabled d.toNat (lane x), flags := lanesFlags x.enabled (lane x) } } s

/-- vmov: a as raw bits (09 R213). -/
def execVmov (k : Bool) (d a : BitVec 7)
    (s : State) : Host.Outcome State Fault Refusal :=
  issueReg (vuOp (.vmov k d a) k false anyType .raw d.toNat a.toNat (fun t _ => plainLane t)) s

/-- vneg: −a (09 R213). -/
def execVneg (k : Bool) (d a : BitVec 7)
    (s : State) : Host.Outcome State Fault Refusal :=
  issueReg (vuOp (.vneg k d a) k false signedOrFloat .negate d.toNat a.toNat lnNeg) s

/-- vabs: |a| (09 R213). -/
def execVabs (k : Bool) (d a : BitVec 7)
    (s : State) : Host.Outcome State Fault Refusal :=
  issueReg (vuOp (.vabs k d a) k false signedOrFloat .negate d.toNat a.toNat lnAbs) s

/-- vnot: not a, raw bits (09 R213). -/
def execVnot (k : Bool) (d a : BitVec 7)
    (s : State) : Host.Outcome State Fault Refusal :=
  issueReg (vuOp (.vnot k d a) k false anyType .raw d.toNat a.toNat (fun t _ => lnNot t)) s

/-- vclz: leading zero bits (09 R213). -/
def execVclz (k : Bool) (d a : BitVec 7)
    (s : State) : Host.Outcome State Fault Refusal :=
  issueReg (vuOp (.vclz k d a) k false anyType .raw d.toNat a.toNat (fun t _ => lnClz t)) s

/-- vpop with two operands: population count (09 R213; 03 R65). -/
def execVpop (k : Bool) (d a : BitVec 7)
    (s : State) : Host.Outcome State Fault Refusal :=
  issueReg (vuOp (.vpop k d a) k false anyType .raw d.toNat a.toNat (fun t _ => lnPop t)) s

/-- vbrev: the bits in reverse order (09 R213). -/
def execVbrev (k : Bool) (d a : BitVec 7)
    (s : State) : Host.Outcome State Fault Refusal :=
  issueReg (vuOp (.vbrev k d a) k false anyType .raw d.toNat a.toNat (fun t _ => lnBrev t)) s

/-- vcvt: from `%mode.X` to `%mode.E` (02 R39, R40). -/
def execVcvt (k : Bool) (d a : BitVec 7) (s : State) : Host.Outcome State Fault Refusal :=
  let lane := fun (x : At) (l : Nat) => lnCvt x.xty x.ty x.num (x.elem x.xty a.toNat l)
  let o := vuOp (.vcvt k d a) k false anyType .arith d.toNat a.toNat fun t m => lnCvt t t m
  issueReg { o with
    chk := fun x =>
      { use := { vr := regsOf x.xty a.toNat, vw := regsOf x.ty d.toNat }
        reg := (is64 x.xty && a.toNat % 2 == 1) || (is64 x.ty && d.toNat % 2 == 1)
        typ := x.etype.isNone || (etypeOf (modeX x.e.mode)).isNone }
    tagging := fun x => { src := ownLanes (regsOf x.xty a.toNat) }
    key := fun x => some (modeE x.e.mode :: modeX x.e.mode :: cvtKey x.xty x.ty x.e.mode)
    result := fun x => { writes := x.put x.ty x.enabled d.toNat (lane x), flags := lanesFlags x.enabled (lane x) } } s

/-- vrcp: 1 ÷ a, correctly rounded, V-class (09 R214). -/
def execVrcp (k : Bool) (d a : BitVec 7)
    (s : State) : Host.Outcome State Fault Refusal :=
  issueReg (vuOp (.vrcp k d a) k true isArithFloat .arith d.toNat a.toNat (lnUnary .rcp)) s

/-- vrsq: 1 ÷ √a, correctly rounded, V-class (09 R214). -/
def execVrsq (k : Bool) (d a : BitVec 7)
    (s : State) : Host.Outcome State Fault Refusal :=
  issueReg (vuOp (.vrsq k d a) k true isArithFloat .arith d.toNat a.toNat (lnUnary .rsq)) s

/-- vsqrt: √a, correctly rounded, V-class (09 R214). -/
def execVsqrt (k : Bool) (d a : BitVec 7)
    (s : State) : Host.Outcome State Fault Refusal :=
  issueReg (vuOp (.vsqrt k d a) k true isArithFloat .arith d.toNat a.toNat (lnUnary .sqrt)) s

/-- vexp2: 2^a, correctly rounded, V-class (09 R214). -/
def execVexp2 (k : Bool) (d a : BitVec 7)
    (s : State) : Host.Outcome State Fault Refusal :=
  issueReg (vuOp (.vexp2 k d a) k true isArithFloat .arith d.toNat a.toNat (lnUnary .exp2)) s

/-- vlog2: log₂ a, correctly rounded, V-class (09 R214). -/
def execVlog2 (k : Bool) (d a : BitVec 7)
    (s : State) : Host.Outcome State Fault Refusal :=
  issueReg (vuOp (.vlog2 k d a) k true isArithFloat .arith d.toNat a.toNat (lnUnary .log2)) s

/-- vsin: sin a, correctly rounded, V-class (09 R214). -/
def execVsin (k : Bool) (d a : BitVec 7)
    (s : State) : Host.Outcome State Fault Refusal :=
  issueReg (vuOp (.vsin k d a) k true isArithFloat .arith d.toNat a.toNat (lnUnary .sin)) s

/-- vcos: cos a, correctly rounded, V-class (09 R214). -/
def execVcos (k : Bool) (d a : BitVec 7)
    (s : State) : Host.Outcome State Fault Refusal :=
  issueReg (vuOp (.vcos k d a) k true isArithFloat .arith d.toNat a.toNat (lnUnary .cos)) s

/-- vfloor: down to an integral value (09 R215). -/
def execVfloor (k : Bool) (d a : BitVec 7)
    (s : State) : Host.Outcome State Fault Refusal :=
  issueReg (vuOp (.vfloor k d a) k false isArithFloat .flush d.toNat a.toNat (lnUnary .floor)) s

/-- vceil: up to an integral value (09 R215). -/
def execVceil (k : Bool) (d a : BitVec 7)
    (s : State) : Host.Outcome State Fault Refusal :=
  issueReg (vuOp (.vceil k d a) k false isArithFloat .flush d.toNat a.toNat (lnUnary .ceil)) s

/-- vtrunc: toward zero to an integral value (09 R215). -/
def execVtrunc (k : Bool) (d a : BitVec 7)
    (s : State) : Host.Outcome State Fault Refusal :=
  issueReg (vuOp (.vtrunc k d a) k false isArithFloat .flush d.toNat a.toNat (lnUnary .trunc)) s

/-- vrint: to an integral value by `%mode.R` (09 R215). -/
def execVrint (k : Bool) (d a : BitVec 7)
    (s : State) : Host.Outcome State Fault Refusal :=
  issueReg (vuOp (.vrint k d a) k false isArithFloat .integral d.toNat a.toNat (lnUnary .rint)) s

/-- vfrac: the fractional part (09 R215). -/
def execVfrac (k : Bool) (d a : BitVec 7)
    (s : State) : Host.Outcome State Fault Refusal :=
  issueReg (vuOp (.vfrac k d a) k false isArithFloat .flush d.toNat a.toNat (lnUnary .frac)) s

/-- vclass: the class mask, written whole into the 32-bit lane (09 R216). -/
def execVclass (k : Bool) (d a : BitVec 7) (s : State) : Host.Outcome State Fault Refusal :=
  let o := vuOp (.vclass k d a) k false anyFloat .raw d.toNat a.toNat fun t _ => lnClass t
  issueReg { o with
    result := fun x => { writes := x.put .n32 x.enabled d.toNat fun l => lnClass x.ty (x.elem x.ty a.toNat l) } } s

/-- vfree: maps vd to the zero register in all 32 lanes (09 R217). -/
def execVfree (k : Bool) (d : BitVec 7) (s : State) : Host.Outcome State Fault Refusal :=
  issueReg
    { i := .vfree k d, k := k
      chk := fun _ => { use := { vw := [d.toNat] } }
      written := fun _ => 0xFFFFFFFF
      result := fun _ => { writes := [.v d.toNat 0] } } s

/-! ## VS (09 R218) -/

/-- vadds: a + x (09 R218). -/
def execVadds (k : Bool) (c : BitVec 8) (d a : BitVec 7)
    (s : State) : Host.Outcome State Fault Refusal :=
  issueReg (vsOp (.vadds k c d a) k notE4m3 .arith c.toNat d.toNat a.toNat lnAdd
    (fun x => symPlus x a.toNat ((x.sval c.toNat).setWidth 32))) s

/-- vsubs: a − x (09 R218). -/
def execVsubs (k : Bool) (c : BitVec 8) (d a : BitVec 7)
    (s : State) : Host.Outcome State Fault Refusal :=
  issueReg (vsOp (.vsubs k c d a) k notE4m3 .arith c.toNat d.toNat a.toNat lnSub) s

/-- vrsubs: x − a (09 R218). -/
def execVrsubs (k : Bool) (c : BitVec 8) (d a : BitVec 7)
    (s : State) : Host.Outcome State Fault Refusal :=
  issueReg (vsOp (.vrsubs k c d a) k notE4m3 .arith c.toNat d.toNat a.toNat (fun t m p q => lnSub t m q p)) s

/-- vmuls: a × x (09 R218). -/
def execVmuls (k : Bool) (c : BitVec 8) (d a : BitVec 7)
    (s : State) : Host.Outcome State Fault Refusal :=
  issueReg (vsOp (.vmuls k c d a) k notE4m3 .arith c.toNat d.toNat a.toNat lnMul) s

/-- vmads: a × x + d (09 R218). -/
def execVmads (k : Bool) (c : BitVec 8) (d a : BitVec 7)
    (s : State) : Host.Outcome State Fault Refusal :=
  issueReg (vecOp (.vmads k c d a) k false notE4m3 .arith [a.toNat, d.toNat] d.toNat [c.toNat]
    fun x t l => lnMad t x.num false (x.elem t a.toNat l) (scalarElem t (x.sval c.toNat)) (x.elem t d.toNat l)) s

/-- vmins: Min(a, x) (09 R218). -/
def execVmins (k : Bool) (c : BitVec 8) (d a : BitVec 7)
    (s : State) : Host.Outcome State Fault Refusal :=
  issueReg (vsOp (.vmins k c d a) k anyType .flush c.toNat d.toNat a.toNat (fun t m => lnMinMax t m false)) s

/-- vmaxs: Max(a, x) (09 R218). -/
def execVmaxs (k : Bool) (c : BitVec 8) (d a : BitVec 7)
    (s : State) : Host.Outcome State Fault Refusal :=
  issueReg (vsOp (.vmaxs k c d a) k anyType .flush c.toNat d.toNat a.toNat (fun t m => lnMinMax t m true)) s

/-- vands (09 R218). -/
def execVands (k : Bool) (c : BitVec 8) (d a : BitVec 7)
    (s : State) : Host.Outcome State Fault Refusal :=
  issueReg (vsOp (.vands k c d a) k anyType .raw c.toNat d.toNat a.toNat (fun t _ => lnLogic t Nat.land)) s

/-- vors (09 R218). -/
def execVors (k : Bool) (c : BitVec 8) (d a : BitVec 7)
    (s : State) : Host.Outcome State Fault Refusal :=
  issueReg (vsOp (.vors k c d a) k anyType .raw c.toNat d.toNat a.toNat (fun t _ => lnLogic t Nat.lor)) s

/-- vxors (09 R218). -/
def execVxors (k : Bool) (c : BitVec 8) (d a : BitVec 7)
    (s : State) : Host.Outcome State Fault Refusal :=
  issueReg (vsOp (.vxors k c d a) k anyType .raw c.toNat d.toNat a.toNat (fun t _ => lnLogic t Nat.xor)) s

/-- vshls: a shift by the scalar's bits [31:0] (09 R218). -/
def execVshls (k : Bool) (c : BitVec 8) (d a : BitVec 7)
    (s : State) : Host.Outcome State Fault Refusal :=
  issueReg (vsShiftOp (.vshls k c d a) k c.toNat d.toNat a.toNat lnShl) s

/-- vshrs: a shift by the scalar's bits [31:0] (09 R218). -/
def execVshrs (k : Bool) (c : BitVec 8) (d a : BitVec 7)
    (s : State) : Host.Outcome State Fault Refusal :=
  issueReg (vsShiftOp (.vshrs k c d a) k c.toNat d.toNat a.toNat lnShr) s

/-- vsras: a shift by the scalar's bits [31:0] (09 R218). -/
def execVsras (k : Bool) (c : BitVec 8) (d a : BitVec 7)
    (s : State) : Host.Outcome State Fault Refusal :=
  issueReg (vsShiftOp (.vsras k c d a) k c.toNat d.toNat a.toNat lnSra) s

/-- vbcs: the scalar in every enabled lane (09 R218). -/
def execVbcs (k : Bool) (c : BitVec 8) (d : BitVec 7)
    (s : State) : Host.Outcome State Fault Refusal :=
  issueReg (vecOp (.vbcs k c d) k false anyType .raw [] d.toNat [c.toNat]
    fun x t _ => plainLane t (scalarElem t (x.sval c.toNat))) s

/-! ## VI (09 R219) -/

/-- vaddi: a + imm (09 R219). -/
def execVaddi (k : Bool) (d a : BitVec 7) (i : BitVec 10)
    (s : State) : Host.Outcome State Fault Refusal :=
  issueReg (viOp (.vaddi k d a i) k .arith d.toNat a.toNat i.toNat lnAdd
    (fun x => symPlus x a.toNat (BitVec.ofNat 32 (immElem .i32 i.toNat)))) s

/-- vmuli: a × imm (09 R219). -/
def execVmuli (k : Bool) (d a : BitVec 7) (i : BitVec 10)
    (s : State) : Host.Outcome State Fault Refusal :=
  issueReg (viOp (.vmuli k d a i) k .arith d.toNat a.toNat i.toNat lnMul) s

/-- vandi (09 R219). -/
def execVandi (k : Bool) (d a : BitVec 7) (i : BitVec 10)
    (s : State) : Host.Outcome State Fault Refusal :=
  issueReg (viOp (.vandi k d a i) k .raw d.toNat a.toNat i.toNat (fun t _ => lnLogic t Nat.land)) s

/-- vori (09 R219). -/
def execVori (k : Bool) (d a : BitVec 7) (i : BitVec 10)
    (s : State) : Host.Outcome State Fault Refusal :=
  issueReg (viOp (.vori k d a i) k .raw d.toNat a.toNat i.toNat (fun t _ => lnLogic t Nat.lor)) s

/-- vxori (09 R219). -/
def execVxori (k : Bool) (d a : BitVec 7) (i : BitVec 10)
    (s : State) : Host.Outcome State Fault Refusal :=
  issueReg (viOp (.vxori k d a i) k .raw d.toNat a.toNat i.toNat (fun t _ => lnLogic t Nat.xor)) s

/-- vshli: a shift by 0 to 63 (09 R219; 03 R61). -/
def execVshli (k : Bool) (d a : BitVec 7) (i : BitVec 6)
    (s : State) : Host.Outcome State Fault Refusal :=
  issueReg (viShiftOp (.vshli k d a i) k d.toNat a.toNat i.toNat lnShl) s

/-- vshri: a shift by 0 to 63 (09 R219; 03 R61). -/
def execVshri (k : Bool) (d a : BitVec 7) (i : BitVec 6)
    (s : State) : Host.Outcome State Fault Refusal :=
  issueReg (viShiftOp (.vshri k d a i) k d.toNat a.toNat i.toNat lnShr) s

/-- vsrai: a shift by 0 to 63 (09 R219; 03 R61). -/
def execVsrai (k : Bool) (d a : BitVec 7) (i : BitVec 6)
    (s : State) : Host.Outcome State Fault Refusal :=
  issueReg (viShiftOp (.vsrai k d a i) k d.toNat a.toNat i.toNat lnSra) s

end Sys2Proof.Machine
end

