-- ==== Sys2Proof/Machine/Access.lean ====
section
/-! DEFINITION. How a group's memory operations are performed: in program order where they overlap, stores within 4 µs,
releases and acquires, watchpoints, and the accesses of an atomic region (03 R56; 14 R307 to R316, R324 to R327; 16 R375,
R376; 18 R417; 19 R430). -/
namespace Sys2Proof.Machine

/-! ## What an operation touches -/

/-- The bytes an operation touches: first cell and length of each access. -/
def GroupOp.cells (o : GroupOp) : List (Nat × Nat) :=
  match o.kind with
  | .load _ _ accs => accs.map fun c => (c.key, c.width)
  | .sload _ c => [(c.key, c.width)]
  | .pop _ accs => accs.map fun c => (c.key, c.width)
  | .atomic _ _ _ xs => xs.map fun x => (x.1.key, x.1.width)
  | .satomic _ c _ => [(c.key, c.width)]
  | .store xs => xs.map fun x => (x.1.key, x.1.width)
  | .publish _ _ accs => accs.map fun c => (c.key, c.width)
  | _ => []

/-- Whether two runs of cells share one. -/
def overlap (x y : Nat × Nat) : Bool := decide (x.1 < y.1 + y.2 ∧ y.1 < x.1 + x.2)
/-- Whether any of some runs meets any of others. -/
def overlapAny (xs ys : List (Nat × Nat)) : Bool := xs.any fun x => ys.any (overlap x)

/-- The older operations that must be performed before bytes are touched, oldest first; the list comes newest first
(14 R308). -/
def olderNeeded : List GroupOp → List (Nat × Nat) → List GroupOp
  | [], _ => []
  | o :: r, cs => if overlapAny o.cells cs then olderNeeded r (cs ++ o.cells) ++ [o] else olderNeeded r cs

/-! ## Performing one operation -/

/-- Why an access cannot be made: the detail of its POISON, byte poison or a fenced destination (14 R326; 18 R417). -/
def W.accBad (w : W) (r : GroupRef) (c : Acc) : Option Nat :=
  if w.reach r.chip c.path = .fenced then some (0xC0 + c.lane)
  else if w.accPoisoned c then some (0x80 + c.lane) else none

/-- One load access: the value, or a free value where it meets poison (14 R310, R326). -/
def W.readLane (w : W) (r : GroupRef) (ctx : Nat) (c : Acc) : W × Nat :=
  match w.accBad r c with
  | some d => let (n, w1) := (w.noteLate r d c.va).draw
              (w1, n % 2 ^ (8 * c.width))
  | none => (w.fill r ctx c).racedValue r c

/-- Load accesses in order: lane and value. -/
def W.readLanes (w : W) (r : GroupRef) (ctx : Nat) : List Acc → W × List (Nat × Nat)
  | [] => (w, [])
  | c :: cs =>
    let (w1, v) := w.readLane r ctx c
    let (w2, vs) := w1.readLanes r ctx cs
    (w2, (c.lane, v) :: vs)

/-- One application of an atomic at its home (14 R311, R329): the old value. -/
def W.atomicLane (w : W) (r : GroupRef) (op : AtomicOp) (t : EType) (c : Acc) (x expected : Nat) : W × Nat :=
  match w.accBad r c with
  | some d => let (n, w1) := (w.noteLate r d c.va).draw
              (w1, n % 2 ^ (8 * c.width))
  | none =>
    let old := w.homeValue c.key c.width
    let w1 := w.raceRecords (((w.group r).map Group.ctx).getD 0) (cellsOf c.key (bytesOf c.width old))
    (w1.writeCells (cellsOf c.key (bytesOf c.width (atomicNew op t old x expected))), old)

/-- The lanes of an atomic, ascending (14 R329). -/
def W.atomicLanes (w : W) (r : GroupRef) (op : AtomicOp) (t : EType) : List (Acc × Nat × Nat) → W × List (Nat × Nat)
  | [] => (w, [])
  | x :: xs =>
    let (w1, v) := w.atomicLane r op t x.1 x.2.1 x.2.2
    let (w2, vs) := w1.atomicLanes r op t xs
    (w2, (x.1.lane, v) :: vs)

/-- The old values of an atomic once every line it names is free at its home; the chip's own copies of them are checked in
first (14 R311, R319, R322; DEDUCED, log 21). -/
def W.runAtomic (w : W) (r : GroupRef) (op : AtomicOp) (t : EType) (xs : List (Acc × Nat × Nat)) :
    Bool × W × List (Nat × Nat) :=
  let w1 := w.each ((xs.map fun x => lineOf x.1.key).eraseDups) fun w l => w.checkInLine (w.ownerOf r) r.chip l
  match w1.claim (xs.map fun x => x.1.key) with
  | (w2, true) =>
    let (w3, vs) := w2.atomicLanes r op t xs
    (true, w3, vs)
  | (w2, false) => (false, w2, [])

/-- A store of a group reaches its place, past the races with its copies (13 R288; 14 R319). -/
def W.placeStore (w : W) (r : GroupRef) (ctx : Nat) (acc : Acc) (value : Nat) : W :=
  let (w1, bs) := w.raceStore r (cellsOf acc.key (bytesOf acc.width value))
  let w2 := w1.raceRecords ctx ((upTo acc.width).map fun i => (acc.key + i, w.loadByte r (acc.key + i)))
  w2.placeBytes r.chip (w.ownerOf r) ctx acc bs

/-- Whether every access of an operation can leave the chip now: no destination holds it (18 R417). -/
def W.notHeld (w : W) (r : GroupRef) (cs : List Acc) : Bool := cs.all fun c => w.reach r.chip c.path != .held

/-- The cells at both ends of each access, which name its lines. -/
def endCells (cs : List Acc) : List Nat := cs.flatMap fun c => [c.key, c.key + c.width - 1]

/-- The lines some accesses cover. -/
def linesOf (cs : List Acc) : List Nat := ((endCells cs).map lineOf).eraseDups

/-- Writes an operation's results and flags, enters them in the reuse table where the operation has a key, and removes it
(03 R56; 02 R42; 09 R198). -/
def W.retireOp (w : W) (r : GroupRef) (o : GroupOp) (ws : List RegWrite) (lines : List Nat) : W :=
  match w.group r with
  | none => w
  | some g =>
    let w1 := (w.each ws fun w x => w.writeReg r x).orFlags r o.flags
    let w2 := match o.key with
      | some k => if (g.late.isSome && !lines.isEmpty) then w1 else w1.reuseRecord r k ws o.flags lines
      | none => w1
    w2.updGroup r fun g => { g with
      ops := g.ops.filter fun x => x.id != o.id
      late := g.late.map fun f => { f with place := f.place.or (some o.place) } }

/-- Whether an operation is one that a release waits for: it touches memory, or publishes a replicated store (14 R324; 15
R348). -/
def GroupOp.performs (o : GroupOp) : Bool :=
  match o.kind with
  | .publish _ _ _ => true
  | _ => !o.cells.isEmpty

/-- Whether a write of a group still waits at a home (14 R319, R324). -/
def W.ownWaiting (w : W) (r : GroupRef) : Bool := w.s.waiting.any fun h => (w.ownerOf r).any h.owners.contains

/-- A release at a scope, every earlier access of the group having been made: its check-ins, its flush markers, and the wait for
its lines to be visible; whether it has performed (14 R324). -/
def W.showAll (w : W) (r : GroupRef) (scope : Nat) : Bool × W :=
  match w.group r with
  | none => (true, w)
  | some g =>
    match g.releasing with
    | some x =>
      let w1 := w.each x.lines fun w l => w.checkInLine (w.ownerOf r) r.chip l
      let left := x.lines.filter fun l => w1.s.directory.any fun c => c.writer == r.chip && c.ctx == g.ctx && c.line == l
      if x.waiting.isEmpty && left.isEmpty && !w1.ownWaiting r then (true, w1.updGroup r fun g => { g with releasing := none })
      else (false, w1.updGroup r fun g => { g with releasing := some { x with lines := left } })
    | none =>
      let out := fun (w : W) => if 4 ≤ scope then w.s.directory.filter fun c => c.writer == r.chip && c.ctx == g.ctx else []
      let w2 := if 4 ≤ scope then w.checkInAll (w.ownerOf r) r.chip g.ctx else w
      let dest := if 3 ≤ scope then (g.wrote ++ (out w).map fun c => homeOf (c.line * 128)).eraseDups else []
      let left := (out w2).map CheckOut.line
      if dest.isEmpty && left.isEmpty && !w2.ownWaiting r then (true, w2)
      else (false, w2.updGroup r fun g =>
        { g with releasing := some { waiting := dest, lines := left }, wrote := if 3 ≤ scope then [] else g.wrote })

/-- Sends a packet of a seat's outbox, in the view and base in force (15 R348, R349, R366). -/
def W.publish (w : W) (chip n : Nat) : W :=
  let t := w.seat chip
  match AList.get? t.outbox n with
  | none => w
  | some p =>
    let q := if p.parity != t.parity && !t.lastBase.isEmpty then p.rebased t.lastBase t.parity else p
    (w.updSeat chip fun t => { t with outbox := AList.del t.outbox n }).sendWeak chip { q with view := t.view }

/-- Performs one operation: whether it could be, and the machine after. -/
def W.doOp (w : W) (r : GroupRef) (o : GroupOp) : Bool × W :=
  match w.group r with
  | none => (true, w)
  | some g =>
    match o.kind with
    | .value ws => (true, w.retireOp r o ws [])
    | .load t vd cs =>
      if !w.notHeld r cs then (false, w) else
      let (w1, vs) := w.readLanes r g.ctx cs
      (true, w1.retireOp r o (strongWrites (.vector vd t) g vs) (linesOf cs))
    | .sload sd c =>
      if !w.notHeld r [c] then (false, w) else
      let (w1, vs) := w.readLanes r g.ctx [c]
      (true, w1.retireOp r o (strongWrites (.scalar sd) g vs) (linesOf [c]))
    | .pop vd cs =>
      if !w.notHeld r cs then (false, w) else
      let (w1, vs) := w.readLanes r g.ctx cs
      (true, w1.retireOp r o (strongWrites (.vector vd 4) g vs) [])
    | .atomic op t vd xs =>
      if !w.notHeld r (xs.map Prod.fst) then (false, w) else
      let (ok, w1, vs) := w.runAtomic r op ((etypeOf t).getD .i32) xs
      if ok then (true, w1.retireOp r o (strongWrites (.vector vd t) g vs) []) else (false, w1)
    | .satomic sd c x =>
      if !w.notHeld r [c] then (false, w) else
      let (ok, w1, vs) := w.runAtomic r .add .i64 [(c, x, 0)]
      if ok then (true, w1.retireOp r o (strongWrites (.scalar sd) g vs) []) else (false, w1)
    | .store xs =>
      if !w.notHeld r (xs.map Prod.fst) then (false, w) else
      let w1 := w.each xs fun w x => if w.reach r.chip x.1.path = .fenced then w else w.placeStore r g.ctx x.1 x.2
      (true, w1.retireOp r o [] [])
    | .publish n scope _ =>
      if g.ops.any fun x => decide (x.id < o.id) && x.performs then (false, w)
      else match w.showAll r scope with
        | (true, w1) => (true, (w1.publish r.chip n).retireOp r o [] [])
        | x => x
    | .external _ _ => (false, w)

/-- Performs operations in order, up to the first that cannot be. -/
def W.doOps (w : W) (r : GroupRef) : List GroupOp → Bool × W
  | [] => (true, w)
  | o :: os =>
    match w.doOp r o with
    | (true, w1) => w1.doOps r os
    | (false, w1) => (false, w1)

/-- Performs the operations of a group that touch some bytes, as a younger access to them asks (14 R308). -/
def W.performCells (w : W) (r : GroupRef) (cs : List (Nat × Nat)) : Bool × W :=
  match w.group r with
  | none => (true, w)
  | some g => w.doOps r (olderNeeded g.ops.reverse cs)

/-- Performs a pending operation of a group after the older ones whose bytes it meets. -/
def W.performOp (w : W) (r : GroupRef) (id : Nat) : Bool × W :=
  match w.group r with
  | none => (false, w)
  | some g =>
    match g.ops.find? fun o => o.id == id with
    | none => (false, w)
    | some o =>
      let older := g.ops.filter fun x => decide (x.id < id)
      w.doOps r ((match o.kind with
        | .publish _ _ _ => older.filter GroupOp.performs
        | _ => olderNeeded older.reverse o.cells) ++ [o])

/-- Performs every memory operation of a group, oldest first. -/
def W.flushOps (w : W) (r : GroupRef) : Bool × W :=
  match w.group r with
  | none => (true, w)
  | some g => w.doOps r (g.ops.filter GroupOp.performs)

/-- RESULT_WRITEBACK and STORE_PERFORM: an operation is performed, and what waited for it goes on (03 R55, R56; 14 R313). -/
def W.writeBack (w : W) (r : GroupRef) (id : Nat) (isV : Bool) : W :=
  match w.group r with
  | none => w
  | some g =>
    if g.ops.any fun o => o.id == id && o.isV == isV then
      let (_, w1) := w.performOp r id
      w1.settle r
    else w

/-! ## Releases and the order of an access (14 R307, R324) -/

/-- Whether an operation's result comes from another unit (14 R338; 15 R356). -/
def GroupOp.elsewhere (o : GroupOp) : Bool :=
  match o.kind with
  | .external _ _ => true
  | _ => false

/-- A release at a scope: whether it has performed, and the machine after this attempt (14 R324). -/
def W.release (w : W) (r : GroupRef) (scope : Nat) : Bool × W :=
  if scope = 0 then (true, w) else
  match w.flushOps r with
  | (true, w1) =>
    if ((w1.group r).map Group.ops).any fun ops => ops.any GroupOp.elsewhere then (false, w1) else w1.showAll r scope
  | x => x

/-- Whether no later access may go before something of the group: a result that is an acquire has not come back, or a release
has not performed (14 R307, R324; 15 R348, R357). -/
def At.awaits (a : At) : Bool := a.g.ops.any fun o => match o.kind with
  | .external _ _ => o.acquire
  | .publish _ _ _ => true
  | _ => false

/-- An instruction that writes memory issues: the load entries of the group's context that it meets on the core go in this
cycle (09 R199). -/
def W.issueWrite (w : W) (a : At) (cs : List Acc) : W := w.storeLoads (coreKey a.r) (some a.g.ctx) (endCells cs)

/-- An access between its release and its acquire (14 R327). -/
def W.ordered (w : W) (a : At) (rel acq : Bool) (scope : Nat) (effect : W → Bool × W) : Did :=
  if a.awaits then .stall w .memOrder else
  match (if rel then w.release a.r scope else (true, w)) with
  | (false, w1) => .stall w1 .memOrder
  | (true, w1) =>
    match effect w1 with
    | (false, w2) => .stall w2 .memOrder
    | (true, w2) => .next (if acq then w2.acquire a.r a.g.ctx scope else w2) a

/-- `%mode.O` and the scope of a form's release and acquire; strong is acqrel at sys (14 R307; 15 R357). -/
def isAcq (o : Nat) : Bool := o == 1 || o == 3 || o == 4
/-- Whether an ordering releases (14 R307). -/
def isRel (o : Nat) : Bool := o == 2 || o == 3 || o == 4
/-- The scope of an ordering (14 R307). -/
def scopeOf (m : Word) : Nat := if modeO m = 4 then 5 else modeSC m
/-- CheckOrder of 14 R307. -/
def orderDetail (accept : List Nat) (a : At) : Option Nat := if accept.contains (modeO a.e.mode) then none else some 1

/-! ## Watchpoints (19 R429, R430) -/

/-- The lanes of some accesses that meet a watchpoint. -/
def watchLanes (p : Watchpoint) (cs : List Acc) : LaneMask :=
  let len := 2 ^ fieldOf p.mode.toNat 0 5
  let tag := p.addr.toNat / 2 ^ 60
  let hit := (cs.filter fun c => c.va.toNat / 2 ^ 60 == tag &&
    overlap (c.va.toNat % 2 ^ 60, c.width) (p.addr.toNat % 2 ^ 60, len)).map Acc.lane
  maskOf fun l => hit.contains l

/-- The watchpoints that hit: number, ACT and lanes. -/
def W.watchHits (w : W) (a : At) (rd wr : Bool) (cs : List Acc) : List (Nat × Nat × LaneMask) :=
  let ws := (w.probe a.r.chip a.g.ctx).watch
  if ws.isEmpty || a.e.unchecked then []
  else (upTo 4).filterMap fun n =>
    match AList.get? ws n with
    | none => none
    | some p =>
      let m := p.mode.toNat
      let len := fieldOf m 0 5
      let mask := watchLanes p cs
      if bitOf m 15 && fieldOf m 13 2 != 3 && decide (len ≤ 16) && p.addr.toNat % 2 ^ len == 0 &&
          ((bitOf m 12 && rd) || (bitOf m 11 && wr)) && mask != 0 then some (n, fieldOf m 13 2, mask) else none

/-- The WATCH records and trigger firings of hits. -/
def W.noteWatch (w : W) (a : At) (hs : List (Nat × Nat × LaneMask)) : W :=
  w.each hs fun w h =>
    (w.trace a.r a.g.ctx 4 a.ei h.1 a.e.pc.toNat a.e.lanes.toNat h.2.2.toNat).fireTrigger a.r.chip a.g.ctx 2 h.1

/-- An instruction's accesses past their watchpoints: a fault, or the rest with its records. -/
def W.watched (w : W) (a : At) (rd wr : Bool) (cs : List Acc) (k : W → Did) : Did :=
  let hs := w.watchHits a rd wr cs
  match hs.find? fun h => h.2.1 == 0 with
  | some h => .refuse (w.noteWatch a hs)
      { code := fcWATCH, detail := (lowestLane h.2.2).getD 0, tval := some (BitVec.ofNat 64 (h.2.2.toNat + h.1 * 2 ^ 32)) }
  | none =>
    match k w with
    | .done w1 pc reused => .done (w1.noteWatch a hs) pc reused
    | x => x

/-- An instruction's accesses past the state of the links: a fenced destination is POISON, a held one a stall. A store that has
stalled so goes on without a fault, and discards what a fence cuts off (18 R417). -/
def W.linked (w : W) (a : At) (store : Bool) (cs : List Acc) (k : W → Did) : Did :=
  match (if store && a.e.linkWait then none else cs.find? fun c => w.reach a.r.chip c.path == .fenced) with
  | some c => .refuse w { code := fcPOISON, detail := 0xC0 + c.lane, tval := some c.va }
  | none =>
    if w.notHeld a.r cs then k w
    else .stall (w.updEntry a.r a.ei fun e => { e with linkWait := true }) .memTranslation

/-! ## Accesses of an atomic region (16 R375, R376) -/

/-- The home of a region's access: a chip, or none for the table; nothing for a window or page kind not allowed
(16 R375). -/
def W.regionHome (w : W) (a : At) (c : Acc) : Option (Option Nat) :=
  let peer := match w.groupLookup a (c.va.toNat % 2 ^ 56) with
    | some (.leaf e _ _) => leafKind e == 4
    | _ => false
  match c.path with
  | .home h _ _ => if peer then none else some (some h)
  | .replica _ => some none
  | .scratch => some (some a.r.chip)
  | _ => none

/-- The record's answer to a load of some bytes: the latest store of exactly those bytes, nothing where none meets them, or
a partial overlap (16 R376). -/
inductive Answer
  | memory
  | stored (x : RegionStore)
  | partly

/-- Looks a load up in the record (16 R376). -/
def Region.answer (rg : Region) (c : Acc) : Answer :=
  let same := fun (s : RegionStore) => s.acc.key == c.key && s.acc.width == c.width
  let meets := rg.stores.filter fun s => overlap (s.acc.key, s.acc.width) (c.key, c.width)
  if meets.any fun s => !same s then .partly
  else match meets.getLast? with
    | some s => .stored s
    | none => .memory

/-- The checks of a region's accesses, in lane order: REGION with details 9, 8 and 10 (16 R375, R376). -/
def W.regionFault (w : W) (a : At) (rg : Region) (isLoad : Bool) : List Acc → Option (Option Nat) → Option Flt
  | [], _ => none
  | c :: cs, home =>
    let flt := fun (d : Nat) => some { code := fcREGION, detail := d, tval := some c.va }
    match w.regionHome a c with
    | none => flt 9
    | some h =>
      if home.isSome && home != some h then flt 8
      else
        match (if isLoad then rg.answer c else .memory) with
        | .partly => flt 10
        | _ => w.regionFault a rg isLoad cs (some h)

/-- Fixes a region's home by its first access (16 R375). -/
def W.fixHome (w : W) (a : At) (cs : List Acc) : W :=
  match cs.head? with
  | none => w
  | some c => w.updRegion a.r fun rg => { rg with home := rg.home.or (w.regionHome a c) }

/-- The value a stored datum gives a later load of the region (16 R376). -/
def StoreData.held : StoreData → Nat
  | .plain v => v
  | .sym _ _ _ v => v
  | .deps _ v => v

/-- The tag a stored datum gives a lane that loads it: a SYM of another lane, or of fewer than 4 bytes, is OPAQUE
(16 R376 to R378; DEDUCED, log 22). -/
def StoreData.tagFor (l width : Nat) : StoreData → Option Tag
  | .plain _ => none
  | .sym m k c _ => if m = l ∧ width = 4 then some (.sym k c) else some (.deps [(m, k)])
  | .deps s _ => depsTag s

/-- A region's load of one lane: the value, the tag and the record (16 R376, R378). -/
def W.regionLoad (w : W) (a : At) (t : EType) (c : Acc) : W × Nat × Option Tag :=
  match (w.group a.r).bind Group.region with
  | none => (w, 0, none)
  | some rg =>
    match rg.answer c with
    | .stored s => (w, s.data.held, s.data.tagFor c.lane c.width)
    | _ =>
      let k := AList.getD rg.loadCount c.lane 0
      let (w1, v) := w.readLane a.r a.g.ctx c
      let w2 := w1.updRegion a.r fun rg =>
        { rg with loads := rg.loads ++ [{ lane := c.lane, k := k, acc := c, old := v, etype := modeE a.e.mode }] }
      (w2, v, if t = .i32 ∨ t = .n32 then some (.sym k 0) else some (.deps [(c.lane, k)]))

/-- A region's loads, lanes ascending: lane, value and tag. -/
def W.regionLoads (w : W) (a : At) (t : EType) : List Acc → W × List (Nat × Nat × Option Tag)
  | [] => (w, [])
  | c :: cs =>
    let (w1, v, g) := w.regionLoad a t c
    let (w2, vs) := w1.regionLoads a t cs
    (w2, (c.lane, v, g) :: vs)

/-- The datum of a region's vector store (16 R380). -/
def Region.datum (rg : Region) (regs : List Nat) (l width value : Nat) : StoreData :=
  match regs with
  | [n] => match rg.tag n l with
    | none => .plain value
    | some (.sym k c) => .sym l k c (value % 2 ^ (8 * width))
    | some (.deps s) => .deps s value
  | _ => let refs := rg.refs (regs.map fun n => (n, l))
         if refs.isEmpty then .plain value else .deps refs value

/-- Records a region's stores (16 R380). -/
def Region.store (rg : Region) (xs : List (Acc × StoreData)) : Region :=
  xs.foldl (fun rg x =>
    let rg1 := { rg with stores := rg.stores ++ [{ acc := x.1, data := x.2 }] }
    match x.2 with
    | .deps s _ => rg1.addFragile s
    | _ => rg1) rg

/-! ## The forwarding table (14 R316) -/

/-- Whether an access goes through the forwarding table: windows 0x2 and 0x3. -/
def Acc.forwarded (c : Acc) : Bool :=
  match c.path with
  | .scratch | .stack => true
  | _ => false

/-- Stores in the table of a sub-datapath: pending store instructions of its groups to windows 0x2 and 0x3. -/
def W.forwarding (w : W) (r : GroupRef) : Nat :=
  ((w.s.groups.filter fun g => coreKey g.1 == coreKey r && g.1.slot % 4 == r.slot % 4).map fun g =>
    (g.2.ops.filter fun o => match o.kind with
      | .store xs => xs.any fun x => x.1.forwarded
      | _ => false).length).foldl (· + ·) 0

/-- A store instruction's place in the queue: a full table stalls it. -/
def W.queueStore (w : W) (a : At) (xs : List (Acc × Nat)) (k : W → Did) : Did :=
  if (xs.any fun x => x.1.forwarded) && decide (16 ≤ w.forwarding a.r) then .stall w .memQueue
  else k w

end Sys2Proof.Machine
end

