-- ==== Sys2Proof/Machine/Loads.lean ====
section
/-! DEFINITION. The memory instructions: loads, stores, the prefetch hint, atomics, the spill stack, the scalar forms and
`fence` (14 R327 to R333; 15 R348, R357; 16 R374 to R380). -/
namespace Sys2Proof.Machine

/-! ## Shared parts -/

/-- The address of a lane (14 R327). -/
def At.vaddr (a : At) (s o l : Nat) : DWord := a.sval s + (laneOf (a.g.vget o) l).signExtend 64
/-- Lane, width and address of every enabled lane. -/
def At.laneAddrs (a : At) (s o : Nat) : List (Nat × Nat × DWord) :=
  (lanesIn a.enabled).map fun l => (l, widthOf a.ty / 8, a.vaddr s o l)

/-- The checks of a vector memory form: the data or destination register of `%mode.E`, one offset register, the base, and
the ordering (14 R307, R327). -/
def memChk (accept : EType → Bool) (order : List Nat) (s v o : Nat) (reads writes : Bool) (a : At) : Chk :=
  let c := vecChk accept (if reads then [v] else []) (if writes then [v] else []) [s] a
  { c with use := { c.use with vr := c.use.vr ++ [o] }, modeval := orderDetail order a }

/-- Whether `%mode.O` is plain, as a region asks (16 R374). -/
def plainOrder (a : At) : Bool := modeO a.e.mode == 0
/-- A form that no region allows (16 R374). -/
def outside (_ : At) : RegionUse := { allowed := false }

/-- The replicated accesses of some: seat offset and access. -/
def replicas (cs : List Acc) : List (Nat × Acc) :=
  cs.filterMap fun c => match c.path with
    | .replica o => some (o, c)
    | _ => none

/-- Puts an operation in the group's queue, or performs it at once where its ordering is an acquire (14 R327). -/
def W.issueOp (w : W) (a : At) (kind : OpKind) (isV now : Bool) (key : Option (List Nat × List VReg)) : Bool × W :=
  if now then
    match w.group a.r with
    | none => (true, w)
    | some g =>
      let o : GroupOp := { id := g.nextOp, kind := kind, isV := isV, issued := w.s.now, key := key, place := g.regionPlace }
      w.doOps a.r (olderNeeded g.ops.reverse o.cells ++ [o])
  else (true, w.pushOp a.r kind 0 isV key false)

/-- The reuse key of a load, where R199 of 09 lets it have one: plain, every address in window 0x0 and in a page whose cache
level includes L1. -/
def loadKey (i : Instr) (c : Chk) (accs : List Acc) (a : At) : Option (List Nat × List VReg) :=
  let named := c.keyed a.enabled a.enabled
  if modeNR a.e.mode || a.g.region.isSome || !plainOrder a || !a.g.allNamed named ||
      !(accs.all fun x => x.l1 && x.va.toNat / 2 ^ 60 == 0) then none
  else some (reuseKey a c a.enabled (keyWord i) [modeE a.e.mode], named.map a.g.vget)

/-- The destinations of a load. -/
def OpKind.dests : OpKind → List RegWrite
  | .load t vd _ => (regsOf ((etypeOf t).getD .i32) vd).map fun n => .v n 0
  | .sload sd _ => [.s sd 0]
  | _ => []

/-- A load outside a region: looked up in the reuse table where it may be; a hit writes the recorded result and reads nothing,
a miss goes into the queue (09 R198, R199). -/
def W.plainLoad (w : W) (a : At) (i : Instr) (c : Chk) (accs : List Acc) (kind : OpKind) : Did :=
  w.linked a false accs fun w => w.watched a true false accs fun w =>
    let key := loadKey i c accs a
    let acq := isAcq (modeO a.e.mode)
    match w.reuseTry a key with
    | (some e, w1) =>
      match w1.ordered a false false 0 fun w =>
          (true, w.pushOp a.r (.value (retarget kind.dests e.result)) e.flags true none false) with
      | .done w2 pc _ => .done w2 pc true
      | x => x
    | (none, w1) => w1.ordered a false acq (scopeOf a.e.mode) fun w => w.issueOp a kind true acq key

/-- The path of a write that becomes visible to every party at once, as a release at chp scope or wider does: it is made at the
home (14 R312). -/
def Path.atHome : Path → Path
  | .home h s _ => .home h s true
  | p => p

/-- A store to the replicated region with O = rel: steps 1 and 2 at once, the packet and the store's other bytes once the
release has performed (15 R348). -/
def W.heldStore (w : W) (a : At) (scope : Nat) (bs : List (Nat × Byte)) (rest : List Acc) : W :=
  let (p, w1) := w.numberStore a.r bs
  let (n, w2) := w1.fresh
  (w2.updSeat a.r.chip fun t => { t with outbox := AList.put t.outbox n p }).pushOp a.r (.publish n scope rest) 0 false none false

/-- A store outside a region: replicated bytes go to the seat as one update, the others into the queue (14 R328;
15 R348). -/
def W.plainStore (w : W) (a : At) (xs : List (Acc × Nat)) : Did :=
  let accs := xs.map Prod.fst
  w.linked a true accs fun w => w.watched a false true accs fun w => w.queueStore a xs fun w =>
    let bytes := xs.flatMap fun x => match x.1.path with
      | .replica o => cellsOf o (bytesOf x.1.width x.2)
      | _ => []
    let rest := xs.filter fun x => match x.1.path with
      | .replica _ => false
      | _ => true
    let rel := isRel (modeO a.e.mode)
    let scope := scopeOf a.e.mode
    if !bytes.isEmpty && (w.seat a.r.chip).storeStalls (bytes.map Prod.fst) then .stall w .memQueue else
    w.ordered a (rel && bytes.isEmpty) false scope fun w =>
      match w.performCells a.r ((replicas accs).map fun x => (x.2.key, x.2.width)) with
      | (false, w1) => (false, w1)
      | (true, w1) =>
        let w2 := if bytes.isEmpty then w1 else if rel then w1.heldStore a scope bytes (rest.map Prod.fst)
                  else w1.weakStore a.r bytes
        let w3 := w2.issueWrite a accs
        let atHome := rel && decide (3 ≤ scope)
        let xs := rest.map fun x => ({ x.1 with path := if atHome then x.1.path.atHome else x.1.path }, x.2)
        if rest.isEmpty then (true, w3) else w3.issueOp a (.store xs) false false none

/-- The part of a region access that loads and stores share: the region's checks, the links and the watchpoints, and the
group's own earlier stores to the bytes (16 R375, R376). -/
def W.inRegion (w : W) (a : At) (rg : Region) (isLoad : Bool) (accs : List Acc) (k : W → Did) : Did :=
  match w.regionFault a rg isLoad accs rg.home with
  | some f => .refuse w f
  | none => w.linked a (!isLoad) accs fun w => w.watched a isLoad (!isLoad) accs fun w =>
    match (if isLoad then w.performCells a.r (accs.map fun c => (c.key, c.width)) else (true, w)) with
    | (false, w1) => .stall w1 .memOrder
    | (true, w1) => k (w1.fixHome a accs)

/-! ## vld, vst, prf (14 R328) -/

/-- vld: the element of each enabled lane, in lane form (14 R328); recorded inside a region (16 R376 to R378). -/
def execVld (k : Bool) (s : BitVec 8) (d o : BitVec 7) (st : State) : Host.Outcome State Fault Refusal :=
  let chk := memChk anyType [0, 1] s.toNat d.toNat o.toNat false true
  issue
    { i := .vld k s d o, k := k, chk := chk
      region := fun x =>
        { allowed := plainOrder x, loads := x.enabled
          writes := fun l => if laneAt x.enabled l then regsOf x.ty d.toNat else [] }
      body := fun w x =>
        w.withAccess x .read false (x.laneAddrs s.toNat o.toNat) fun w accs =>
          match x.g.region with
          | none => w.plainLoad x (.vld k s d o) (chk x) accs (.load (modeE x.e.mode) d.toNat accs)
          | some rg => w.inRegion x rg true accs fun w =>
            let (w1, vs) := w.regionLoads x x.ty accs
            let dst := regsOf x.ty d.toNat
            let w2 := w1.updRegion x.r fun rg =>
              let rg1 := rg.addFragile (rg.refs ((lanesIn x.enabled).map fun l => (o.toNat, l)))
              vs.foldl (fun rg v => dst.foldl (fun rg n => rg.setTag n v.1 v.2.2) rg) rg1
            let ws := strongWrites (.vector d.toNat (modeE x.e.mode)) x.g (vs.map fun v => (v.1, v.2.1))
            .next (w2.pushOp x.r (.value ws) 0 true none false) x } st

/-- vst: the element of each enabled lane is written; of two lanes on one byte the higher remains (14 R328); recorded inside
a region (16 R380). -/
def execVst (k : Bool) (s : BitVec 8) (v o : BitVec 7) (st : State) : Host.Outcome State Fault Refusal :=
  issue
    { i := .vst k s v o, k := k, chk := memChk anyType [0, 2] s.toNat v.toNat o.toNat true false
      region := fun x => { allowed := plainOrder x, stores := x.enabled }
      body := fun w x =>
        w.withAccess x .write false (x.laneAddrs s.toNat o.toNat) fun w accs =>
          let xs := accs.map fun c => (c, x.elem x.ty v.toNat c.lane)
          match x.g.region with
          | none => w.plainStore x xs
          | some rg => w.inRegion x rg false accs fun w =>
            .next (w.updRegion x.r fun rg =>
              (rg.addFragile (rg.refs ((lanesIn x.enabled).map fun l => (o.toNat, l)))).store
                (xs.map fun y => (y.1, rg.datum (regsOf x.ty v.toNat) y.1.lane y.1.width y.2))) x } st

/-- prf: the lines of the addresses that a load could read are fetched; inside a region a tagged offset's references go to the
fragile set (14 R328; 16 R379). -/
def execPrf (k : Bool) (s : BitVec 8) (o : BitVec 7) (st : State) : Host.Outcome State Fault Refusal :=
  issue
    { i := .prf k s o, k := k, chk := fun _ => {}
      region := fun x => { allowed := plainOrder x }
      body := fun w x =>
        let w := w.updRegion x.r fun rg => rg.addFragile (rg.refs ((lanesIn x.enabled).map fun l => (o.toNat, l)))
        .next (w.each (x.laneAddrs s.toNat o.toNat) fun w y =>
          match w.checkAccess x .read false y.1 y.2.1 y.2.2 with
          | .ok c => if w.reach x.r.chip c.path = .live then w.fill x.r x.g.ctx c else w
          | _ => w) x } st

/-! ## Atomics (14 R329; 15 R357) -/

/-- Types of the adding, comparing and exchanging atomics (14 R329). -/
def atomicType (t : EType) : Bool := t == .i32 || t == .n32 || t == .i64 || t == .n64 || t == .f32
/-- Types of the logical atomics (14 R329). -/
def logicType (t : EType) : Bool := t == .i32 || t == .n32 || t == .i64 || t == .n64

/-- The register of the expected value: past the new value's register or pair (14 R329). -/
def casReg (t : EType) (d : Nat) : Nat := if is64 t then d + 2 else d + 1

/-- The checks of an atomic: `vacas` reads a second operand, and its 64-bit form a quadruple (14 R329). -/
def atomicChk (accept : EType → Bool) (cas : Bool) (s d o : Nat) (a : At) : Chk :=
  let c := memChk accept [0, 1, 2, 3, 4] s d o true true a
  if !cas then c
  else { c with use := { c.use with vr := c.use.vr ++ regsOf a.ty (casReg a.ty d) }
                reg := c.reg || (is64 a.ty && d % 4 != 0) }

/-- An atomic: each lane's operand and expected value. -/
def atomicBody (op : AtomicOp) (s d o : Nat) (w : W) (x : At) : Did :=
  let strong := modeO x.e.mode == 4
  w.withAccess x .atomic strong (x.laneAddrs s o) fun w accs =>
    let reps := replicas accs
    let operand := fun (l : Nat) => x.elem x.ty d l
    let expected := fun (l : Nat) => if op = .cas then x.elem x.ty (casReg x.ty d) l else 0
    if strong && !reps.isEmpty && reps.length != accs.length then
      .refuse w { code := fcTABLE, detail := 2, tval := accs.head?.map Acc.va }
    else w.linked x false accs fun w => w.watched x true true accs fun w =>
      let m := x.e.mode
      if strong && !reps.isEmpty then
        w.ordered x true false 5 fun w =>
          match w.group x.r with
          | none => (true, w)
          | some g =>
            let w1 := w.pushOp x.r (.external (regsOf x.ty d) []) 0 true none true
            let body := StrongBody.atomic op (modeE m) (reps.map fun y => (y.2.lane, y.1, operand y.2.lane, expected y.2.lane))
            (true, (((w1.issueWrite x accs).acquireLoads x.r x.g.ctx).startStrong x.r.chip (g.block, g.gid) body (some (.vector d (modeE m))) (some g.nextOp)
              (accs.map fun c => (c.lane, c.va))).2)
      else
        w.ordered x (isRel (modeO m)) (isAcq (modeO m)) (scopeOf m) fun w =>
          (w.issueWrite x accs).issueOp x (.atomic op (modeE m) d (accs.map fun c => (c, operand c.lane, expected c.lane))) true (isAcq (modeO m)) none

/-- vaadd (14 R329). -/
def execVaadd (k : Bool) (s : BitVec 8) (d o : BitVec 7) (st : State) : Host.Outcome State Fault Refusal :=
  issue { i := .vaadd k s d o, k := k, chk := atomicChk atomicType false s.toNat d.toNat o.toNat, region := outside
          body := atomicBody .add s.toNat d.toNat o.toNat } st
/-- vamin (14 R329). -/
def execVamin (k : Bool) (s : BitVec 8) (d o : BitVec 7) (st : State) : Host.Outcome State Fault Refusal :=
  issue { i := .vamin k s d o, k := k, chk := atomicChk atomicType false s.toNat d.toNat o.toNat, region := outside
          body := atomicBody .min s.toNat d.toNat o.toNat } st
/-- vamax (14 R329). -/
def execVamax (k : Bool) (s : BitVec 8) (d o : BitVec 7) (st : State) : Host.Outcome State Fault Refusal :=
  issue { i := .vamax k s d o, k := k, chk := atomicChk atomicType false s.toNat d.toNat o.toNat, region := outside
          body := atomicBody .max s.toNat d.toNat o.toNat } st
/-- vaand (14 R329). -/
def execVaand (k : Bool) (s : BitVec 8) (d o : BitVec 7) (st : State) : Host.Outcome State Fault Refusal :=
  issue { i := .vaand k s d o, k := k, chk := atomicChk logicType false s.toNat d.toNat o.toNat, region := outside
          body := atomicBody .and s.toNat d.toNat o.toNat } st
/-- vaor (14 R329). -/
def execVaor (k : Bool) (s : BitVec 8) (d o : BitVec 7) (st : State) : Host.Outcome State Fault Refusal :=
  issue { i := .vaor k s d o, k := k, chk := atomicChk logicType false s.toNat d.toNat o.toNat, region := outside
          body := atomicBody .or s.toNat d.toNat o.toNat } st
/-- vaxor (14 R329). -/
def execVaxor (k : Bool) (s : BitVec 8) (d o : BitVec 7) (st : State) : Host.Outcome State Fault Refusal :=
  issue { i := .vaxor k s d o, k := k, chk := atomicChk logicType false s.toNat d.toNat o.toNat, region := outside
          body := atomicBody .xor s.toNat d.toNat o.toNat } st
/-- vaxch (14 R329). -/
def execVaxch (k : Bool) (s : BitVec 8) (d o : BitVec 7) (st : State) : Host.Outcome State Fault Refusal :=
  issue { i := .vaxch k s d o, k := k, chk := atomicChk atomicType false s.toNat d.toNat o.toNat, region := outside
          body := atomicBody .xch s.toNat d.toNat o.toNat } st
/-- vacas (14 R329). -/
def execVacas (k : Bool) (s : BitVec 8) (d o : BitVec 7) (st : State) : Host.Outcome State Fault Refusal :=
  issue { i := .vacas k s d o, k := k, chk := atomicChk atomicType true s.toNat d.toNat o.toNat, region := outside
          body := atomicBody .cas s.toNat d.toNat o.toNat } st

/-! ## The spill stack (14 R330, R331) -/

/-- `%ssp.OFF` (14 R331). -/
def Group.stackOff (g : Group) : Nat := fieldOf g.ssp.toNat 0 21
/-- The window 0x3 address of an offset. -/
def stackVa (off : Nat) : DWord := BitVec.ofNat 64 (3 * 2 ^ 60 + off)
/-- The access of lane L of a register spilled at an offset. -/
def stackAcc (g : Group) (chip off l width : Nat) : Acc :=
  { lane := l, va := stackVa (off + 4 * l), key := scratchKey chip g.ctx (g.stackBase + off + 4 * l), width := width, path := .stack }

/-- vpush: every lane goes to the new top of the stack (14 R330). -/
def execVpush (k : Bool) (v : BitVec 7) (st : State) : Host.Outcome State Fault Refusal :=
  issue
    { i := .vpush k v, k := k, chk := fun _ => { use := { vr := [v.toNat] } }, region := outside
      body := fun w x =>
        let off := x.g.stackOff
        let flt := fun (c : Nat) => Did.refuse w { code := c, tval := some (stackVa off) }
        if off % 128 != 0 then flt fcALIGN
        else if off < 128 ∨ x.g.stackLen < off then flt fcSTACK
        else
          let xs := lanes.map fun l => (stackAcc x.g x.r.chip (off - 128) l 4, x.lane v.toNat l)
          w.linked x true (xs.map Prod.fst) fun w => w.watched x false true (xs.map Prod.fst) fun w => w.queueStore x xs fun w =>
            let w1 := w.updGroup x.r fun g => { g with ssp := BitVec.ofNat 64 (off - 128) }
            .next (w1.pushOp x.r (.store xs) 0 false none false) x } st

/-- vpop: every lane comes from the top of the stack (14 R330). -/
def execVpopSpill (k : Bool) (v : BitVec 7) (st : State) : Host.Outcome State Fault Refusal :=
  issue
    { i := .vpopSpill k v, k := k, chk := fun _ => { use := { vw := [v.toNat] } }, region := outside
      body := fun w x =>
        let off := x.g.stackOff
        let flt := fun (c : Nat) => Did.refuse w { code := c, tval := some (stackVa off) }
        if off % 128 != 0 then flt fcALIGN
        else if x.g.stackLen < off + 128 then flt fcSTACK
        else w.linked x false (lanes.map fun l => stackAcc x.g x.r.chip off l 4) fun w =>
          w.watched x true false (lanes.map fun l => stackAcc x.g x.r.chip off l 4) fun w =>
          let w1 := w.updGroup x.r fun g => { g with ssp := BitVec.ofNat 64 (off + 128) }
          .next (w1.pushOp x.r (.pop v.toNat (lanes.map fun l => stackAcc x.g x.r.chip off l 4)) 0 true none false) x } st

/-! ## Scalar forms (14 R332) -/

/-- sa + 8 × imm6 (14 R332). -/
def At.saddr (a : At) (n i : Nat) : DWord := a.sval n + BitVec.ofNat 64 (8 * i)

/-- The lane mask of the lowest active lane, for which a scalar access counts in a region (16 R373). -/
def At.lowestActive (a : At) : LaneMask := match lowestLane a.e.lanes with
  | some l => 1 <<< l
  | none => 0

/-- sld: 8 bytes into a scalar; inside a region its reference goes to the fragile set (14 R332; 16 R379). -/
def execSld (k : Bool) (d a : BitVec 8) (i : BitVec 6) (st : State) : Host.Outcome State Fault Refusal :=
  let chk := fun (x : At) =>
    ({ use := { sr := [a.toNat], sw := [d.toNat] }, modeval := orderDetail [0, 1] x } : Chk)
  issue
    { i := .sld k d a i, k := k, chk := chk
      region := fun x => { allowed := plainOrder x, loads := x.lowestActive }
      body := fun w x =>
        w.withAccess x .read false [(0, 8, x.saddr a.toNat i.toNat)] fun w accs =>
          match x.g.region, accs with
          | some rg, [c0] =>
            let c := { c0 with lane := (lowestLane x.e.lanes).getD 0 }
            w.inRegion x rg true [c] fun w =>
              let (w1, v, tag) := w.regionLoad x .i64 c
              let w2 := w1.updRegion x.r fun rg => rg.addFragile (refsOf c.lane tag)
              .next (w2.pushOp x.r (.value [.s d.toNat (BitVec.ofNat 64 v)]) 0 true none false) x
          | _, [c] => w.plainLoad x (.sld k d a i) (chk x) accs (.sload d.toNat c)
          | _, _ => .next w x } st

/-- sst: a scalar into 8 bytes (14 R332; 16 R380). -/
def execSst (k : Bool) (d a : BitVec 8) (i : BitVec 6) (st : State) : Host.Outcome State Fault Refusal :=
  issue
    { i := .sst k d a i, k := k
      chk := fun x => { use := { sr := [d.toNat, a.toNat] }, modeval := orderDetail [0, 2] x }
      region := fun x => { allowed := plainOrder x, stores := x.lowestActive }
      body := fun w x =>
        w.withAccess x .write false [(0, 8, x.saddr a.toNat i.toNat)] fun w accs =>
          match x.g.region with
          | some rg =>
            let cs := accs.map fun c => { c with lane := (lowestLane x.e.lanes).getD 0 }
            w.inRegion x rg false cs fun w =>
              .next (w.updRegion x.r fun rg => rg.store (cs.map fun c => (c, .plain (x.sval d.toNat).toNat))) x
          | none => w.plainStore x (accs.map fun c => (c, (x.sval d.toNat).toNat)) } st

/-- saadd: an atomic addition that returns the old value (14 R332; 15 R357). -/
def execSaadd (k : Bool) (d a : BitVec 8) (i : BitVec 6) (st : State) : Host.Outcome State Fault Refusal :=
  issue
    { i := .saadd k d a i, k := k
      chk := fun x => { use := { sr := [d.toNat, a.toNat], sw := [d.toNat] }, modeval := orderDetail [0, 1, 2, 3, 4] x }
      region := outside
      body := fun w x =>
        let m := x.e.mode
        let strong := modeO m == 4
        w.withAccess x .atomic strong [(0, 8, x.saddr a.toNat i.toNat)] fun w accs =>
          w.linked x false accs fun w => w.watched x true true accs fun w =>
            match replicas accs, accs with
            | (off, c) :: _, _ =>
              w.ordered x true false 5 fun w =>
                match w.group x.r with
                | none => (true, w)
                | some g =>
                  let w1 := w.pushOp x.r (.external [] [d.toNat]) 0 true none true
                  (true, (((w1.issueWrite x accs).acquireLoads x.r x.g.ctx).startStrong x.r.chip (g.block, g.gid) (.atomic .add 6 [(0, off, (x.sval d.toNat).toNat, 0)])
                    (some (.scalar d.toNat)) (some g.nextOp) [(0, c.va)]).2)
            | [], c :: _ =>
              w.ordered x (isRel (modeO m)) (isAcq (modeO m)) (scopeOf m) fun w =>
                (w.issueWrite x accs).issueOp x (.satomic d.toNat c (x.sval d.toNat).toNat) true (isAcq (modeO m)) none
            | [], [] => .next w x } st

/-! ## fence (14 R333) -/

/-- fence: a release and an acquire at `%mode.SC`; it discards the load entries of 09 R199. -/
def execFence (k : Bool) (st : State) : Host.Outcome State Fault Refusal :=
  issue
    { i := .fence k, k := k, chk := fun _ => {}, region := outside
      body := fun w x => w.ordered x true true (modeSC x.e.mode) fun w => w.flushOps x.r } st

end Sys2Proof.Machine
end

