-- ==== Sys2Proof/Machine/Batch.lean ====
section
/-! DEFINITION. Batches: joining, sealing, waiting, the error record, retirement, the order signature, and the copy templates
(13 R281 to R291, R297, R300; 14 R341, R342). -/
namespace Sys2Proof.Machine

/-! ## The classes -/

/-- Class mx (13 R281). -/
def clsMx : Nat := 0
/-- Class cp (13 R281). -/
def clsCp : Nat := 1
/-- Class co (13 R281). -/
def clsCo : Nat := 2
/-- Class rd (13 R281). -/
def clsRd : Nat := 3

/-- Status OK (13 R297). -/
def stOK : Nat := 0
/-- Status XLATE. -/
def stXLATE : Nat := 1
/-- Status LINK. -/
def stLINK : Nat := 2
/-- Status POISON. -/
def stPOISON : Nat := 3
/-- Status LATE. -/
def stLATE : Nat := 4

/-- Whether a status is an error status (13 R297). -/
def isErrorStatus (s : Nat) : Bool := s != stOK && s != stLATE

/-- The batches of a class of a group. -/
def Group.cls (g : Group) (c : Nat) : BatchClass := AList.getD g.batches c {}
/-- Changes the batches of a class. -/
def Group.updCls (g : Group) (c : Nat) (f : BatchClass → BatchClass) : Group :=
  { g with batches := AList.put g.batches c (f (g.cls c)) }

/-- Seals the open batch under the next sequence number (13 R282). -/
def BatchClass.seal (b : BatchClass) : BatchClass :=
  let n := (b.seals + 1) % 4096
  { b with opened := [], sealed := b.sealed ++ [(n, b.opened)], seals := n, sealDue := false }

/-- An operation joins the open batch of its class (13 R282). -/
def W.joinBatch (w : W) (r : GroupRef) (c op tmpl : Nat) (descriptor : Option (List Byte)) : W :=
  w.updGroup r fun g => g.updCls c fun b =>
    { b with opened := b.opened ++ [{ op := op, tmpl := tmpl, descriptor := descriptor }] }

/-- Marks an operation of a group's batches complete. -/
def Group.completeOp (g : Group) (op status bytes : Nat) : Group :=
  let mark := fun (o : BatchOp) => if o.op == op && o.done.isNone then { o with done := some (status, bytes) } else o
  { g with batches := AList.mapVal g.batches fun _ b =>
      { b with opened := b.opened.map mark, sealed := b.sealed.map fun s => (s.1, s.2.map mark) } }

/-- Changes every group, in a slot or in a saved cluster. -/
def W.allGroups (w : W) (f : Group → Group) : W :=
  { w with s := { w.s with
      groups := AList.mapVal w.s.groups fun _ g => f g
      clusters := AList.mapVal w.s.clusters fun _ c => { c with savedGroups := c.savedGroups.map f } } }


/-- Sets an operation's descriptor, known when it completes (14 R341). -/
def W.describeOp (w : W) (op : Nat) (d : List Byte) : W :=
  let mark := fun (o : BatchOp) => if o.op == op then { o with descriptor := some d } else o
  w.allGroups fun g => { g with batches := AList.mapVal g.batches fun _ b =>
    { b with opened := b.opened.map mark, sealed := b.sealed.map fun s => (s.1, s.2.map mark) } }

/-! ## The order signature (14 R341) -/

/-- One bit of CRC-64, ECMA-182, no reflection. -/
def crcBit (c : DWord) : DWord := if c.msb then (c <<< 1) ^^^ 0x42F0E1EBA9EA3693 else c <<< 1
/-- n bits of CRC-64. -/
def crcBits : Nat → DWord → DWord
  | 0, c => c
  | n + 1, c => crcBits n (crcBit c)
/-- CRC-64 of bytes from a value. -/
def crc64 (c : DWord) : List Byte → DWord
  | [] => c
  | b :: r => crc64 (crcBits 8 (c ^^^ ((b.setWidth 64) <<< 56))) r

/-- One operation folds into `%osig`, a `cred` of no lane with a descriptor of no record; an operation that has none does not
(14 R341). -/
def foldSig (sig : DWord) : Option (List Byte) → DWord
  | some d => crc64 0 (bytesOf 8 sig.toNat ++ d)
  | none => sig

/-! ## Retirement (13 R282, R300) -/

/-- The error record after one failed operation of a retiring batch (13 R300). -/
def BatchError.record (e : BatchError) (status bytes tmpl seq : Nat) : BatchError :=
  let fresh : BatchError := { status := status, bytes := bytes, tmpl := tmpl, seq := seq, err := isErrorStatus status }
  if isErrorStatus status then
    if e.status != 0 && e.status != stLATE then { e with more := true } else fresh
  else if e.status = 0 then fresh else e

/-- Whether the oldest sealed batch of a class may retire (13 R282). -/
def BatchClass.ready (b : BatchClass) : Bool :=
  match b.sealed with
  | [] => false
  | (_, ops) :: _ => ops.all fun o => o.done.isSome

/-- The oldest sealed batch of a class retires: errors are recorded, `%osig` takes its operations, and a seal that was due
takes place (13 R282, R283, R300; 14 R341). -/
def Group.retireBatch (g : Group) (c : Nat) : Group :=
  let b := g.cls c
  match b.sealed with
  | [] => g
  | (seq, ops) :: rest =>
    let failed := ops.filterMap fun o => match o.done with
      | some (st, n) => if st = 0 then none else some (st, n, o.tmpl)
      | none => none
    let err := failed.foldl (fun e f => e.record f.1 f.2.1 f.2.2 seq) b.error
    let sig := ops.foldl (fun s o => foldSig s o.descriptor) g.osig
    let b1 := { b with sealed := rest, error := err }
    { (g.updCls c fun _ => if b1.sealDue then b1.seal else b1) with osig := sig }

/-- The sealed batches of a class that may retire do so, oldest first. -/
def Group.retireReady (g : Group) (c : Nat) : Nat → Group
  | 0 => g
  | n + 1 => if (g.cls c).ready then (g.retireBatch c).retireReady c n else g

/-- Batches of a saved group retire into its saved state as their operations complete (05 R116; 13 R301). -/
def Group.retireSaved (g : Group) : Group := [clsMx, clsCp, clsCo, clsRd].foldl (fun g c => g.retireReady c 16) g

/-- An operation completes with a status and the bytes done; one of a saved group retires its batch there (13 R297, R298,
R301). -/
def W.completeOp (w : W) (op status bytes : Nat) : W :=
  let w1 := w.allGroups fun g => g.completeOp op status bytes
  { w1 with s := { w1.s with
      clusters := AList.mapVal w1.s.clusters fun _ c => { c with savedGroups := c.savedGroups.map Group.retireSaved } } }

/-! ## seal, waitb, bstat (13 R283 to R285) -/

/-- seal: the open batch moves to SEALED; with 15 outstanding the group stalls (13 R283). -/
def execSeal (k : Bool) (c : BitVec 2) (st : State) : Host.Outcome State Fault Refusal :=
  issue
    { i := .seal k c, k := k, chk := fun _ => {}, region := outside
      body := fun w x =>
        if 15 ≤ (x.g.cls c.toNat).sealed.length then
          .stall (w.updEntry x.r x.ei fun e => { e with wait := some (.batch c.toNat 14) }) .syncBatch
        else .next (w.updGroup x.r fun g => g.updCls c.toNat BatchClass.seal) x } st

/-- waitb: waits until at most n sealed batches of the class are outstanding, then raises a recorded error, or acquires the
engine writes and discards the load entries (13 R284, R287). -/
def execWaitb (k : Bool) (c : BitVec 2) (n : BitVec 4) (st : State) : Host.Outcome State Fault Refusal :=
  issue
    { i := .waitb k c n, k := k, chk := fun _ => {}, region := outside
      body := fun w0 x =>
        let b := x.g.cls c.toNat
        let w := if x.e.wait.isSome then w0 else w0.quorumEvent x.r 4
        if n.toNat < b.sealed.length then
          .stall (w.updEntry x.r x.ei fun e => { e with wait := some (.batch c.toNat n.toNat) }) .syncBatch
        else if b.error.err then
          .refuse (w.updGroup x.r fun g => g.updCls c.toNat fun b => { b with error := { b.error with err := false } })
            { code := fcBATCH, detail := 4 }
        else .next (w.acquire x.r x.g.ctx 0) x } st

/-- The value bstat reads (13 R285). -/
def BatchClass.status (b : BatchClass) : Nat :=
  let e := b.error
  e.seq + e.tmpl * 2 ^ 12 + (if e.more then 2 ^ 17 else 0) + (if e.err then 2 ^ 18 else 0) +
    (if b.opened.isEmpty then 0 else 2 ^ 19) + b.sealed.length % 16 * 2 ^ 20 + e.status * 2 ^ 24 + e.bytes % 2 ^ 32 * 2 ^ 32

/-- bstat: the class's counts and error record into a scalar; the record is cleared (13 R285). -/
def execBstat (k : Bool) (c : BitVec 2) (d : BitVec 8) (st : State) : Host.Outcome State Fault Refusal :=
  issue
    { i := .bstat k c d, k := k, chk := fun _ => { use := { sw := [d.toNat] } }
      body := fun w x =>
        let v := BitVec.ofNat 64 (x.g.cls c.toNat).status
        let w1 := w.updGroup x.r fun g => g.updCls c.toNat fun b => { b with error := {} }
        .next (w1.pushOp x.r (.value [.s d.toNat v]) 0 true none false) x } st

/-- osig: `%osig` into a scalar, which clears it (14 R342). -/
def execOsig (k : Bool) (d : BitVec 8) (st : State) : Host.Outcome State Fault Refusal :=
  issue
    { i := .osig k d, k := k, chk := fun _ => { use := { sw := [d.toNat] } }, region := outside
      body := fun w x =>
        let w1 := w.updGroup x.r fun g => { g with osig := 0 }
        .next (w1.pushOp x.r (.value [.s d.toNat x.g.osig]) 0 true none false) x } st

/-! ## Copy templates (13 R289 to R291) -/

/-- T(n) of a template. -/
def Template.t (t : Template) (n : Nat) : Nat := (t.getD n 0).toNat
/-- Dimensions (13 R289). -/
def Template.dims (t : Template) : Nat := fieldOf (t.t 0) 0 2 + 1
/-- Element size in bytes. -/
def Template.size (t : Template) : Nat := 2 ^ fieldOf (t.t 0) 2 2
/-- TR. -/
def Template.tr (t : Template) : Bool := bitOf (t.t 0) 4
/-- TL. -/
def Template.tl (t : Template) : Bool := bitOf (t.t 0) 5
/-- MASK. -/
def Template.mask (t : Template) : Nat := fieldOf (t.t 0) 8 16
/-- COL0. -/
def Template.col0 (t : Template) : Nat := fieldOf (t.t 0) 24 9
/-- ROW0. -/
def Template.row0 (t : Template) : Nat := fieldOf (t.t 0) 33 9
/-- The extent field of a dimension. -/
def Template.extent (t : Template) (d : Nat) : Nat := fieldOf (t.t 1) (16 * d) 16
/-- E' of 13 R292. -/
def Template.span (t : Template) (d : Nat) : Nat := max (t.extent d) 1
/-- The source stride of a dimension. -/
def Template.src (t : Template) (d : Nat) : Int := signedOf 32 (fieldOf (t.t (2 + d / 2)) (32 * (d % 2)) 32)
/-- The destination stride of a dimension. -/
def Template.dst (t : Template) (d : Nat) : Int := signedOf 32 (fieldOf (t.t (4 + d / 2)) (32 * (d % 2)) 32)
/-- DSH. -/
def Template.dsh (t : Template) : DWord := t.getD 6 0
/-- Elements of the walk. -/
def Template.count (t : Template) : Nat := t.span 0 * t.span 1 * t.span 2 * t.span 3

/-- Whether eight values make a valid template (13 R290). -/
def Template.valid (t : Template) : Bool :=
  fieldOf (t.t 0) 42 22 == 0 && fieldOf (t.t 0) 6 2 == 0 && fieldOf (t.t 0) 2 2 != 3 && t.t 7 == 0 &&
  ([0, 1, 2, 3].all fun d => if d < t.dims then t.extent d != 0 else t.extent d == 0) &&
  ([0, 1, 2, 3].all fun d => !decide (d < t.dims) || (t.src d % (t.size : Int) == 0 && t.dst d % (t.size : Int) == 0)) &&
  decide (t.count * t.size ≤ 2 ^ 32) &&
  (t.t 6 == 0 || fieldOf (t.t 6) 60 4 == 1)

/-- The templates of a block as an instruction of a cycle sees them: a write of an earlier cycle counts (13 R291). -/
def Block.settled (b : Block) (cycle : Nat) : Block :=
  let due := b.templateNext.filter fun x => decide (x.2.2.1 < cycle)
  { b with templates := due.foldl (fun t x => AList.put t x.1 x.2.2.2) b.templates
           templateNext := b.templateNext.filter fun x => !decide (x.2.2.1 < cycle) }

/-- A template of a group's block, where it is valid (13 R291). -/
def W.template (w : W) (g : Group) (n : Nat) : Option Template :=
  (w.block g.block).bind fun b => AList.get? (b.settled w.s.cycle).templates n

/-- cpyt: a valid template is in force from the next cycle; of several in one cycle that of the highest `%gid` remains
(13 R291). -/
def execCpyt (k : Bool) (t : BitVec 4) (s : BitVec 8) (st : State) : Host.Outcome State Fault Refusal :=
  issue
    { i := .cpyt k t s, k := k, region := outside
      chk := fun _ => { use := { sr := (upTo 8).map fun i => s.toNat + i } }
      body := fun w x =>
        let v : Template := (upTo 8).map fun i => x.sval (s.toNat + i)
        if !v.valid then .refuse w { code := fcBATCH, detail := 1 }
        else .next (w.updBlock x.g.block fun b0 =>
          let b := b0.settled w.s.cycle
          if b.templateNext.any fun y => y.1 == t.toNat && decide (x.g.gid < y.2.1) then b
          else { b with templateNext := (b.templateNext.filter fun y => y.1 != t.toNat) ++ [(t.toNat, x.g.gid, w.s.cycle, v)] }) x } st

end Sys2Proof.Machine
end

