-- ==== Sys2Proof/Machine/Barrier.lean ====
section
/-! DEFINITION. The fields of a launch record (06 R127), and barriers: counting, phases, departures and the four barrier
instructions (10 R222 to R233). -/
namespace Sys2Proof.Machine

/-! ## The launch record (06 R127) -/

/-- A little-endian field of a launch record. -/
def LaunchRecord.field (x : LaunchRecord) (off n : Nat) : Nat := ofBytes ((x.bytes.drop off).take n)
/-- entry -/
def LaunchRecord.entry (x : LaunchRecord) : Nat := x.field 0x00 8
/-- args -/
def LaunchRecord.args (x : LaunchRecord) : Nat := x.field 0x08 8
/-- gx -/
def LaunchRecord.gx (x : LaunchRecord) : Nat := x.field 0x10 4
/-- gy -/
def LaunchRecord.gy (x : LaunchRecord) : Nat := x.field 0x14 2
/-- gz -/
def LaunchRecord.gz (x : LaunchRecord) : Nat := x.field 0x16 2
/-- bgroups -/
def LaunchRecord.bgroups (x : LaunchRecord) : Nat := x.field 0x18 1
/-- cblocks -/
def LaunchRecord.cblocks (x : LaunchRecord) : Nat := x.field 0x19 1
/-- vregs -/
def LaunchRecord.vregs (x : LaunchRecord) : Nat := x.field 0x1A 1
/-- tiles -/
def LaunchRecord.tiles (x : LaunchRecord) : Nat := x.field 0x1B 1
/-- shared -/
def LaunchRecord.shared (x : LaunchRecord) : Nat := x.field 0x1C 4
/-- stack -/
def LaunchRecord.stack (x : LaunchRecord) : Nat := x.field 0x20 4
/-- tmask -/
def LaunchRecord.tmask (x : LaunchRecord) : Nat := x.field 0x24 2
/-- prio -/
def LaunchRecord.prio (x : LaunchRecord) : Nat := x.field 0x26 1 % 4
/-- flags.RP -/
def LaunchRecord.rp (x : LaunchRecord) : Bool := bitOf (x.field 0x27 1) 0
/-- flags.SER -/
def LaunchRecord.ser (x : LaunchRecord) : Bool := bitOf (x.field 0x27 1) 1
/-- tmpl -/
def LaunchRecord.tmpl (x : LaunchRecord) : Nat := x.field 0x28 8
/-- The membership of block barrier i: 16 bits at 0x30 + 2 × i (04 R97). -/
def LaunchRecord.barrier (x : LaunchRecord) (i : Nat) : Nat := x.field (0x30 + 2 * i) 2
/-- The event mode of a level: 0 group, 1 block, 2 cluster, 3 grid, 4 launch. -/
def LaunchRecord.eventMode (x : LaunchRecord) (lvl : Nat) : Nat := fieldOf (x.field 0x78 2) (2 * lvl) 2
/-- dchip -/
def LaunchRecord.dchip (x : LaunchRecord) : Nat := x.field 0x7A 1
/-- dqueue -/
def LaunchRecord.dqueue (x : LaunchRecord) : Nat := x.field 0x7B 1
/-- Blocks of the grid. -/
def LaunchRecord.blocks (x : LaunchRecord) : Nat := x.gx * x.gy * x.gz
/-- Software clusters of the grid (07 R140). -/
def LaunchRecord.clusters (x : LaunchRecord) : Nat := ceilDiv x.blocks (max 1 x.cblocks)

/-! ## Where a barrier stands -/

/-- The levels of 10 R222. -/
def lvlGroup : Nat := 0
/-- 10 R222. -/
def lvlBlock : Nat := 1
/-- 10 R222. -/
def lvlCluster : Nat := 2
/-- 10 R222. -/
def lvlGrid : Nat := 3

/-- The holder of the barriers of a level, for a group by its block and itself. -/
def W.barrierHolder (w : W) (blockId gid lvl : Nat) : Option BarrierHolder :=
  match lvl with
  | 0 => some (.group blockId gid)
  | 1 => some (.block blockId)
  | 2 => (w.block blockId).map fun b => .cluster b.cluster
  | _ => (w.block blockId).map fun b => .grid b.launch

/-- A barrier of a holder. -/
def W.barrierOf (w : W) (id : Nat) : BarrierHolder → Option Barrier
  | .group k g => ((w.groupOf (k, g)).bind w.group).map Group.bar
  | .block k => (w.block k).bind fun b => AList.get? b.bars id
  | .cluster k => (w.cluster k).bind fun c => AList.get? c.bars id
  | .grid k => (w.launch k).bind fun l => AList.get? l.bars id

/-- Sets a barrier of a holder. -/
def W.setBarrier (w : W) (id : Nat) (x : Barrier) : BarrierHolder → W
  | .group k g => match w.groupOf (k, g) with
    | some r => w.updGroup r fun g => { g with bar := x }
    | none => w
  | .block k => w.updBlock k fun b => { b with bars := AList.put b.bars id x }
  | .cluster k => w.updCluster k fun c => { c with bars := AList.put c.bars id x }
  | .grid k => w.updLaunch k fun l => { l with bars := AList.put l.bars id x }

/-- A barrier by level and id, from a group's block and itself. -/
def W.barrier (w : W) (blockId gid lvl id : Nat) : Option Barrier := (w.barrierHolder blockId gid lvl).bind (w.barrierOf id)

/-- The live lanes of a group of a block; none for a group that is gone. -/
def W.liveLanes (w : W) (blockId gid : Nat) : LaneMask :=
  (((w.groupOf (blockId, gid)).bind w.group).map Group.live).getD 0

/-- The arrival mask of a group at a barrier. -/
def Barrier.mask (b : Barrier) (blockId gid : Nat) : LaneMask := AList.getD b.am (blockId, gid) 0

/-- Whether a group's arrivals cover its live lanes; a group with none is about to depart (10 R224, R228). -/
def W.covers (w : W) (b : Barrier) (blockId gid : Nat) : Bool :=
  w.liveLanes blockId gid != 0 && w.liveLanes blockId gid &&& ~~~(b.mask blockId gid) == 0

/-- Whether a unit counts in the current phase (10 R224). -/
def W.unitArrived (w : W) (b : Barrier) (unit : Nat) : BarrierHolder → Bool
  | .group k g => laneAt (b.mask k g) unit
  | .block k => w.covers b k unit
  | _ => match w.block unit with
    | some k => k.live.all fun g => w.liveLanes unit g == 0 || w.covers b unit g
    | none => false

/-- The groups of a barrier's members (10 R222). -/
def W.memberGroups (w : W) (b : Barrier) : BarrierHolder → List GroupRef
  | .group k g => (w.groupOf (k, g)).toList
  | .block k => b.members.filterMap fun g => w.groupOf (k, g)
  | _ => b.members.flatMap fun k => ((w.block k).map Block.live).getD [] |>.filterMap fun g => w.groupOf (k, g)

/-- The phase completes, in a cycle (10 R225). -/
def Barrier.complete (b : Barrier) (cycle : Nat) : Barrier :=
  { b with ph := !b.ph, mem := b.members.length, rem := b.members.length, counted := [], am := [], doneAt := some cycle }

/-- What a completion does to a member group: it sees the block scalars written before, and its core's load entries of the
context go (09 R199; 09 R206; 10 R229). -/
def W.phaseSeen (w : W) (r : GroupRef) : W :=
  match w.group r with
  | some g => (w.updGroup r fun g => { g with scalarMark := ((w.block g.block).map fun b => b.scalars.length).getD 0 }).acquireLoads r g.ctx
  | none => w

/-- Changes a barrier, whose phase completes where no member remains (10 R225, R227). -/
def W.barrierEvent (w : W) (h : BarrierHolder) (id : Nat) (f : Barrier → Barrier) : W :=
  match w.barrierOf id h with
  | none => w
  | some b =>
    let b1 := f b
    if b1.rem = 0 ∧ b1.mem ≠ 0 then (w.setBarrier id (b1.complete w.s.cycle) h).each (w.memberGroups b1 h) W.phaseSeen
    else w.setBarrier id b1 h

/-- Counts the members that have arrived (10 R224). -/
def Barrier.recounted (b : Barrier) (arrived : Nat → Bool) : Barrier :=
  let new := b.members.filter fun u => !b.counted.contains u && arrived u
  { b with counted := b.counted ++ new, rem := b.rem - new.length }

/-- A member departs: counted, it is left out from the next phase on; not counted, REM falls by one (10 R228). -/
def Barrier.left (b : Barrier) (unit : Nat) : Barrier :=
  if !b.members.contains unit then b
  else { b with members := b.members.filter (· != unit), rem := if b.counted.contains unit then b.rem else b.rem - 1 }

/-- Lanes of a group arrive at a barrier (10 R224). -/
def W.arrive (w : W) (h : BarrierHolder) (id blockId gid : Nat) (lanes : LaneMask) : W :=
  w.barrierEvent h id fun b =>
    let b1 := { b with am := AList.put b.am (blockId, gid) (b.mask blockId gid ||| lanes) }
    b1.recounted fun u => w.unitArrived b1 u h

/-! ## Departures: after the arrivals of their cycle, by core and slot (10 R227, R228) -/

/-- Applies a departure. -/
def W.applyDeparture (w : W) (d : Departure) : W :=
  w.barrierEvent d.holder d.id fun b => match d.unit with
    | some u => b.left u
    | none => b.recounted fun u => w.unitArrived b u d.holder

/-- Applies the departures of a chip. -/
def W.departures (w : W) (chip : Nat) : W :=
  let ds := (w.chip chip).departing
  if ds.isEmpty then w else (w.updChip chip fun c => { c with departing := [] }).each ds W.applyDeparture

/-- Where a departure comes among others. -/
def Departure.place (d : Departure) : Nat := 512 * d.core + d.slot

/-- Notes an event of a slot for the end of the cycle, at the barriers that a holder has. -/
def W.depart (w : W) (r : GroupRef) (h : BarrierHolder) (unit : Option Nat) : W :=
  let ds := ((upTo 16).filter fun i => (w.barrierOf i h).isSome).map fun i => ({ core := r.core, slot := r.slot, holder := h, id := i, unit := unit } : Departure)
  w.updChip r.chip fun c => { c with departing :=
    (c.departing.filter fun d => decide (d.place ≤ 512 * r.core + r.slot)) ++ ds ++ c.departing.filter fun d => decide (512 * r.core + r.slot < d.place) }

/-- The ordering scope of a level (10 R222). -/
def barrierScope (lvl : Nat) : Nat := lvl

/-- Whether a group is a member of a barrier, by its unit (10 R222, R231). -/
def Barrier.hasMember (b : Barrier) (blockId gid lvl : Nat) : Bool :=
  match lvl with
  | 0 => true
  | 1 => b.members.contains gid
  | _ => b.members.contains blockId

/-- The checks that `bar`, `bara`, `barw` and `barq` share: the grid level and membership (10 R231, R232). -/
def W.barrierCheck (w : W) (a : At) (lvl id : Nat) : Except Nat Barrier :=
  let rp := (((w.block a.g.block).bind fun b => w.launch b.launch).map fun l => l.record.rp).getD false
  if lvl = lvlGrid ∧ !rp then .error 2
  else match w.barrier a.g.block a.g.gid lvl id with
    | none => .error 1
    | some b => if !b.hasMember a.g.block a.g.gid lvl || b.mem == 0 then .error 1 else .ok b

/-- The wait of `bar` and `barw` for an arrival in a phase, over in the cycle after its completion (10 R225, R231). -/
def W.barrierWait (w : W) (a : At) (lvl id : Nat) (ph : Bool) (now : Barrier) : Did :=
  let key := (lvl, id)
  if now.ph = ph ∨ now.doneAt = some w.s.cycle then
    .stall (w.updEntry a.r a.ei fun e => { e with wait := some (.barrier lvl id ph) }) .syncBarrier
  else
    .next ((w.updGroup a.r fun g =>
      { g with tokens := if AList.get? g.tokens key = some ph then AList.del g.tokens key else g.tokens }).acquire
        a.r a.g.ctx (barrierScope lvl)) a

/-- An arrival of the fragment's lanes: they are released first, and a phase already arrived in makes a fault of it, unless
that phase completes in this very cycle (10 R227, R229, R231). -/
def W.barrierArrive (w : W) (a : At) (wait : Bool) (lvl id : Nat) (b : Barrier) : Did :=
  match w.barrierHolder a.g.block a.g.gid lvl, w.release a.r (barrierScope lvl) with
  | none, _ => .refuse w { code := fcBARRIER, detail := 1 }
  | _, (false, w1) => .stall w1 .memOrder
  | some h, (true, w1) =>
    let w2 := w1.updGroup a.r fun g => { g with tokens := AList.put g.tokens (lvl, id) b.ph }
    let w3 := w2.arrive h id a.g.block a.g.gid a.e.lanes
    if wait then match w3.barrierOf id h with
      | some b1 => w3.barrierWait a lvl id b.ph b1
      | none => .next w3 a
    else .next w3 a

/-- `bar`, `bara` and `barw` (10 R231). -/
def barrierBody (arrive wait : Bool) (lvl id : Nat) (w : W) (a : At) : Did :=
  let flt := fun (d : Nat) => Did.refuse w { code := fcBARRIER, detail := d }
  match a.e.wait with
  | some (.barrier l i ph) =>
    match w.barrier a.g.block a.g.gid l i with
    | some b => w.barrierWait a l i ph b
    | none => .next w a
  | _ =>
    if a.g.handler.isSome then flt 4
    else match w.barrierCheck a lvl id with
      | .error d => flt d
      | .ok b =>
        let mask := b.mask a.g.block a.g.gid
        if arrive then
          match a.e.wait with
          | some (.double c) =>
            if b.doneAt = some c then (w.quorumEvent a.r 4).barrierArrive a wait lvl id b
            else if c = w.s.cycle then .stall w .syncBarrier
            else flt 3
          | _ =>
            if a.e.lanes &&& mask != 0 then
              .stall (w.updEntry a.r a.ei fun e => { e with wait := some (.double w.s.cycle) }) .syncBarrier
            else (w.quorumEvent a.r 4).barrierArrive a wait lvl id b
        else
          let w := w.quorumEvent a.r 4
          match AList.get? a.g.tokens (lvl, id) with
          | some ph =>
            if ph != b.ph || (a.e.lanes &&& ~~~mask) == 0 then w.barrierWait a lvl id ph b else .next w a
          | none => .next w a

/-- bar: arrive, then wait (10 R230, R231). -/
def execBar (k : Bool) (l : BitVec 2) (i : BitVec 4) (st : State) : Host.Outcome State Fault Refusal :=
  issue { i := .bar k l i, k := k, chk := fun _ => {}, region := outside, body := barrierBody true true l.toNat i.toNat } st

/-- bara: arrive (10 R230, R231). -/
def execBara (k : Bool) (l : BitVec 2) (i : BitVec 4) (st : State) : Host.Outcome State Fault Refusal :=
  issue { i := .bara k l i, k := k, chk := fun _ => {}, region := outside, body := barrierBody true false l.toNat i.toNat } st

/-- barw: wait for an arrival already made (10 R230, R231). -/
def execBarw (k : Bool) (l : BitVec 2) (i : BitVec 4) (st : State) : Host.Outcome State Fault Refusal :=
  issue { i := .barw k l i, k := k, chk := fun _ => {}, region := outside, body := barrierBody false true l.toNat i.toNat } st

/-- Whether the issuing fragment holds a pending arrival (10 R226). -/
def Barrier.pending (b : Barrier) (a : At) (lvl : Nat) : Bool :=
  (a.e.lanes &&& ~~~(b.mask a.g.block a.g.gid)) == 0 && a.e.lanes != 0 ||
    (lvl == lvlBlock && b.counted.contains a.g.gid)

/-- barq: the barrier's state into a scalar (10 R232). -/
def execBarq (k : Bool) (l : BitVec 2) (i : BitVec 4) (d : BitVec 8) (st : State) : Host.Outcome State Fault Refusal :=
  issue
    { i := .barq k l i d, k := k, chk := fun _ => { use := { sw := [d.toNat] } }
      body := fun w x =>
        match w.barrierCheck x l.toNat i.toNat with
        | .error e => .refuse w { code := fcBARRIER, detail := e }
        | .ok b =>
          let v := (if b.ph then 1 else 0) + (if b.pending x l.toNat then 2 else 0) + b.mem * 2 ^ 16 + b.rem * 2 ^ 40
          .next (w.setS x.r d.toNat (BitVec.ofNat 64 v)) x } st

end Sys2Proof.Machine
end

