-- ==== Sys2Proof/Machine/Sha.lean ====
section
/-! DEFINITION. SHA-256 of bytes (20 R441, R442, R445), as FIPS 180-4 defines it (PRESUMED, log 28). -/
namespace Sys2Proof.Machine

/-- The largest number whose k-th power is at most x, below 2^n: one bit at a time from the top. -/
def rootBelow (k x : Nat) : Nat → Nat → Nat
  | 0, r => r
  | n + 1, r => rootBelow k x n (if (r + 2 ^ n) ^ k ≤ x then r + 2 ^ n else r)

/-- The first 32 bits of the fraction of the k-th root of a number below 2^16. -/
def rootFraction (k p : Nat) : Word := BitVec.ofNat 32 (rootBelow k (p * 2 ^ (32 * k)) 48 0)

/-- The first n primes from a candidate on, the ones found so far in ascending order; the first number is fuel. -/
def primesFrom : Nat → Nat → Nat → List Nat → List Nat
  | 0, _, _, ps => ps
  | fuel + 1, n, c, ps =>
    if n ≤ ps.length then ps
    else primesFrom fuel n (c + 1) (if ps.any fun p => c % p == 0 then ps else ps ++ [c])

/-- The round constants: the cube roots of the first 64 primes. -/
def shaK : List Word := (primesFrom 400 64 2 []).map (rootFraction 3)

/-- The initial hash value: the square roots of the first 8 primes. -/
def shaInit : List Word := (primesFrom 400 8 2 []).map (rootFraction 2)

/-- The number that bytes make, highest first. -/
def ofBytesBig (bs : List Byte) : Nat := bs.foldl (fun n b => n * 256 + b.toNat) 0
/-- The bytes of a word, highest first. -/
def wordBytesBig (x : Word) : List Byte := (bytesOf 4 x.toNat).reverse

/-- The exclusive or of a word's rotations to the right by some counts. -/
def xorTurns (x : Word) (counts : List Nat) : Word := counts.foldl (fun z n => z ^^^ x.rotateRight n) 0

/-- One more word of the message schedule before the words so far, the newest first. -/
def shaNext (ws : List Word) : Word :=
  let back := fun (i : Nat) => ws.getD (i - 1) 0
  let (near, far) := (back 2, back 15)
  (xorTurns near [17, 19] ^^^ (near >>> 10)) + back 7 + (xorTurns far [7, 18] ^^^ (far >>> 3)) + back 16

/-- The message schedule: n more words, the newest first. -/
def shaExtend : Nat → List Word → List Word
  | 0, ws => ws
  | n + 1, ws => shaExtend n (shaNext ws :: ws)

/-- The words of a block of 64 bytes. -/
def shaWords (bs : List Byte) : List Word :=
  (List.range 16).map fun i => BitVec.ofNat 32 (ofBytesBig ((bs.drop (4 * i)).take 4))

/-- The working variables: the last four values of each of the two sequences, the newest first. -/
structure ShaState where
  left : List Word
  right : List Word

/-- One round: a value joins each sequence and the oldest goes. -/
def ShaState.round (v : ShaState) (kw : Word × Word) : ShaState :=
  let l := fun (i : Nat) => v.left.getD i 0
  let r := fun (i : Nat) => v.right.getD i 0
  let mixed := kw.1 + kw.2 + r 3 + (r 2 ^^^ (r 0 &&& (r 1 ^^^ r 2))) + xorTurns (r 0) [6, 11, 25]
  let most := (l 0 &&& l 1) ||| (l 2 &&& (l 0 ||| l 1))
  { left := (mixed + most + xorTurns (l 0) [2, 13, 22]) :: v.left.take 3
    right := (l 3 + mixed) :: v.right.take 3 }

/-- One block. -/
def shaBlock (h : List Word) (bs : List Byte) : List Word :=
  let schedule := (shaExtend 48 (shaWords bs).reverse).reverse
  let out := (shaK.zip schedule).foldl ShaState.round { left := h.take 4, right := h.drop 4 }
  (out.left ++ out.right).zipWith (· + ·) h

/-- n blocks. -/
def shaBlocks : Nat → List Word → List Byte → List Word
  | 0, h, _ => h
  | n + 1, h, bs => shaBlocks n (shaBlock h (bs.take 64)) (bs.drop 64)

/-- SHA-256 of bytes. -/
def sha256 (m : List Byte) : List Byte :=
  let pad := (55 + 64 - m.length % 64) % 64
  let bs := m ++ 0x80 :: List.replicate pad 0 ++ (bytesOf 8 (8 * m.length)).reverse
  (shaBlocks (bs.length / 64) shaInit bs).flatMap wordBytesBig

end Sys2Proof.Machine
end

