-- ==== Sys2Proof/Machine/Device.lean ====
section
/-! DEFINITION. How the device's own units read and write virtual addresses of a context (06 R128, R131, R132, R137;
07 R143; 19 R435), audit records (20 R445), and the notes of the completion tree (06 R137). -/
namespace Sys2Proof.Machine

/-! ## Virtual addresses of a context, from a CLD -/

/-- What a unit's read gives. -/
inductive Got
  | bytes (bs : List Byte)
  /-- It waits for a migrating page (17 R403). -/
  | wait
  /-- Its way crosses a link that is held, or links all FENCED (18 R417). -/
  | noWay (way : Reach)
  /-- It cannot be made: the fault a group would meet. -/
  | bad (code : Nat)
  deriving DecidableEq, Repr

/-- Bytes read at a home, of which those that some party has changed meanwhile are the old or the new ones, as free values
choose (06 R135). -/
def W.mixed (w : W) (raced : AList Nat Byte) (cell : Nat) (bs : List Byte) : W × List Byte :=
  if raced.isEmpty then (w, bs)
  else (cellsOf cell bs).foldl (fun (x : W × List Byte) b =>
    match AList.get? raced b.1 with
    | none => (x.1, x.2 ++ [b.2])
    | some old =>
      let (n, w') := x.1.draw
      (w', x.2 ++ [if n % 2 = 0 then b.2 else old])) (w, [])

/-- Reads the 8 bytes at a multiple of 8. -/
def W.unitRead8 (w : W) (chip ctx : Nat) (va : DWord) (raced : AList Nat Byte) : W × Got :=
  match w.unitAccess chip ctx .read 8 va with
  | (w1, .ok acc) =>
    match w1.unitReach chip acc.path with
    | .live =>
      if w1.accPoisoned acc then (w1, .bad fcPOISON)
      else
        let (w2, bs) := w1.mixed raced acc.key (w1.homeBytes acc.key 8)
        (w2, .bytes bs)
    | way => (w1, .noWay way)
  | (w1, .flt f) => (w1, .bad f.code)
  | (w1, .walk _) => (w1, .wait)
  | (w1, .gone) => (w1.noFrame, .bad fcNOMAP)

/-- Reads n words of 8 bytes from a multiple of 8 up; `raced` is what some of the bytes held before a change (06 R135). -/
def W.unitRead (w : W) (chip ctx : Nat) (va : DWord) (n : Nat) (raced : AList Nat Byte := []) : W × Got :=
  match n with
  | 0 => (w, .bytes [])
  | n + 1 =>
    match w.unitRead8 chip ctx va raced with
    | (w1, .bytes bs) =>
      match w1.unitRead chip ctx (va + 8) n raced with
      | (w2, .bytes rest) => (w2, .bytes (bs ++ rest))
      | r => r
    | r => r

/-- What a unit's write comes to. -/
inductive Put
  | done
  | wait
  | bad (code : Nat)
  deriving DecidableEq, Repr

/-- Where a unit writes at most 128 bytes that lie in one page. -/
inductive PutAt
  | cell (acc : Acc)
  /-- It waits for a migrating page (17 R403). -/
  | wait
  /-- It cannot be made: the fault a group would meet. A replicated page takes no such write (13 R465). -/
  | bad (code : Nat)
  deriving DecidableEq, Repr

/-- Translates a unit's write (05 R121; 13 R465). -/
def W.unitPlace (w : W) (chip ctx len : Nat) (va : DWord) : W × PutAt :=
  match w.unitAccess chip ctx .write len va with
  | (w1, .ok acc) => (w1, match acc.path with
    | .replica _ => .bad fcNOMAP
    | _ => .cell acc)
  | (w1, .flt f) => (w1, .bad f.code)
  | (w1, .walk _) => (w1, .wait)
  | (w1, .gone) => (w1.noFrame, .bad fcNOMAP)

/-- A unit's write of at most 128 bytes that lie in one page, at sys scope: none where it meets POISON (06 R137; 19 R436). A
held link delays it without effect on its order (DESIGN CHOICE, log 25). -/
def W.unitWrite (w : W) (chip ctx : Nat) (va : DWord) (bs : List Byte) : W × Put :=
  match w.unitPlace chip ctx bs.length va with
  | (w1, .cell acc) =>
    if w1.unitReach chip acc.path = .fenced || w1.accPoisoned acc then (w1, .bad fcPOISON)
    else (w1.homeWrite none (cellsOf acc.key bs), .done)
  | (w1, .bad c) => (w1, .bad c)
  | (w1, .wait) => (w1, .wait)

/-- The leaf kind that a unit meets at a window 0x0 address: whether the page is replicated (06 R131, R132). -/
def Path.replicated : Path → Bool
  | .replica _ => true
  | _ => false

/-! ## Audit records (20 R445 to R447) -/

/-- Records appended and not consumed on a chip (20 R447). -/
def W.auditFill (w : W) (chip : Nat) : Nat :=
  let h := w.chip chip
  (BitVec.ofNat 32 h.appended - h.consumed).toNat

/-- Whether an append on a chip must wait (20 R447). -/
def W.auditFull (w : W) (chip : Nat) : Bool := decide (65536 ≤ w.auditFill chip)

/-- Appends an audit record: the chain head, the ring, the AUDITFULL event (20 R445, R447). -/
def W.audit (w : W) (chip kind ctx : Nat) (payload : List Byte) : W :=
  let h := w.chip chip
  let tag := if ctx = 0xFF then 0 else (w.context (pkgOf chip) ctx).audit
  let bs := bytesOf 8 h.appended ++ bytesOf 8 (w.time chip) ++ bytesOf 2 kind ++ bytesOf 1 ctx ++ bytesOf 1 (chip % 4) ++
    [0, 0, 0, 0] ++ bytesOf 8 tag ++ (payload ++ zero32).take 32
  let w1 := (w.writeCells (cellsOf (auditKey chip (h.appended % 65536 * 64)) bs)).updChip chip fun h =>
    { h with head := sha256 (h.head ++ bs), appended := h.appended + 1 }
  let fill := w1.auditFill chip
  if 49152 ≤ fill ∧ (fill - 49152) % 4096 = 0 then w1.event chip 0x09 0xFF 0 (bytesOf 1 (fill * 100 / 65536)) else w1

/-- The end of a cycle on a chip: the records that firmware has submitted are appended after those of hardware, as far as there
is room (20 R445, R447). -/
def W.appendSubmitted (w : W) (chip : Nat) : List (Nat × List Byte) → W
  | [] => w.updChip chip fun h => { h with submitted := [] }
  | x :: r =>
    if w.auditFull chip then w.updChip chip fun h => { h with submitted := x :: r }
    else (w.audit chip 7 x.1 x.2).appendSubmitted chip r

/-- The end of a cycle for firmware's records. -/
def W.firmwareRecords (w : W) : W :=
  w.each (w.s.chips.filter fun c => !c.2.submitted.isEmpty) fun w c => w.appendSubmitted c.1 c.2.submitted

/-! ## Notes (06 R137) -/

/-- The queue that a launch came from. -/
def W.queueOf (w : W) (l : Launch) : Queue := w.queue l.chip l.queue

/-- Raises an interrupt once what the last write made is visible: at once, or with the write that waits at its home. -/
def W.irqAfter (w before : W) (chip vec : Nat) : W :=
  match w.s.waiting.getLast? with
  | some h =>
    if before.s.waiting.length < w.s.waiting.length then
      { w with s := { w.s with waiting := w.s.waiting.dropLast ++ [{ h with irq := some (chip, vec) }] } }
    else w.out (.irq chip vec)
  | none => w.out (.irq chip vec)

/-- Writes a note of a level and raises its interrupt once the note is visible, as the record's event mode asks. A reserved
QNOTE.SZ counts like any other (DESIGN CHOICE, log 112). -/
def W.note (w : W) (launch lvl ident : Nat) : W :=
  match w.launch launch with
  | none => w
  | some l =>
    let mode := l.record.eventMode lvl
    if mode = 0 then w
    else
      let q := w.queueOf l
      let w1 :=
        if bitOf q.note.toNat 0 then
          let va := fieldOf q.note.toNat 12 44 * 4096 + 16 * (q.notes % 2 ^ (fieldOf q.note.toNat 2 4 + 4))
          let bs := bytesOf 1 lvl ++ bytesOf 1 l.ctx ++ bytesOf 1 (l.chip % 4) ++ [0] ++ bytesOf 4 l.index ++ bytesOf 8 ident
          (w.unitWrite l.chip l.ctx (BitVec.ofNat 64 va) bs).1.updQueue l.chip l.queue fun q => { q with notes := q.notes + 1 }
        else w
      if mode = 2 then w1.irqAfter w l.chip (fieldOf q.misc.toNat 8 11) else w1

/-- Whether a launch's context lets its queues place and its launches move (05 R107; 06 R130). -/
def W.launchOpen (w : W) (chip ctx : Nat) : Bool :=
  let s := (w.context (pkgOf chip) ctx).st
  s == .bound || s == .running

/-! ## Queue stops (06 R124, R128) -/

/-- A queue stops on an error: the first code stays, and EVEC is raised. -/
def W.stopQueue (w : W) (chip q code : Nat) (hd : Bool) : W :=
  let was := w.queue chip q
  let w1 := if was.stop then w else w.updQueue chip q fun x => { x with code := code, hd := hd, stop := true }
  w1.out (.irq chip (fieldOf was.misc.toNat 20 11))

end Sys2Proof.Machine
end

