-- ==== Sys2Proof/Machine/Scalar.lean ====
section
/-! DEFINITION. The scalar instructions SA, SB, SI and SL (09 R204, R220, R221; 02 R28, R38). -/
namespace Sys2Proof.Machine

/-- A scalar instruction: it executes once for its fragment, ignores the guard and the active mask, is F-class and sets no
flag (09 R204, R220). -/
def scalarOp (i : Instr) (k : Bool) (sr : List Nat) (d : Nat) (f : At → DWord) : RegOp :=
  { i := i, k := k
    chk := fun _ => { use := { sr := sr, sw := [d] } }
    result := fun a => { writes := [.s d (f a)] } }

/-- Two scalar sources (09 R220). -/
def saOp (i : Instr) (k : Bool) (d a b : Nat) (f : DWord → DWord → DWord) : RegOp :=
  scalarOp i k [a, b] d fun x => f (x.sval a) (x.sval b)

/-- A scalar source and an immediate (09 R220). -/
def siOp (i : Instr) (k : Bool) (d a : Nat) (f : DWord → DWord) : RegOp :=
  scalarOp i k [a] d fun x => f (x.sval a)

/-- Bits [127:64] of the signed product (09 R220). -/
def sMulHigh (a b : DWord) : DWord := BitVec.ofInt 64 ((a.toInt * b.toInt) / (2 ^ 64 : Nat))
/-- The signed quotient by 02 R38 with SAT = 0. -/
def sQuot (a b : DWord) : DWord := BitVec.ofNat 64 (intDiv .i64 false a.toInt b.toInt).1
/-- The signed remainder by 02 R38. -/
def sRem (a b : DWord) : DWord := BitVec.ofNat 64 (intRem .i64 a.toInt b.toInt).1
/-- 1 or 0. -/
def sBit (c : Bool) : DWord := if c then 1 else 0
/-- The imm8 of SI functions 0 to 3 and 7, sign-extended (03 R61). -/
def sImm (i : BitVec 8) : DWord := i.signExtend 64

/-! ## SA and SB -/

/-- sadd: a + b mod 2^64 (09 R220). -/
def execSadd (k : Bool) (d a b : BitVec 8) (s : State) : Host.Outcome State Fault Refusal :=
  issueReg (saOp (.sadd k d a b) k d.toNat a.toNat b.toNat (· + ·)) s

/-- ssub: a − b mod 2^64 (09 R220). -/
def execSsub (k : Bool) (d a b : BitVec 8) (s : State) : Host.Outcome State Fault Refusal :=
  issueReg (saOp (.ssub k d a b) k d.toNat a.toNat b.toNat (· - ·)) s

/-- smul: the low 64 bits of a × b (09 R220). -/
def execSmul (k : Bool) (d a b : BitVec 8) (s : State) : Host.Outcome State Fault Refusal :=
  issueReg (saOp (.smul k d a b) k d.toNat a.toNat b.toNat (· * ·)) s

/-- smulh: bits [127:64] of the signed product (09 R220). -/
def execSmulh (k : Bool) (d a b : BitVec 8) (s : State) : Host.Outcome State Fault Refusal :=
  issueReg (saOp (.smulh k d a b) k d.toNat a.toNat b.toNat sMulHigh) s

/-- sdiv: the signed quotient (09 R220). -/
def execSdiv (k : Bool) (d a b : BitVec 8) (s : State) : Host.Outcome State Fault Refusal :=
  issueReg (saOp (.sdiv k d a b) k d.toNat a.toNat b.toNat sQuot) s

/-- srem: the signed remainder (09 R220). -/
def execSrem (k : Bool) (d a b : BitVec 8) (s : State) : Host.Outcome State Fault Refusal :=
  issueReg (saOp (.srem k d a b) k d.toNat a.toNat b.toNat sRem) s

/-- smin: the signed minimum (09 R220). -/
def execSmin (k : Bool) (d a b : BitVec 8) (s : State) : Host.Outcome State Fault Refusal :=
  issueReg (saOp (.smin k d a b) k d.toNat a.toNat b.toNat (fun x y => if x.toInt ≤ y.toInt then x else y)) s

/-- smax: the signed maximum (09 R220). -/
def execSmax (k : Bool) (d a b : BitVec 8) (s : State) : Host.Outcome State Fault Refusal :=
  issueReg (saOp (.smax k d a b) k d.toNat a.toNat b.toNat (fun x y => if x.toInt ≤ y.toInt then y else x)) s

/-- sand: and (09 R220). -/
def execSand (k : Bool) (d a b : BitVec 8) (s : State) : Host.Outcome State Fault Refusal :=
  issueReg (saOp (.sand k d a b) k d.toNat a.toNat b.toNat (· &&& ·)) s

/-- sor: or (09 R220). -/
def execSor (k : Bool) (d a b : BitVec 8) (s : State) : Host.Outcome State Fault Refusal :=
  issueReg (saOp (.sor k d a b) k d.toNat a.toNat b.toNat (· ||| ·)) s

/-- sxor: xor (09 R220). -/
def execSxor (k : Bool) (d a b : BitVec 8) (s : State) : Host.Outcome State Fault Refusal :=
  issueReg (saOp (.sxor k d a b) k d.toNat a.toNat b.toNat (· ^^^ ·)) s

/-- sshl: shift left by b[5:0] (09 R220). -/
def execSshl (k : Bool) (d a b : BitVec 8) (s : State) : Host.Outcome State Fault Refusal :=
  issueReg (saOp (.sshl k d a b) k d.toNat a.toNat b.toNat (fun x y => x <<< (y.toNat % 64))) s

/-- sshr: logical shift right by b[5:0] (09 R220). -/
def execSshr (k : Bool) (d a b : BitVec 8) (s : State) : Host.Outcome State Fault Refusal :=
  issueReg (saOp (.sshr k d a b) k d.toNat a.toNat b.toNat (fun x y => x >>> (y.toNat % 64))) s

/-- ssra: arithmetic shift right by b[5:0] (09 R220). -/
def execSsra (k : Bool) (d a b : BitVec 8) (s : State) : Host.Outcome State Fault Refusal :=
  issueReg (saOp (.ssra k d a b) k d.toNat a.toNat b.toNat (fun x y => x.sshiftRight (y.toNat % 64))) s

/-- sslt: 1 if a < b signed (09 R220). -/
def execSslt (k : Bool) (d a b : BitVec 8) (s : State) : Host.Outcome State Fault Refusal :=
  issueReg (saOp (.sslt k d a b) k d.toNat a.toNat b.toNat (fun x y => sBit (decide (x.toInt < y.toInt)))) s

/-- ssln: 1 if a < b unsigned (09 R220). -/
def execSsln (k : Bool) (d a b : BitVec 8) (s : State) : Host.Outcome State Fault Refusal :=
  issueReg (saOp (.ssln k d a b) k d.toNat a.toNat b.toNat (fun x y => sBit (decide (x.toNat < y.toNat)))) s

/-! ## SI -/

/-- saddi: a + imm (09 R220). -/
def execSaddi (k : Bool) (d a i : BitVec 8) (s : State) : Host.Outcome State Fault Refusal :=
  issueReg (siOp (.saddi k d a i) k d.toNat a.toNat fun x => x + sImm i) s

/-- sandi: a and imm (09 R220). -/
def execSandi (k : Bool) (d a i : BitVec 8) (s : State) : Host.Outcome State Fault Refusal :=
  issueReg (siOp (.sandi k d a i) k d.toNat a.toNat fun x => x &&& sImm i) s

/-- sori: a or imm (09 R220). -/
def execSori (k : Bool) (d a i : BitVec 8) (s : State) : Host.Outcome State Fault Refusal :=
  issueReg (siOp (.sori k d a i) k d.toNat a.toNat fun x => x ||| sImm i) s

/-- sxori: a xor imm (09 R220). -/
def execSxori (k : Bool) (d a i : BitVec 8) (s : State) : Host.Outcome State Fault Refusal :=
  issueReg (siOp (.sxori k d a i) k d.toNat a.toNat fun x => x ^^^ sImm i) s

/-- sshli: shift left by the immediate (09 R220). -/
def execSshli (k : Bool) (d a : BitVec 8) (i : BitVec 6) (s : State) : Host.Outcome State Fault Refusal :=
  issueReg (siOp (.sshli k d a i) k d.toNat a.toNat fun x => x <<< i.toNat) s

/-- sshri: logical shift right by the immediate (09 R220). -/
def execSshri (k : Bool) (d a : BitVec 8) (i : BitVec 6) (s : State) : Host.Outcome State Fault Refusal :=
  issueReg (siOp (.sshri k d a i) k d.toNat a.toNat fun x => x >>> i.toNat) s

/-- ssrai: arithmetic shift right by the immediate (09 R220). -/
def execSsrai (k : Bool) (d a : BitVec 8) (i : BitVec 6) (s : State) : Host.Outcome State Fault Refusal :=
  issueReg (siOp (.ssrai k d a i) k d.toNat a.toNat fun x => x.sshiftRight i.toNat) s

/-- sslti: 1 if a < imm signed (09 R220). -/
def execSslti (k : Bool) (d a i : BitVec 8) (s : State) : Host.Outcome State Fault Refusal :=
  issueReg (siOp (.sslti k d a i) k d.toNat a.toNat fun x => sBit (decide (x.toInt < (sImm i).toInt))) s

/-! ## SL -/

/-- sli: the immediate sign-extended (09 R221). -/
def execSli (k : Bool) (d : BitVec 8) (i : BitVec 18) (s : State) : Host.Outcome State Fault Refusal :=
  issueReg (scalarOp (.sli k d i) k [] d.toNat fun _ => i.signExtend 64) s

/-- slu: sd × 2^18 + imm mod 2^64 (09 R221). -/
def execSlu (k : Bool) (d : BitVec 8) (i : BitVec 18) (s : State) : Host.Outcome State Fault Refusal :=
  issueReg (scalarOp (.slu k d i) k [d.toNat] d.toNat fun x => (x.sval d.toNat) * 262144 + i.setWidth 64) s

end Sys2Proof.Machine
end

