-- ==== Sys2Proof/Machine/Predicate.lean ====
section
/-! DEFINITION. Compares and predicates (08 R173 to R175; 16 R379). -/
namespace Sys2Proof.Machine

/-! ## Compares -/

/-- The relation's number in a constraint (16 R379). -/
def relNumber : Cmp → Nat
  | .eq => 0
  | .ne => 1
  | .lt => 2
  | .le => 3
  | .un => 4

/-- The constraint a compare of one lane records in a region: one operand SYM and the other PLAIN under i32 or n32
(16 R379). -/
def constraintOf (x : At) (rg : Region) (op : Cmp) (a b l : Nat) (outcome : Bool) : Option Constraint :=
  if x.ty != .i32 && x.ty != .n32 then none else
  match rg.tag a l, rg.tag b l with
  | some (.sym k c), none => some
      { lane := l, k := k, c := c, rel := relNumber op, symFirst := true, signed := x.ty == .i32,
        plain := laneOf (x.g.vget b) l, outcome := outcome }
  | none, some (.sym k c) => some
      { lane := l, k := k, c := c, rel := relNumber op, symFirst := false, signed := x.ty == .i32,
        plain := laneOf (x.g.vget a) l, outcome := outcome }
  | _, _ => none

/-- What a compare adds to an open region (16 R379). -/
def compareRegion (x : At) (op : Cmp) (a b : Nat) (out : Nat → Bool) (rg : Region) : Region :=
  (lanesIn x.enabled).foldl (fun rg l =>
    match constraintOf x rg op a b l (out l) with
    | some c => { rg with constraints := rg.constraints ++ [c] }
    | none => rg.addFragile (rg.refs (ownLanes (regsOf x.ty a ++ regsOf x.ty b) l))) rg

/-- A compare (08 R173, R174). -/
def compareOp (i : Instr) (k : Bool) (op : Cmp) (accept : EType → Bool) (d a b : Nat) : Issue :=
  let lane := fun (x : At) (l : Nat) => lnCmp op x.ty x.num (x.elem x.ty a l) (x.elem x.ty b l)
  { i := i, k := k
    chk := vecChk accept [a, b] [] []
    region := fun x =>
      { constraints := match x.g.region with
          | none => 0
          | some rg => lanesWhere x.enabled fun l => (constraintOf x rg op a b l false).isSome }
    body := fun w x =>
      let w1 := w.updRegion x.r (compareRegion x op a b fun l => (lane x l).1)
      .next ((w1.setP x.r d (newPred x.enabled (x.g.pget d) fun l => (lane x l).1)).orFlags x.r
        ((lanesIn x.enabled).foldl (fun acc l => acc ||| (lane x l).2) 0)) x }

/-! ## Predicate operations -/

/-- A predicate operation on predicates (08 R175). -/
def predOp (i : Instr) (k : Bool) (d : Nat) (f : At → Nat → Bool) : RegOp :=
  { i := i, k := k, chk := fun _ => {}
    result := fun x => { writes := [.p d (newPred x.enabled (x.g.pget d) (f x))] } }

/-- vceq: a == b (08 R174). -/
def execVceq (k : Bool) (d : BitVec 4) (a b : BitVec 7)
    (s : State) : Host.Outcome State Fault Refusal :=
  issue (compareOp (.vceq k d a b) k .eq anyType d.toNat a.toNat b.toNat) s

/-- vcne: a != b (08 R174). -/
def execVcne (k : Bool) (d : BitVec 4) (a b : BitVec 7)
    (s : State) : Host.Outcome State Fault Refusal :=
  issue (compareOp (.vcne k d a b) k .ne anyType d.toNat a.toNat b.toNat) s

/-- vclt: a < b (08 R174). -/
def execVclt (k : Bool) (d : BitVec 4) (a b : BitVec 7)
    (s : State) : Host.Outcome State Fault Refusal :=
  issue (compareOp (.vclt k d a b) k .lt anyType d.toNat a.toNat b.toNat) s

/-- vcle: a ≤ b (08 R174). -/
def execVcle (k : Bool) (d : BitVec 4) (a b : BitVec 7)
    (s : State) : Host.Outcome State Fault Refusal :=
  issue (compareOp (.vcle k d a b) k .le anyType d.toNat a.toNat b.toNat) s

/-- vcun: either is a NaN (08 R174). -/
def execVcun (k : Bool) (d : BitVec 4) (a b : BitVec 7)
    (s : State) : Host.Outcome State Fault Refusal :=
  issue (compareOp (.vcun k d a b) k .un anyFloat d.toNat a.toNat b.toNat) s

/-- pand: pa and pb (08 R175). -/
def execPand (k : Bool) (d a b : BitVec 4)
    (s : State) : Host.Outcome State Fault Refusal :=
  issueReg (predOp (.pand k d a b) k d.toNat fun x l => laneAt (x.g.pget a.toNat) l && laneAt (x.g.pget b.toNat) l) s

/-- por: pa or pb (08 R175). -/
def execPor (k : Bool) (d a b : BitVec 4)
    (s : State) : Host.Outcome State Fault Refusal :=
  issueReg (predOp (.por k d a b) k d.toNat fun x l => laneAt (x.g.pget a.toNat) l || laneAt (x.g.pget b.toNat) l) s

/-- pxor: pa xor pb (08 R175). -/
def execPxor (k : Bool) (d a b : BitVec 4)
    (s : State) : Host.Outcome State Fault Refusal :=
  issueReg (predOp (.pxor k d a b) k d.toNat fun x l => laneAt (x.g.pget a.toNat) l != laneAt (x.g.pget b.toNat) l) s

/-- pandn: pa and not pb (08 R175). -/
def execPandn (k : Bool) (d a b : BitVec 4)
    (s : State) : Host.Outcome State Fault Refusal :=
  issueReg (predOp (.pandn k d a b) k d.toNat fun x l => laneAt (x.g.pget a.toNat) l && !laneAt (x.g.pget b.toNat) l) s

/-- pnot: not pa (08 R175). -/
def execPnot (k : Bool) (d a : BitVec 4)
    (s : State) : Host.Outcome State Fault Refusal :=
  issueReg (predOp (.pnot k d a) k d.toNat fun x l => !laneAt (x.g.pget a.toNat) l) s

/-- pmov: pa (08 R175). -/
def execPmov (k : Bool) (d a : BitVec 4)
    (s : State) : Host.Outcome State Fault Refusal :=
  issueReg (predOp (.pmov k d a) k d.toNat fun x l => laneAt (x.g.pget a.toNat) l) s

/-- pset: a constant (08 R175). -/
def execPset (k : Bool) (d : BitVec 4) (e : BitVec 1)
    (s : State) : Host.Outcome State Fault Refusal :=
  issueReg (predOp (.pset k d e) k d.toNat fun _ _ => e == 1) s

/-- pfromv: whether a lane of va is nonzero (08 R175; 16 R379). -/
def execPfromv (k : Bool) (d : BitVec 4) (a : BitVec 7)
    (s : State) : Host.Outcome State Fault Refusal :=
  let o := predOp (.pfromv k d a) k d.toNat fun x l => x.lane a.toNat l != 0
  issueReg { o with
    chk := fun _ => { use := { vr := [a.toNat] } }
    frag := fun x => (lanesIn x.enabled).map fun l => (a.toNat, l) } s

/-- ptov: 0 or 1 in each enabled lane of vd (08 R175). -/
def execPtov (k : Bool) (a : BitVec 4) (d : BitVec 7)
    (s : State) : Host.Outcome State Fault Refusal :=
  issueReg
    { i := .ptov k a d, k := k
      chk := fun _ => { use := { vw := [d.toNat] } }
      result := fun x => { writes := x.put32 x.enabled d.toNat fun l => if laneAt (x.g.pget a.toNat) l then 1 else 0 } } s

end Sys2Proof.Machine
end

