-- ==== Sys2Proof/Machine/Exchange.lean ====
section
/-! DEFINITION. Lane exchange, votes, scans and the identity writers (08 R176 to R180), and the index windows
(09 R190, R201 to R203). -/
namespace Sys2Proof.Machine

/-! ## Permutations -/

/-- A permuting instruction: enabled lane L receives the 32-bit lane `pick L` of va (08 R177). -/
def exchangeOp (i : Instr) (k : Bool) (d a : Nat) (more : List Nat) (extra : List Nat) (pick : At → Nat → Nat) : RegOp :=
  { i := i, k := k
    chk := fun _ => { use := { vr := a :: more, vw := [d] } }
    tagging := fun x => { src := fun l => (a, pick x l) :: ownLanes more l }
    key := fun _ => some extra
    result := fun x => { writes := x.put32 x.enabled d fun l => x.lane a (pick x l) } }

/-- vbfly: va[L xor m] (08 R177). -/
def execVbfly (k : Bool) (d a : BitVec 7) (m : BitVec 5) (s : State) : Host.Outcome State Fault Refusal :=
  issueReg (exchangeOp (.vbfly k d a m) k d.toNat a.toNat [] [m.toNat] fun _ l => Nat.xor l m.toNat) s

/-- vshfl: va[vi[L][4:0]] (08 R177). -/
def execVshfl (k : Bool) (d a i : BitVec 7) (s : State) : Host.Outcome State Fault Refusal :=
  issueReg (exchangeOp (.vshfl k d a i) k d.toNat a.toNat [i.toNat] [] fun x l => x.lane i.toNat l % 32) s

/-- vbcast: va[lane] (08 R177). -/
def execVbcast (k : Bool) (d a : BitVec 7) (l : BitVec 5) (s : State) : Host.Outcome State Fault Refusal :=
  issueReg (exchangeOp (.vbcast k d a l) k d.toNat a.toNat [] [l.toNat] fun _ _ => l.toNat) s

/-- vrotl: va[(L + k) mod 32] (08 R177). -/
def execVrotl (k : Bool) (d a : BitVec 7) (r : BitVec 5) (s : State) : Host.Outcome State Fault Refusal :=
  issueReg (exchangeOp (.vrotl k d a r) k d.toNat a.toNat [] [r.toNat] fun _ l => (l + r.toNat) % 32) s

/-- `%tid` of a lane: 32 × `%gid` + L until `regrp` moves the lane (07 R141; 08 R184). -/
def Group.tidOf (g : Group) (l : Nat) : Nat := AList.getD g.tid l (32 * g.gid + l)

/-- vlane: the lane's position (08 R177). -/
def execVlane (k : Bool) (d : BitVec 7) (s : State) : Host.Outcome State Fault Refusal :=
  issueReg
    { i := .vlane k d, k := k
      chk := fun _ => { use := { vw := [d.toNat] } }
      key := fun _ => some []
      result := fun x => { writes := x.put32 x.enabled d.toNat fun l => l } } s

/-- vtid: the lane's `%tid`; the key holds every position's (08 R177; 09 R196). -/
def execVtid (k : Bool) (d : BitVec 7) (s : State) : Host.Outcome State Fault Refusal :=
  issueReg
    { i := .vtid k d, k := k
      chk := fun _ => { use := { vw := [d.toNat] } }
      key := fun x => some (lanes.map x.g.tidOf)
      result := fun x => { writes := x.put32 x.enabled d.toNat x.g.tidOf } } s

/-! ## Between vectors and scalars -/

/-- vtos: lane `l` of va, extended to 64 bits; V-class; it ignores the guard (08 R178; 16 R379). -/
def execVtos (k : Bool) (d : BitVec 8) (a : BitVec 7) (l : BitVec 5) (s : State) : Host.Outcome State Fault Refusal :=
  issueReg
    { i := .vtos k d a l, k := k, late := true
      chk := fun x => let c := vecChk anyType [a.toNat] [] [] x
                      { c with use := { c.use with sw := [d.toNat] } }
      written := fun _ => 0xFFFFFFFF
      frag := fun x => ownLanes (regsOf x.ty a.toNat) l.toNat
      key := fun x => some [modeE x.e.mode, l.toNat]
      result := fun x => { writes := [.s d.toNat (widen64 x.ty (x.elem x.ty a.toNat l.toNat))] } } s

/-- stov: the scalar into one lane, where that lane is enabled (08 R178). -/
def execStov (k : Bool) (d : BitVec 7) (c : BitVec 8) (l : BitVec 5) (s : State) : Host.Outcome State Fault Refusal :=
  let mask := fun (x : At) => x.enabled &&& (1 <<< l.toNat)
  issueReg
    { i := .stov k d c l, k := k
      chk := vecChk anyType [] [d.toNat] [c.toNat]
      written := mask
      key := fun x => some [modeE x.e.mode, l.toNat]
      result := fun x => { writes := x.put x.ty (mask x) d.toNat fun _ => ((x.sval c.toNat).toNat, 0) } } s

/-- vballot: pa masked by the enabled lanes (08 R179). -/
def execVballot (k : Bool) (d : BitVec 8) (p : BitVec 4) (s : State) : Host.Outcome State Fault Refusal :=
  issueReg
    { i := .vballot k d p, k := k
      chk := fun _ => { use := { sw := [d.toNat] } }
      key := fun x => some [(x.g.pget p.toNat).toNat]
      result := fun x => { writes := [.s d.toNat ((x.g.pget p.toNat &&& x.enabled).setWidth 64)] } } s

/-- vfind: the lowest enabled lane whose bit of pa is 1, or 32 (08 R179). -/
def execVfind (k : Bool) (d : BitVec 8) (p : BitVec 4) (s : State) : Host.Outcome State Fault Refusal :=
  issueReg
    { i := .vfind k d p, k := k
      chk := fun _ => { use := { sw := [d.toNat] } }
      key := fun x => some [(x.g.pget p.toNat).toNat]
      result := fun x =>
        { writes := [.s d.toNat (BitVec.ofNat 64 ((lowestLane (x.g.pget p.toNat &&& x.enabled)).getD 32))] } } s

/-! ## Scans (08 R180) -/

/-- The types a scan accepts: integers, f16, bf16 and f32 (08 R180). -/
def scanType (t : EType) : Bool := isInteger t || isArithFloat t

/-- One addition of a scan: the accumulator, if any, plus an element, as `vadd` adds (08 R180). -/
def scanAdd (t : EType) (nm : NumMode) (acc : Option Nat) (x : Nat) : Nat × Flags :=
  match acc with
  | none => lnRead t nm x
  | some y => let (r, f) := lnAdd t nm y x
              (r % 2 ^ widthOf t, f)

/-- The running sums over the enabled lanes, ascending: lane and sum, and the flags (08 R180). -/
def scanSums (t : EType) (nm : NumMode) (elem : Nat → Nat) : List Nat → Option Nat → List (Nat × Nat) × Flags
  | [], _ => ([], 0)
  | l :: r, acc =>
    let (v, f) := scanAdd t nm acc (elem l)
    let (rest, g) := scanSums t nm elem r (some v)
    ((l, v) :: rest, f ||| g)

/-- vscan: the running sums in the enabled lanes (08 R180). -/
def execVscan (k : Bool) (d a : BitVec 7) (s : State) : Host.Outcome State Fault Refusal :=
  issueReg
    { i := .vscan k d a, k := k
      chk := vecChk scanType [a.toNat] [d.toNat] []
      tagging := fun x =>
        { src := fun l => ((lanesIn x.enabled).filter (· ≤ l)).flatMap (ownLanes (regsOf x.ty a.toNat)) }
      key := fun x => some (modeE x.e.mode :: numKeyOf .arith x.ty x.e.mode)
      result := fun x =>
        let (sums, f) := scanSums x.ty x.num (x.elem x.ty a.toNat) (lanesIn x.enabled) none
        { writes := x.put x.ty x.enabled d.toNat fun l => plainLane x.ty (AList.getD sums l 0)
          flags := f } } s

/-- vred: the whole sum in a scalar; zero where no lane is enabled (08 R180; 16 R379). -/
def execVred (k : Bool) (d : BitVec 8) (a : BitVec 7) (s : State) : Host.Outcome State Fault Refusal :=
  issueReg
    { i := .vred k d a, k := k
      chk := fun x => let c := vecChk scanType [a.toNat] [] [] x
                      { c with use := { c.use with sw := [d.toNat] } }
      frag := fun x => (lanesIn x.enabled).flatMap (ownLanes (regsOf x.ty a.toNat))
      key := fun x => some (modeE x.e.mode :: numKeyOf .arith x.ty x.e.mode)
      result := fun x =>
        let (sums, f) := scanSums x.ty x.num (x.elem x.ty a.toNat) (lanesIn x.enabled) none
        { writes := [.s d.toNat (widen64 x.ty ((sums.getLast?.map Prod.snd).getD 0))], flags := f } } s

/-! ## Index windows and the opf set -/

/-- A window's base and length; one never set covers v0 (07 R142). -/
def Group.windowOf (g : Group) (n : Nat) : Nat × Nat := AList.getD g.windows n (0, 1)

/-- The lowest enabled lane whose index lies outside the window (09 R202). -/
def indexFault (x : At) (n i : Nat) : Option Flt :=
  let len := (x.g.windowOf n).2
  ((lanesIn x.enabled).find? fun l => decide (len ≤ x.lane i l)).map fun l =>
    { code := fcINDEX, detail := l, tval := some (BitVec.ofNat 64 (x.lane i l)) }

/-- The register of a window that a lane's index names (09 R202). -/
def windowReg (x : At) (n i l : Nat) : Nat := (x.g.windowOf n).1 + x.lane i l

/-- The registers the enabled lanes name, where every index is in range. -/
def windowRegs (x : At) (n i : Nat) : List Nat :=
  if (indexFault x n i).isSome then [] else ((lanesIn x.enabled).map (windowReg x n i)).eraseDups

/-- vldx: v[base + vi[L]][L] (09 R202). -/
def execVldx (k : Bool) (n : BitVec 2) (d i : BitVec 7) (s : State) : Host.Outcome State Fault Refusal :=
  issue
    { i := .vldx k n d i, k := k
      chk := fun x => { use := { vr := i.toNat :: windowRegs x n.toNat i.toNat, vw := [d.toNat] } }
      region := fun x => { writes := fun l => if laneAt x.enabled l then [d.toNat] else [] }
      body := fun w x =>
        match indexFault x n.toNat i.toNat with
        | some f => .refuse w f
        | none =>
          let w1 := w.updRegion x.r fun rg =>
            (rg.addFragile (rg.refs ((lanesIn x.enabled).map fun l => (i.toNat, l)))).tagWrites [d.toNat] x.enabled
              { src := fun l => [(windowReg x n.toNat i.toNat l, l)] }
          let put := x.put32 x.enabled d.toNat fun l => x.lane (windowReg x n.toNat i.toNat l) l
          .next (w1.each put fun w rw => w.writeReg x.r rw) x } s

/-- vstx: v[base + vi[L]][L] := v[L] (09 R203). -/
def execVstx (k : Bool) (n : BitVec 2) (v i : BitVec 7) (s : State) : Host.Outcome State Fault Refusal :=
  issue
    { i := .vstx k n v i, k := k
      chk := fun x => { use := { vr := [v.toNat, i.toNat], vw := windowRegs x n.toNat i.toNat } }
      region := fun x =>
        { writes := fun l => if laneAt x.enabled l && (indexFault x n.toNat i.toNat).isNone
                             then [windowReg x n.toNat i.toNat l] else [] }
      body := fun w x =>
        match indexFault x n.toNat i.toNat with
        | some f => .refuse w f
        | none =>
          let target := fun (t : Nat) => lanesWhere x.enabled fun l => windowReg x n.toNat i.toNat l == t
          let regs := windowRegs x n.toNat i.toNat
          let w1 := w.updRegion x.r fun rg0 =>
            let rg1 := rg0.addFragile (rg0.refs ((lanesIn x.enabled).map fun l => (i.toNat, l)))
            regs.foldl (fun rg t => rg.tagWrites [t] (target t)
              { src := fun _ => [], sym := fun _ l => depsTag (rg0.refs [(v.toNat, l)]) }) rg1
          .next (w1.each regs fun w t =>
            w.each (x.put32 (target t) t fun l => x.lane v.toNat l) fun w rw => w.writeReg x.r rw) x } s

/-- ixw: sets a window's base and length (09 R201). -/
def execIxw (k : Bool) (n : BitVec 2) (b l : BitVec 7) (s : State) : Host.Outcome State Fault Refusal :=
  issue
    { i := .ixw k n b l, k := k
      chk := fun x => { reg := decide (x.g.vregs < b.toNat + l.toNat) }
      body := fun w x =>
        .next (w.updGroup x.r fun g => { g with windows := AList.put g.windows n.toNat (b.toNat, l.toNat) }) x } s

/-- The registers an `opf` mask names, from vbase (09 R190). -/
def opfRegs (base : Nat) (mask : BitVec 16) : List Nat :=
  ((upTo 16).filter fun i => mask.getLsbD i).map fun i => base + i

/-- opf: replaces the opf set and starts copying its registers into the buffer (09 R190). -/
def execOpf (k : Bool) (b : BitVec 6) (m : BitVec 16) (s : State) : Host.Outcome State Fault Refusal :=
  let regs := opfRegs (2 * b.toNat) m
  issue
    { i := .opf k b m, k := k
      chk := fun x => { reg := regs.any fun n => decide (x.g.vregs ≤ n) }
      body := fun w x =>
        .next (w.updGroup x.r fun g => { g with opf := regs, buffer := regs.foldl (bufferRead regs) g.buffer }) x } s

end Sys2Proof.Machine
end

