-- ==== Sys2Proof/Machine/EngineMath.lean ====
section
/-! DEFINITION. The arithmetic of the engines: the two chains of a matrix element (02 R44 to R46), the interval and the basis
of a sample (02 R49, R50), a cell's sum (02 R51) and refinement (12 R276). Values are raw encodings. -/
namespace Sys2Proof.Machine

/-! ## Chains (02 R44) -/

/-- ChainAdd: an empty chain takes the first term. -/
def chainAdd (c : Option Nat) (p : Nat) : Option Nat := some (match c with
  | none => p
  | some x => f32Add x p)
/-- Val: an empty chain is +0. -/
def chainVal (c : Option Nat) : Nat := c.getD 0
/-- Two chains by parity over terms in order, and their sum; none is a term that is skipped. -/
def twoChains (terms : List (Nat × Nat)) : Nat :=
  let (e, o) := terms.foldl (fun (c : Option Nat × Option Nat) t =>
    if t.1 % 2 = 0 then (chainAdd c.1 t.2, c.2) else (c.1, chainAdd c.2 t.2)) (none, none)
  f32Add (chainVal e) (chainVal o)

/-- The indices from lo up to hi. -/
def rangeFrom (lo hi : Nat) : List Nat := (upTo (hi - lo)).map fun i => lo + i

/-- One element of an accumulator after a float `mma` or `mmas`: element functions of A at k and B at k, the scales of a
k-block where SM is 1 (02 R44, R46). -/
def matrixFloat (a b : EType) (kExtent : Nat) (af bf : Nat → Nat) (scale : Option (Nat → Nat × Nat)) (acc : Nat) : Nat :=
  (upTo (ceilDiv kExtent 128)).foldl (fun acc blk =>
    let ks := rangeFrom (128 * blk) (min kExtent (128 * blk + 128))
    let s0 := twoChains (ks.map fun k => (k, f32MulOf a b (af k) (bf k)))
    let s := match scale with
      | none => s0
      | some f => f32Mul (f32Mul s0 (f blk).1) (f blk).2
    f32Add acc s) acc

/-- One element of an i32 accumulator after an i8 `mma`: every addition wraps (02 R45). -/
def matrixInt (kExtent : Nat) (af bf : Nat → Nat) (acc : Nat) : Nat :=
  unsignedOf 32 ((upTo kExtent).foldl (fun (z : Int) k => z + signedOf 8 (af k) * signedOf 8 (bf k)) (signedOf 32 acc))

/-! ## The basis (02 R49, R50) -/

/-- f32 constants. -/
def f32One : Nat := 0x3F800000
/-- 2.0 -/
def f32Two : Nat := 0x40000000
/-- 3.0 -/
def f32Three : Nat := 0x40400000
/-- 4.0 -/
def f32Four : Nat := 0x40800000
/-- 6.0 -/
def f32Six : Nat := 0x40C00000
/-- −2.0 -/
def f32MinusTwo : Nat := 0xC0000000
/-- −3.0 -/
def f32MinusThree : Nat := 0xC0400000
/-- The canonical f32 NaN (02 R31). -/
def f32Nan : Nat := 0x7FC00000
/-- A bf16 encoding as f32: exact. -/
def widenBf16 (x : Nat) : Nat := x * 65536
/-- f32 rounded to bf16 with rne. -/
def toBf16 (x : Nat) : Nat := (convertRaw .f32 .bf16 engineMode x).1
/-- A count as f32. -/
def f32OfNat (n : Nat) : Nat := (convertRaw .n32 .f32 engineMode n).1

/-- Where a sample falls (02 R49). -/
structure Place where
  /-- The interval. -/
  q : Nat
  /-- The fraction. -/
  tt : Nat
  /-- Outside the grid. -/
  outside : Bool
  /-- NaN. -/
  nan : Bool

/-- Locate (02 R49). -/
def locate (g0 h grid x : Nat) : Place :=
  let z := f32Div (f32Sub x g0) h
  if f32IsNan z then { q := 0, tt := 0, outside := false, nan := true }
  else if fcmp (f32Val z) (f32Val 0) = .lt then { q := 0, tt := 0, outside := true, nan := false }
  else if fcmp (f32Val z) (f32Val (f32OfNat grid)) ≠ .lt then { q := grid - 1, tt := f32One, outside := true, nan := false }
  else
    let q := (floatToInt .n32 .rtz (f32Val z)).1
    { q := q, tt := f32Sub z (f32OfNat q), outside := false, nan := false }

/-- Basis(k, tt): the k + 1 values in bf16 (02 R50). -/
def basis (k tt : Nat) : List Nat :=
  let vals := match k with
    | 0 => [f32One]
    | 1 => [f32Sub f32One tt, tt]
    | 2 =>
      let ss := f32Sub f32One tt
      [f32Div (f32Mul ss ss) f32Two,
       f32Div (f32Add (f32Mul (f32Add (f32Mul f32MinusTwo tt) f32Two) tt) f32One) f32Two,
       f32Div (f32Mul tt tt) f32Two]
    | _ =>
      let ss := f32Sub f32One tt
      let tsq := f32Mul tt tt
      [f32Div (f32Mul (f32Mul ss ss) ss) f32Six,
       f32Div (f32Add (f32Mul (f32Sub (f32Mul f32Three tt) f32Six) tsq) f32Four) f32Six,
       f32Div (f32Add (f32Mul (f32Add (f32Mul (f32Add (f32Mul f32MinusThree tt) f32Three) tt) f32Three) tt) f32One) f32Six,
       f32Div (f32Mul tsq tt) f32Six]
  vals.map toBf16

/-- A chain over terms in order. -/
def chain (terms : List Nat) : Nat := chainVal (terms.foldl chainAdd none)

/-- φ of a cell: c gives its bf16 coefficients (02 R51). -/
def cellSum (k q : Nat) (b : List Nat) (c : Nat → Nat) : Nat :=
  chain ((upTo (k + 1)).map fun m => f32MulOf .bf16 .bf16 (c (q + m)) (b.getD m 0))

/-- φ′ of a cell (12 R274). -/
def cellSlope (k q tt h : Nat) (c : Nat → Nat) : Nat :=
  let b := basis (k - 1) tt
  f32Div (chain ((upTo k).map fun m =>
    f32Mul (f32Sub (widenBf16 (c (q + m + 1))) (widenBf16 (c (q + m)))) (widenBf16 (b.getD m 0)))) h

/-! ## Refinement (12 R276) -/

/-- 1/2, 1/4 and 1/8. -/
def f32Half : Nat := 0x3F000000
/-- 1/4 -/
def f32Quarter : Nat := 0x3E800000
/-- 1/8 -/
def f32Eighth : Nat := 0x3E000000

/-- A small integer times a coefficient, exactly (12 R276 step 2). -/
def timesExact (k c : Nat) : FVal := (mulExact (.fin false k 0) (f32Val c)).getD (.nan false)

/-- The sum of two exact values in f32 (12 R276 step 3). -/
def f32SumOf (x y : FVal) : Nat := (faddV fmtF32 engineMode x y).1

/-- The refined coefficient n of a cell of order k with G intervals before (12 R276). -/
def refined (k grid : Nat) (c : Nat → Nat) (n : Nat) : Nat :=
  let x := fun (i : Nat) => widenBf16 (c i)
  let i := n / 2
  if 2 * grid + k ≤ n then 0
  else toBf16 (match k, n % 2 with
    | 1, 0 => x i
    | 1, _ => f32Mul (f32Add (x i) (x (i + 1))) f32Half
    | 2, 0 => f32Mul (f32SumOf (timesExact 3 (x i)) (f32Val (x (i + 1)))) f32Quarter
    | 2, _ => f32Mul (f32SumOf (f32Val (x i)) (timesExact 3 (x (i + 1)))) f32Quarter
    | _, 0 => f32Mul (f32Add (x i) (x (i + 1))) f32Half
    | _, _ => f32Mul (f32Add (f32SumOf (f32Val (x i)) (timesExact 6 (x (i + 1)))) (x (i + 2))) f32Eighth)

end Sys2Proof.Machine
end

