-- ==== Sys2Proof/Machine/Tile.lean ====
section
/-! DEFINITION. Tiles, the tile table, moves between lanes and tiles, engine reservation and the quorum list
(11 R235 to R248, R252). -/
namespace Sys2Proof.Machine

/-! ## The control register (11 R236) -/

/-- rows -/
def Tile.rows (t : Tile) : Nat := fieldOf t.ctl 4 9
/-- cols -/
def Tile.cols (t : Tile) : Nat := fieldOf t.ctl 13 9
/-- type, in the codes of 02 R25 -/
def Tile.type (t : Tile) : Nat := fieldOf t.ctl 0 4
/-- The element type. -/
def Tile.etype (t : Tile) : EType := (etypeOf t.type).getD .i32
/-- Bytes of an element. -/
def Tile.size (t : Tile) : Nat := widthOf t.etype / 8
/-- Whether the tile is configured. -/
def Tile.configured (t : Tile) : Bool := t.rows != 0
/-- The element index of a row and a column. -/
def Tile.index (t : Tile) (r c : Nat) : Nat := if fieldOf t.ctl 22 2 = 0 then r * t.cols + c else c * t.rows + r

/-- Whether a type code may stand in a control register. -/
def tileType (n : Nat) : Bool := n == 0 || n == 4 || n == 8 || n == 9 || n == 10 || n == 11

/-- Whether `tcfg` accepts a value (11 R240). -/
def tileControlOk (s : Nat) : Bool :=
  let t : Tile := { ctl := s }
  decide (s < 2 ^ 24) && tileType t.type && decide (fieldOf s 22 2 ≤ 1) &&
  t.rows != 0 && decide (t.rows ≤ 256) && t.cols != 0 && decide (t.cols ≤ 256) && decide (t.rows * t.cols * t.size ≤ 65536)

/-- A tile of a block. -/
def Block.tile (b : Block) (t : Nat) : Tile := AList.getD b.table t {}
/-- Changes a tile of a block. -/
def Block.updTile (b : Block) (t : Nat) (f : Tile → Tile) : Block :=
  { b with table := AList.put b.table t (f (b.tile t)) }
/-- A tile. -/
def W.tile (w : W) (block t : Nat) : Tile := ((w.block block).map fun b => b.tile t).getD {}
/-- Changes a tile. -/
def W.updTile (w : W) (block t : Nat) (f : Tile → Tile) : W := w.updBlock block fun b => b.updTile t f

/-- The raw element at a row and a column. -/
def W.tileElem (w : W) (block t r c : Nat) : Nat :=
  let x := w.tile block t
  ofBytes (w.m.bytes (tileKey block t (x.index r c * x.size)) x.size)
/-- The cells of an element with a new value. -/
def W.tileCells (w : W) (block t r c value : Nat) : List (Nat × Byte) :=
  let x := w.tile block t
  cellsOf (tileKey block t (x.index r c * x.size)) (bytesOf x.size value)

/-! ## Faults TILE (11 R235, R259) -/

/-- Fault TILE with a detail and the tile it concerns. -/
def tileFlt (detail t : Nat) : Flt := { code := fcTILE, detail := detail, tval := some (BitVec.ofNat 64 t) }

/-- Detail 1, then detail 2: the first named tile outside the allotment, or unconfigured. -/
def W.namedTiles (w : W) (block : Nat) (ts : List Nat) : Option Flt :=
  let n := ((w.block block).map Block.tiles).getD 0
  match ts.find? fun t => decide (n ≤ t) with
  | some t => some (tileFlt 1 t)
  | none => (ts.find? fun t => !(w.tile block t).configured).map (tileFlt 2)

/-- Detail 1 alone. -/
def W.tileAllotted (w : W) (block t : Nat) : Option Flt :=
  if ((w.block block).map Block.tiles).getD 0 ≤ t then some (tileFlt 1 t) else none

/-! ## Copies into a tile (11 R245) -/

/-- Whether a copy into a tile waits to start: parked, or in the copy queue. -/
def W.copyWaiting (w : W) (block t : Nat) : Bool :=
  w.s.copies.any fun c => c.2.block == block && c.2.dir == .memTile && c.2.y.toNat % 32 == t &&
    (c.2.st == .queued || c.2.st == .parked)

/-- Whether a copy into a tile is parked. -/
def W.copyParked (w : W) (block t : Nat) : Bool := ((w.block block).map fun b => AList.has b.parked t).getD false

/-- A copy starts: its tile moves as a reader or a writer starts (11 R237). -/
def W.startCopy (w : W) (op : Nat) : W :=
  match AList.get? w.s.copies op with
  | none => w
  | some c =>
    let w1 : W := { w with s := { w.s with copies := AList.put w.s.copies op { c with st := .running } } }
    match c.dir with
    | .memTile => w1.updTile c.block (c.y.toNat % 32) fun t => { t with st := .filling, writers := t.writers + 1 }
    | _ => w1

/-- The parked copy of a tile that is now EMPTY starts (11 R245). -/
def W.startParked (w : W) (block t : Nat) : W :=
  match (w.block block).bind fun b => AList.get? b.parked t with
  | none => w
  | some op => (w.updBlock block fun b => { b with parked := AList.del b.parked t }).startCopy op

/-- Whether a tile is FILLING or DRAINING only because of engine operations (11 R238). -/
def Tile.engineOnly (t : Tile) : Bool :=
  match t.st with
  | .filling => t.writers == t.engineWriters
  | .draining => t.copyReaders == 0
  | _ => false

/-! ## tcfg, tfree, tstate (11 R240 to R242) -/

/-- tcfg: the control register of a tile that is EMPTY or READY (11 R240). -/
def execTcfg (k : Bool) (t : BitVec 5) (s : BitVec 8) (st : State) : Host.Outcome State Fault Refusal :=
  issue
    { i := .tcfg k t s, k := k, chk := fun _ => { use := { sr := [s.toNat] } }, region := outside
      body := fun w x =>
        let b := x.g.block
        let v := (x.sval s.toNat).toNat
        match w.tileAllotted b t.toNat with
        | some f => .refuse w f
        | none =>
          if !tileControlOk v then .refuse w (tileFlt 3 t.toNat)
          else if w.copyParked b t.toNat then .refuse w (tileFlt 8 t.toNat)
          else
            let cur := (w.tile b t.toNat).st
            if cur == .empty || cur == .ready then .next (w.updTile b t.toNat fun y => { y with ctl := v }) x
            else .stall w .engTile } st

/-- tfree: a READY tile becomes EMPTY and zero, and its parked copy starts (11 R241, R245). -/
def execTfree (k : Bool) (t : BitVec 5) (st : State) : Host.Outcome State Fault Refusal :=
  issue
    { i := .tfree k t, k := k, chk := fun _ => {}, region := outside
      body := fun w x =>
        let b := x.g.block
        match w.tileAllotted b t.toNat with
        | some f => .refuse w f
        | none =>
          match (w.tile b t.toNat).st with
          | .empty => .next w x
          | .ready =>
            let w1 := { w with m := w.m.clear fun a => decide (tileKey b t.toNat 0 ≤ a ∧ a < tileKey b t.toNat 65536) }
            .next ((w1.updTile b t.toNat fun y => { y with st := .empty }).startParked b t.toNat) x
          | _ => .stall w .engTile } st

/-- The number of a tile state (11 R242). -/
def tileStateCode : TileState → Nat
  | .empty => 0
  | .filling => 1
  | .ready => 2
  | .draining => 3

/-- tstate: the tile's state and control register into a scalar (11 R242). -/
def execTstate (k : Bool) (t : BitVec 5) (d : BitVec 8) (st : State) : Host.Outcome State Fault Refusal :=
  issue
    { i := .tstate k t d, k := k, chk := fun _ => { use := { sw := [d.toNat] } }, region := outside
      body := fun w x =>
        match w.tileAllotted x.g.block t.toNat with
        | some f => .refuse w f
        | none =>
          let y := w.tile x.g.block t.toNat
          let v := y.ctl % 2 ^ 24 + (if w.copyParked x.g.block t.toNat then 2 ^ 24 else 0) + tileStateCode y.st * 2 ^ 32
          .next (w.pushOp x.r (.value [.s d.toNat (BitVec.ofNat 64 v)]) 0 true none false) x } st

/-! ## vtot and ttov (11 R243) -/

/-- The row and the column a scalar names; none outside the tile. -/
def Tile.segment (t : Tile) (s : Nat) : Option (Nat × Nat) :=
  let r := fieldOf s 16 16
  let c := fieldOf s 0 16
  if s / 2 ^ 32 != 0 || decide (t.rows ≤ r) || decide (t.cols ≤ c) then none else some (r, c)

/-- The checks that vtot and ttov share: the row and column, or a fault. -/
def W.segmentOf (w : W) (x : At) (t s : Nat) : Except Flt (Nat × Nat) :=
  match w.namedTiles x.g.block [t] with
  | some f => .error f
  | none => match (w.tile x.g.block t).segment (x.sval s).toNat with
    | none => .error (tileFlt 7 t)
    | some p => .ok p

/-- vtot: the enabled lanes' low bits into a row segment; the tile is FILLING until the write lands (11 R243). -/
def execVtot (k : Bool) (t : BitVec 5) (s : BitVec 8) (v : BitVec 7) (st : State) : Host.Outcome State Fault Refusal :=
  issue
    { i := .vtot k t s v, k := k, chk := fun _ => { use := { vr := [v.toNat], sr := [s.toNat] } }, region := outside
      body := fun w x =>
        let b := x.g.block
        match w.segmentOf x t.toNat s.toNat with
        | .error f => .refuse w f
        | .ok (r, c) =>
          let y := w.tile b t.toNat
          if y.st == .empty || y.st == .ready then
            let ls := (lanesIn x.enabled).filter fun l => decide (c + l < y.cols)
            let bs := ls.flatMap fun l => w.tileCells b t.toNat r (c + l) (x.lane v.toNat l)
            .next (w.updTile b t.toNat fun y => { y with st := .filling, writers := y.writers + 1, landing := bs }) x
          else .stall w .engTile } st

/-- ttov: a row segment into the enabled lanes, zero past the last column (11 R243). -/
def execTtov (k : Bool) (t : BitVec 5) (s : BitVec 8) (v : BitVec 7) (st : State) : Host.Outcome State Fault Refusal :=
  let chk : At → Chk := fun _ => { use := { vw := [v.toNat], sr := [s.toNat] } }
  issue
    { i := .ttov k t s v, k := k, chk := chk, region := outside
      body := fun w x =>
        let b := x.g.block
        match w.segmentOf x t.toNat s.toNat with
        | .error f => .refuse w f
        | .ok (r, c) =>
          let y := w.tile b t.toNat
          if y.st == .ready || y.st == .draining then
            regBody
              { i := .ttov k t s v, k := k, chk := chk
                key := fun _ => some [b, t.toNat, y.ctl, y.gen]
                result := fun x => { writes := x.put32 x.enabled v.toNat fun l =>
                  if c + l < y.cols then laneForm y.etype (w.tileElem b t.toNat r (c + l)) else 0 } } w x
          else .stall w .engTile } st

/-! ## The engine and the quorum list (11 R246, R247, R252) -/

/-- A core's engine. -/
def Core.engine (c : Core) (n : Nat) : Engine := AList.getD c.engines n {}
/-- Changes an engine. -/
def W.updEngine (w : W) (core : Nat × Nat) (n : Nat) (f : Engine → Engine) : W :=
  w.updCore core fun c => { c with engines := AList.put c.engines n (f (c.engine n)) }

/-- The home core of a block (07 R144). -/
def Block.home (b : Block) : Nat × Nat := (b.chip, b.span.headD 0)

/-- Takes an engine for a block: it starts afresh (11 R246; 12 R264). -/
def W.takeEngine (w : W) (block : Nat) (home : Nat × Nat) (n : Nat) : W :=
  let lo := coefKey home.1 home.2 n 0
  let w1 := { w with m := w.m.clear fun a => decide (lo ≤ a ∧ a < lo + 262144) }
  (w1.updEngine home n fun _ => { block := some block }).updBlock block fun b => { b with engine := some n, engineHeld := true }

/-- macq: takes the lowest free engine of the home core; pd says whether the block holds one (11 R246). -/
def execMacq (k : Bool) (p : BitVec 4) (st : State) : Host.Outcome State Fault Refusal :=
  issue
    { i := .macq k p, k := k, chk := fun _ => {}, region := outside
      body := fun w x =>
        match w.block x.g.block with
        | none => .next w x
        | some b =>
          if b.engineHeld then .next (w.setP x.r p.toNat 0xFFFFFFFF) x
          else match (upTo 4).find? fun n => ((w.core b.home).engine n).block.isNone with
            | some n => .next ((w.takeEngine x.g.block b.home n).setP x.r p.toNat 0xFFFFFFFF) x
            | none => .next (w.setP x.r p.toNat 0) x } st

/-- Ends a block's hold: the engine is free once its operations are complete (11 R247). -/
def W.releaseEngine (w : W) (block : Nat) : W :=
  match w.block block with
  | none => w
  | some b =>
    match b.engine with
    | none => w
    | some n =>
      (w.updEngine b.home n fun e => if e.ops.isEmpty then {} else { e with releasing := true }).updBlock block fun b =>
        { b with engine := none, engineHeld := false }

/-- mrel (11 R247); by a group that a rendezvous lists it is an event of R254. -/
def execMrel (k : Bool) (st : State) : Host.Outcome State Fault Refusal :=
  issue
    { i := .mrel k, k := k, chk := fun _ => {}, region := outside
      body := fun w x => .next ((w.quorumEvent x.r 2).releaseEngine x.g.block) x } st

/-- Whether `mquor` accepts a value (11 R252). -/
def quorOk (q : DWord) (bgroups gid : Nat) : Bool :=
  let n := fieldOf q.toNat 0 3
  let xs := quorList q
  n != 7 && q.toNat / 2 ^ (3 + 7 * n) == 0 && xs.all (fun i => decide (i < bgroups)) && xs.eraseDups.length == xs.length &&
    (decide (n < 2) || xs.contains gid)

/-- mquor: the group's `%quor` (11 R252, R254). -/
def execMquor (k : Bool) (s : BitVec 8) (st : State) : Host.Outcome State Fault Refusal :=
  issue
    { i := .mquor k s, k := k, chk := fun _ => { use := { sr := [s.toNat] } }, region := outside
      body := fun w x =>
        let q := x.sval s.toNat
        let n := ((w.block x.g.block).map Block.bgroups).getD 0
        if !quorOk q n x.g.gid then .refuse w { code := fcQUORUM, detail := 1 }
        else .next ((w.quorumEvent x.r 6).updGroup x.r fun g =>
          { g with quor := if fieldOf q.toNat 0 3 < 2 then 0 else q }) x } st

end Sys2Proof.Machine
end

