-- ==== Sys2Proof/Machine/Engine.lean ====
section
/-! DEFINITION. The engine instructions: their checks, the rendezvous latch, the engine's queue and what each operation does
when it runs (11 R249 to R258, R464; 12 R262 to R279). -/
namespace Sys2Proof.Machine

/-! ## Function codes (03 R73) -/

/-- mma -/
def enMma : Nat := 0x04
/-- mmas -/
def enMmas : Nat := 0x05
/-- mzero -/
def enMzero : Nat := 0x06
/-- mdrain -/
def enMdrain : Nat := 0x07
/-- kset -/
def enKset : Nat := 0x0D
/-- spld -/
def enSpld : Nat := 0x0E
/-- spst -/
def enSpst : Nat := 0x0F
/-- spev -/
def enSpev : Nat := 0x10
/-- spbwd -/
def enSpbwd : Nat := 0x11
/-- spgrd -/
def enSpgrd : Nat := 0x12
/-- sprf -/
def enSprf : Nat := 0x13
/-- spoog -/
def enSpoog : Nat := 0x14

/-- The tiles an engine word reads apart from td. -/
def EngineWord.reads (e : EngineWord) : List Nat := [e.ta, e.tb, e.tc].filterMap id
/-- The tiles an engine word names, in the order td, ta, tb, tc (11 R259). -/
def EngineWord.names (e : EngineWord) : List Nat := [e.td, e.ta, e.tb, e.tc].filterMap id

/-! ## The checks at issue (11 R250, R251, R256, R259; 12 R268 to R270) -/

/-- Whether A, B and C make an accepted combination (11 R250). -/
def matrixTypes (f : Word) : Bool :=
  let float := fun (n : Nat) => n == 8 || n == 9 || n == 11
  (float (fmtA f) && float (fmtB f) && fmtC f == 10) || (fmtA f == 0 && fmtB f == 0 && fmtC f == 4)

/-- The shape of ta as m by k, and of tb as k by n (11 R250). -/
def matrixShape (f : Word) (a b : Tile) : (Nat × Nat) × (Nat × Nat) :=
  (if fmtTA f then (a.cols, a.rows) else (a.rows, a.cols), if fmtTB f then (b.cols, b.rows) else (b.rows, b.cols))

/-- The first failing detail in the order 4, 9, 5, 6 (11 R259). -/
def firstDetail (ds : List (Bool × Nat)) (t : Nat) : Option Flt := (ds.find? fun d => d.1).map fun d => tileFlt d.2 t

/-- Details 4, 9, 5 and 6 of an engine instruction. -/
def shapeFault (e : EngineWord) (fmt : Word) (tile : Nat → Tile) : Option Flt :=
  let td := e.td.getD (e.ta.getD 0)
  let d := tile (e.td.getD 0)
  let a := tile (e.ta.getD 0)
  let b := tile (e.tb.getD 0)
  let c := tile (e.tc.getD 0)
  let meets := e.td.isSome && e.reads.any fun t => some t == e.td
  let ((m, k), (k2, n)) := matrixShape fmt a b
  let square := fun (t : Tile) (r q : Nat) => t.rows == r && t.cols == q
  if e.code = enMma ∨ e.code = enMmas then
    let scaled := e.code == enMmas
    let kb := ceilDiv k 128
    firstDetail
      [(!matrixTypes fmt || a.type != fmtA fmt || b.type != fmtB fmt || d.type != fmtC fmt, 4),
       (fmtSM fmt != (if scaled then 1 else 0) || (scaled && (fmtA fmt != 11 || fmtB fmt != 11)), 9),
       (k != k2 || !square d m n || decide (128 < m) || decide (128 < n) || decide (256 < k) ||
         (scaled && (c.type != 10 || decide (c.rows * c.cols < m * kb + kb * ceilDiv n 128))), 5),
       (meets, 6)] td
  else if e.code = enMdrain then
    let ok := (a.type == 10 && (d.type == 11 || d.type == 9 || d.type == 8 || d.type == 10)) ||
      (a.type == 4 && (d.type == 0 || d.type == 4 || d.type == 10))
    firstDetail [(!ok, 4), (a.rows != d.rows || a.cols != d.cols, 5), (meets, 6)] td
  else if e.code = enSpld then firstDetail [(a.type != 9, 4), (!square a 256 128, 5)] td
  else if e.code = enSpst then firstDetail [(d.type != 9, 4), (!square d 256 128, 5)] td
  else if e.code = enSpev then
    firstDetail [(a.type != 10 || d.type != 10, 4), (!square a a.rows 64 || !square d a.rows 64, 5), (meets, 6)] td
  else if e.code = enSpbwd then
    firstDetail [(a.type != 10 || b.type != 10 || d.type != 10, 4),
      (!square a a.rows 64 || !square b a.rows 64 || !square d a.rows 64, 5), (meets, 6)] td
  else if e.code = enSpgrd then
    firstDetail [(a.type != 10 || b.type != 10 || d.type != 10, 4),
      (!square a a.rows 64 || !square b a.rows 64 || !square d 256 64, 5), (meets, 6)] td
  else none

/-- Whether an f32 encoding is finite. -/
def f32Finite (x : Nat) : Bool := fieldOf x 23 8 != 255
/-- Whether an f32 encoding is positive, finite and at least 2^−126. -/
def f32Step (x : Nat) : Bool := f32Finite x && decide (x < 2 ^ 31) && fieldOf x 23 8 != 0

/-- Whether half of a positive finite f32 encoding is at least 2^−126. -/
def f32HalfStep (x : Nat) : Bool := f32Step x && decide (2 ≤ fieldOf x 23 8)

/-- Fault SPLINE of an engine instruction, from its `%fmt`, its scalars and the knots as they will stand (12 R270). -/
def splineFault (e : EngineWord) (fmt : Word) (x : At) (g h : Nat) : Option Flt :=
  let k := fmtKO fmt
  let flt := fun (d : Nat) => some ({ code := fcSPLINE, detail := d } : Flt)
  if e.code = enKset then
    let a := (x.sval e.s).toNat
    let b := (x.sval (e.s + 1)).toNat
    let c := (x.sval (e.s + 2)).toNat
    if 2 ^ 32 ≤ a ∨ !f32Finite a then flt 3
    else if 2 ^ 32 ≤ b ∨ !f32Step b then flt 4
    else if c = 0 ∨ 29 < c then flt 5 else none
  else if e.code = enSpev ∨ e.code = enSpbwd ∨ e.code = enSpgrd then
    if k = 0 then flt 1 else if 32 < g + k then flt 2 else none
  else if e.code = enSprf then
    if k = 0 then flt 1 else if 32 < 2 * g + k then flt 6 else if !f32HalfStep h then flt 7 else none
  else none

/-- Every check of an engine instruction past 03 R62 and REGION: ENGINE, TILE, SPLINE (11 R249, R259; 12 R269). -/
def W.engineFault (w : W) (x : At) (e : EngineWord) : Option Flt :=
  match w.block x.g.block with
  | none => some { code := fcENGINE }
  | some b =>
    match b.engine with
    | none => some { code := fcENGINE }
    | some n =>
      let en := (w.core b.home).engine n
      (w.namedTiles x.g.block e.names).or
        ((shapeFault e x.e.fmt b.tile).or (splineFault e x.e.fmt x en.nextG en.nextH))

/-! ## The tile table's conditions and moves (11 R237, R238) -/

/-- Whether a tile lets an engine instruction read it. -/
def Tile.lets (t : Tile) : Bool := t.st == .ready || t.st == .draining || (t.st == .filling && t.engineOnly)
/-- Whether a tile lets an engine instruction write it. -/
def Tile.letsWrite (t : Tile) : Bool := t.st == .empty || t.st == .ready || t.engineOnly

/-- Whether every tile of an engine instruction lets it issue (11 R238). -/
def Block.letsEngine (b : Block) (e : EngineWord) : Bool :=
  (e.reads.all fun t => (b.tile t).lets) && (match e.td with
    | some t => (b.tile t).letsWrite
    | none => true)

/-- A reader starts on a tile, or joins the engine's queue behind its writers (11 R237). -/
def Tile.addReader (t : Tile) : Tile :=
  { t with st := if t.st == .filling then .filling else .draining, readers := t.readers + 1 }
/-- An engine writer issues on a tile (11 R237). -/
def Tile.addEngineWriter (t : Tile) : Tile :=
  { t with st := if t.st == .draining then .draining else .filling, writers := t.writers + 1, engineWriters := t.engineWriters + 1 }

/-- Puts an operation among others by its number. -/
def insertOp (o : EngineOp) (os : List EngineOp) : List EngineOp :=
  (os.takeWhile fun x => decide (x.op < o.op)) ++ [o] ++ os.dropWhile fun x => decide (x.op < o.op)

/-- The engine operations of a block, oldest first, on whichever of its engines: one it has released still holds what was issued
before (11 R247, R257). -/
def W.engineOps (w : W) (block : Nat) : List EngineOp :=
  ((w.s.cores.flatMap fun c => c.2.engines.filter fun e => e.2.block == some block).flatMap fun e => e.2.ops).foldr insertOp []

/-- The state of a tile from what is still in flight on it: the oldest engine operation that names it decides between
FILLING and DRAINING (11 R237). -/
def Tile.restate (t : Tile) (n : Nat) (ops : List EngineOp) : Tile :=
  let first := ops.find? fun o => o.eng.names.contains n
  let st := match first with
    | some o => if 0 < t.copyReaders then .draining else if o.eng.td == some n then .filling else .draining
    | none => if 0 < t.writers then .filling else if 0 < t.readers then .draining else .ready
  { t with st := st }

/-! ## Issue (11 R253, R255) -/

/-- An engine operation enters the engine's queue: tiles, the batches of its groups, and the knots as they will stand. The
operand values are those of one group's fragment. -/
def W.enqueueEngine (w : W) (x : At) (e : EngineWord) (groups : List GroupRef) : W :=
  match w.block x.g.block with
  | none => w
  | some b =>
    match b.engine with
    | none => w
    | some n =>
      let (op, w1) := w.fresh
      let en := (w.core b.home).engine n
      let knots := ((x.sval e.s).toNat % 2 ^ 32, (x.sval (e.s + 1)).toNat % 2 ^ 32, (x.sval (e.s + 2)).toNat % 32)
      let rec1 : EngineOp := { op := op, eng := e, fmt := x.e.fmt, mode := x.e.mode, knots := knots }
      let (ng, nh) := if e.code = enKset then (knots.2.2, knots.2.1)
        else if e.code = enSprf then (2 * en.nextG, f32Mul en.nextH f32Half) else (en.nextG, en.nextH)
      let w2 := w1.updEngine b.home n fun y => { y with ops := y.ops ++ [rec1], nextG := ng, nextH := nh }
      let w3 := w2.updBlock x.g.block fun b =>
        let b1 := e.reads.eraseDups.foldl (fun b t => b.updTile t Tile.addReader) b
        match e.td with
        | some t => b1.updTile t Tile.addEngineWriter
        | none => b1
      if e.code = enKset then w3 else w3.each groups fun w r => w.joinBatch r clsMx op 0 none

/-- What an engine instruction does as it issues: `spoog` reads the count into each group's scalar, every other enters the
queue (11 R253; 12 R278). -/
def W.engineEffect (w : W) (x : At) (e : EngineWord) (groups : List GroupRef) : W :=
  if e.code = enSpoog then
    match w.block x.g.block with
    | none => w
    | some b =>
      match b.engine with
      | none => w
      | some n =>
        let en := (w.core b.home).engine n
        let v := BitVec.ofNat 64 (en.oog + if en.oogSat then 2 ^ 32 else 0)
        (w.each groups fun w r => w.setS r e.s v).updEngine b.home n fun y => { y with oog := 0, oogSat := false }
  else w.enqueueEngine x e groups

/-- Why an engine instruction must wait: its tiles, or for `spoog` operations of the block not yet complete
(11 R238; 12 R278). -/
def W.engineWait (w : W) (block : Nat) (e : EngineWord) : Option Leaf :=
  match w.block block with
  | none => none
  | some b =>
    if e.code = enSpoog then
      match b.engine with
      | some n => if ((w.core b.home).engine n).ops.isEmpty then none else some .engTile
      | none => none
    else if b.letsEngine e then none else some .engTile

/-- `%mode.R` and `%mode.SAT` together (11 R253). -/
def rsatOf (m : Word) : Nat := fieldOf m.toNat 13 4

/-- The rendezvous an instruction of a quorum asks for. -/
def newLatch (x : At) (e : EngineWord) (k : Bool) (now : Nat) : Latch :=
  { quor := x.g.quor, eng := e, fmt := x.e.fmt, rsat := rsatOf x.e.mode, held := [(⟨x.r, x.ei⟩, k)], since := now }

/-- Whether a latch's rendezvous matches an instruction (11 R253). -/
def Latch.fits (l : Latch) (x : At) (e : EngineWord) : Bool :=
  l.quor == x.g.quor && l.eng == e && l.fmt == x.e.fmt && l.rsat == rsatOf x.e.mode

/-- Groups of a block that wait outside the latch ahead of a group (11 R464). -/
def W.aheadOf (w : W) (x : At) (since : Nat) : Bool :=
  w.s.groups.any fun g => g.2.block == x.g.block && g.1 != x.r && (g.2.st == .active || g.2.st == .resident) &&
    g.2.fault.isNone && (match g.2.latchAt with
      | some c => decide (c < since ∨ (c = since ∧ g.2.gid < x.g.gid))
      | none => false)

/-- A group reaches its engine instruction under a quorum: it is held, or waits outside the latch (11 R253, R254, R464). -/
def W.latchUp (w : W) (x : At) (e : EngineWord) (k : Bool) : W :=
  let enter := fun (w : W) =>
    (w.updGroup x.r fun g => { g with latchAt := none }).updBlock x.g.block fun b => { b with latch := some (newLatch x e k w.s.now) }
  let since := x.g.latchAt.getD w.s.cycle
  let waits := fun (w : W) => w.updGroup x.r fun g => { g with latchAt := some since }
  match (w.block x.g.block).bind Block.latch with
  | none => if w.aheadOf x since then waits w else enter w
  | some l =>
    if l.held.any fun h => h.1.grp == x.r then w
    else if !(quorList l.quor).contains x.g.gid then waits w
    else if l.fits x e then
      (w.updGroup x.r fun g => { g with latchAt := none }).updBlock x.g.block fun b =>
        { b with latch := some { l with held := l.held ++ [(⟨x.r, x.ei⟩, k)] } }
    else enter (w.quorumEvent x.r 2)

/-- An engine instruction (11 R253, R255). -/
def engineBody (e : EngineWord) (k : Bool) (w : W) (x : At) : Did :=
  match w.engineFault x e with
  | some f => .refuse w f
  | none =>
    if (quorList x.g.quor).length < 2 then
      -- a listed group whose own `%quor` is empty does not match (11 R254), once per instruction it reaches
      let w := if (x.e.stall.map Prod.fst) == some .engTile then w else w.quorumEvent x.r 2
      match w.engineWait x.g.block e with
      | some leaf => .stall w leaf
      | none => .next (w.engineEffect x e [x.r]) x
    else .stall (w.latchUp x e k) .engLatch

/-- Whether a group is held in its block's latch (11 R253). -/
def W.latched (w : W) (r : GroupRef) (g : Group) : Bool :=
  match (w.block g.block).bind Block.latch with
  | some l => l.held.any fun h => h.1.grp == r
  | none => false

/-- A fragment of a held group. -/
def W.fragment (w : W) (f : FragRef) : Option At :=
  match w.group f.grp with
  | none => none
  | some g => (AList.get? g.entries f.entry).map fun e => { r := f.grp, ei := f.entry, g := g, e := e }

/-- The held fragments of a rendezvous in the order of its list with their K bits, and G0's, once every listed group is held and
the tiles allow the issue (11 R238, R253). -/
def W.meeting (w : W) (block : Nat) (l : Latch) : Option (List (FragRef × Bool) × At) :=
  let order := quorList l.quor
  let hs := order.filterMap fun i => l.held.find? fun h => ((w.group h.1.grp).map Group.gid) == some i
  match hs.head?.bind fun h => w.fragment h.1 with
  | none => none
  | some x0 => if hs.length ≠ order.length ∨ (w.engineWait block l.eng).isSome then none else some (hs, x0)

/-- Whether a group is the G0 of a rendezvous that can complete (11 R253). -/
def W.leads (w : W) (r : GroupRef) (g : Group) : Bool :=
  match (w.block g.block).bind Block.latch with
  | some l => match w.meeting g.block l with
    | some (_, x0) => x0.r == r
    | none => false
  | none => false

/-- The latch empties, and a fault is noted for every held group at its engine instruction (11 R254). -/
def W.dropLatch (w : W) (block : Nat) (l : Latch) (f : Flt) : W :=
  (w.updBlock block fun b => { b with latch := none }).each l.held fun w h => w.updGroup h.1.grp fun g =>
    { g with fault := g.fault.or (some { code := f.code, detail := f.detail, tval := f.tval, entry := h.1.entry,
                                         tpc := ((AList.get? g.entries h.1.entry).map Entry.pc).getD 0 }) }

/-- RENDEZVOUS_COMPLETE (11 R253): all listed groups are held and the tiles allow issue; the operation issues once, from G0's
slot, and every listed group moves past it, each parking by its own K; the others may issue from the next cycle. What the checks
find at this issue, such as an engine released meanwhile, every held group raises (11 R249; DEDUCED, log 118). -/
def W.completeRendezvous (w : W) (block : Nat) : W :=
  match (w.block block).bind Block.latch with
  | none => w
  | some l =>
    match w.meeting block l with
    | none => w
    | some (hs, x0) =>
      let sub := x0.r.slot % 4
      if AList.has (w.core (coreKey x0.r)).used sub then w
      else match w.engineFault x0 l.eng with
        | some f => w.dropLatch block l f
        | none =>
          let w1 := w.updBlock block fun b => { b with latch := none }
          let w2 := w1.engineEffect x0 l.eng (hs.map fun h => h.1.grp)
          let w3 := w2.each hs fun w h =>
            let w' := (w.updEntry h.1.grp h.1.entry fun e =>
              { e with pc := e.pc + 4, wait := none, stall := none, unchecked := false, refill := none,
                       pending := e.pending.map PendingRestore.counted }).updGroup h.1.grp fun g =>
                { g with lastEntry := h.1.entry, issueFrom := if h.1.grp == x0.r then g.issueFrom else w.s.cycle + 1 }
            if h.2 then w'.park h.1.grp else w'
          w3.updCore (coreKey x0.r) fun c => { c with
            lastSlot := AList.put c.lastSlot sub x0.r.slot
            used := AList.put c.used sub .executed
            charged := AList.put c.charged sub (some ⟨x0.r, x0.ei⟩, .executed)
            issuedBy := AList.put c.issuedBy sub (x0.g.ctx, x0.g.block, x0.g.gid) }

/-- LATCH_TIMEOUT (11 R254): a group held for 1 ms makes every held group take QUORUM. -/
def W.timeoutLatch (w : W) (block : Nat) : W :=
  match (w.block block).bind Block.latch with
  | none => w
  | some l => if w.s.now < l.since + 1000000 then w else w.dropLatch block l { code := fcQUORUM, detail := 5 }

/-! ## The instructions -/

/-- The issue of an engine instruction. -/
def engineIssue (i : Instr) (k : Bool) (use : Use) (e : EngineWord) (st : State) : Host.Outcome State Fault Refusal :=
  issue { i := i, k := k, chk := fun _ => { use := use }, region := outside, body := engineBody e k } st

/-- mma (11 R255). -/
def execMma (k : Bool) (d a b : BitVec 5) (st : State) : Host.Outcome State Fault Refusal :=
  engineIssue (.mma k d a b) k {} { code := enMma, td := some d.toNat, ta := some a.toNat, tb := some b.toNat } st
/-- mmas (11 R251, R255). -/
def execMmas (k : Bool) (d a b c : BitVec 5) (st : State) : Host.Outcome State Fault Refusal :=
  engineIssue (.mmas k d a b c) k {}
    { code := enMmas, td := some d.toNat, ta := some a.toNat, tb := some b.toNat, tc := some c.toNat } st
/-- mzero (11 R255). -/
def execMzero (k : Bool) (d : BitVec 5) (st : State) : Host.Outcome State Fault Refusal :=
  engineIssue (.mzero k d) k {} { code := enMzero, td := some d.toNat } st
/-- mdrain (11 R256). -/
def execMdrain (k : Bool) (d a : BitVec 5) (st : State) : Host.Outcome State Fault Refusal :=
  engineIssue (.mdrain k d a) k {} { code := enMdrain, td := some d.toNat, ta := some a.toNat } st
/-- kset (12 R263). -/
def execKset (k : Bool) (s : BitVec 8) (st : State) : Host.Outcome State Fault Refusal :=
  engineIssue (.kset k s) k { sr := [s.toNat, s.toNat + 1, s.toNat + 2] } { code := enKset, s := s.toNat } st
/-- spld (12 R266). -/
def execSpld (k : Bool) (a : BitVec 5) (g : BitVec 2) (st : State) : Host.Outcome State Fault Refusal :=
  engineIssue (.spld k a g) k {} { code := enSpld, ta := some a.toNat, g := g.toNat } st
/-- spst (12 R266). -/
def execSpst (k : Bool) (d : BitVec 5) (g : BitVec 2) (st : State) : Host.Outcome State Fault Refusal :=
  engineIssue (.spst k d g) k {} { code := enSpst, td := some d.toNat, g := g.toNat } st
/-- spev (12 R272). -/
def execSpev (k : Bool) (d a : BitVec 5) (st : State) : Host.Outcome State Fault Refusal :=
  engineIssue (.spev k d a) k {} { code := enSpev, td := some d.toNat, ta := some a.toNat } st
/-- spbwd (12 R274). -/
def execSpbwd (k : Bool) (d a b : BitVec 5) (st : State) : Host.Outcome State Fault Refusal :=
  engineIssue (.spbwd k d a b) k {} { code := enSpbwd, td := some d.toNat, ta := some a.toNat, tb := some b.toNat } st
/-- spgrd (12 R275). -/
def execSpgrd (k : Bool) (d a b : BitVec 5) (g : BitVec 3) (st : State) : Host.Outcome State Fault Refusal :=
  engineIssue (.spgrd k d a b g) k {}
    { code := enSpgrd, td := some d.toNat, ta := some a.toNat, tb := some b.toNat, g := g.toNat } st
/-- sprf (12 R276). -/
def execSprf (k : Bool) (st : State) : Host.Outcome State Fault Refusal :=
  engineIssue (.sprf k) k {} { code := enSprf } st
/-- spoog (12 R278). -/
def execSpoog (k : Bool) (d : BitVec 8) (st : State) : Host.Outcome State Fault Refusal :=
  engineIssue (.spoog k d) k { sw := [d.toNat] } { code := enSpoog, s := d.toNat } st

/-! ## Running an operation (11 R257; 02 R44 to R47; 12 R266, R272 to R276) -/

/-- A coefficient's cell: c[n] of cell (i, j) (12 R280). -/
def coefCell (home : Nat × Nat) (n i j c : Nat) : Nat := coefKey home.1 home.2 n ((64 * i + j) * 64 + 2 * c)
/-- A coefficient, bf16. -/
def W.coef (w : W) (home : Nat × Nat) (n i j c : Nat) : Nat := ofBytes (w.m.bytes (coefCell home n i j c) 2)

/-- Every row and column below some bounds, rows first. -/
def gridOf (rows cols : Nat) : List (Nat × Nat) := (upTo rows).flatMap fun r => (upTo cols).map fun c => (r, c)

/-- Writes every element of a tile from a function of row and column; the elements are computed from the machine before. -/
def W.fillTile (w : W) (block t : Nat) (f : Nat → Nat → Nat) : W :=
  let x := w.tile block t
  w.writeCells ((gridOf x.rows x.cols).flatMap fun p => w.tileCells block t p.1 p.2 (f p.1 p.2))

/-- The out-of-grid count after some inputs (12 R273). -/
def Engine.count (e : Engine) (n : Nat) : Engine :=
  { e with oog := min 0xFFFFFFFF (e.oog + n), oogSat := e.oogSat || decide (0xFFFFFFFF < e.oog + n) }

/-- The sum of the two chains over 64 terms, added to an element with rne (02 R44, R51). -/
def addChains (acc : Nat) (terms : List (Nat × Nat)) : Nat := f32Add acc (twoChains terms)

/-- What an engine operation does (02 R44 to R47; 12 R263, R266, R272 to R276). -/
def W.runEngine (w : W) (block : Nat) (home : Nat × Nat) (n : Nat) (o : EngineOp) : W :=
  let e := o.eng
  let en := (w.core home).engine n
  let d := e.td.getD 0
  let a := e.ta.getD 0
  let b := e.tb.getD 0
  let el := w.tileElem block
  let k := fmtKO o.fmt
  let og := fmtOG o.fmt == 1
  let place := fun (x : Nat) => locate en.g0 en.h en.G x
  let outs := fun (t rows : Nat) =>
    ((gridOf rows 64).filter fun p => (place (el t p.1 p.2)).outside).length
  if e.code = enMma ∨ e.code = enMmas then
    let ((_, kx), _) := matrixShape o.fmt (w.tile block a) (w.tile block b)
    let m := (w.tile block d).rows
    let av := fun (i q : Nat) => if fmtTA o.fmt then el a q i else el a i q
    let bv := fun (q j : Nat) => if fmtTB o.fmt then el b j q else el b q j
    let tc := e.tc.getD 0
    let sc := fun (i : Nat) => ofBytes (w.m.bytes (tileKey block tc (4 * i)) 4)
    let kb := ceilDiv kx 128
    w.fillTile block d fun i j =>
      if fmtC o.fmt = 4 then matrixInt kx (av i) (fun q => bv q j) (el d i j)
      else matrixFloat ((etypeOf (fmtA o.fmt)).getD .f16) ((etypeOf (fmtB o.fmt)).getD .f16) kx (av i) (fun q => bv q j)
        (if e.code = enMmas then some fun blk => (sc (i * kb + blk), sc (m * kb + blk * 1 + j / 128)) else none) (el d i j)
  else if e.code = enMzero then w.fillTile block d fun _ _ => 0
  else if e.code = enMdrain then
    let nm : NumMode := { rnd := (roundingOf (modeR o.mode)).getD .rne, sat := modeSat o.mode, ftz := false }
    w.fillTile block d fun r c => (convertRaw (w.tile block a).etype (w.tile block d).etype nm (el a r c)).1
  else if e.code = enKset then
    w.updEngine home n fun y => { y with g0 := o.knots.1, h := o.knots.2.1, G := o.knots.2.2 }
  else if e.code = enSpld then
    w.writeCells ((gridOf 256 128).flatMap fun p =>
      cellsOf (coefCell home n (2 * (p.1 % 32) + p.2 / 64) (p.2 % 64) (8 * e.g + p.1 / 32)) (bytesOf 2 (el a p.1 p.2)))
  else if e.code = enSpst then
    w.fillTile block d fun r c => w.coef home n (2 * (r % 32) + c / 64) (c % 64) (8 * e.g + r / 32)
  else if e.code = enSpev then
    let rows := (w.tile block a).rows
    let w1 := w.fillTile block d fun r i =>
      let ps := (upTo 64).map fun j => (j, place (el a r j))
      if ps.any fun p => p.2.nan then f32Nan
      else addChains (el d r i) (ps.map fun p => (p.1,
        if p.2.outside && og then 0
        else cellSum k p.2.q (basis k p.2.tt) (w.coef home n i p.1)))
    w1.updEngine home n fun y => y.count (outs a rows)
  else if e.code = enSpbwd then
    let rows := (w.tile block b).rows
    let w1 := w.fillTile block d fun r j =>
      let p := place (el b r j)
      if p.nan then f32Nan
      else addChains (el d r j) ((upTo 64).map fun i => (i,
        f32Mul (el a r i) (if p.outside then 0 else cellSlope k p.q p.tt en.h (w.coef home n i j))))
    w1.updEngine home n fun y => y.count (outs b rows)
  else if e.code = enSpgrd then
    let rows := (w.tile block b).rows
    let w1 := w.fillTile block d fun r j =>
      let i := r % 64
      let c := 4 * e.g + r / 64
      let ps := (upTo rows).map fun s => (s, place (el b s j))
      if ps.any fun p => p.2.nan then f32Nan
      else addChains (el d r j) (ps.filterMap fun p =>
        if (p.2.outside && og) || decide (c < p.2.q) || decide (p.2.q + k < c) then none
        else some (p.1, f32Mul (el a p.1 i) (widenBf16 ((basis k p.2.tt).getD (c - p.2.q) 0))))
    w1.updEngine home n fun y => y.count (outs b rows)
  else if e.code = enSprf then
    let w1 := w.writeCells ((gridOf 64 64).flatMap fun p => (upTo 32).flatMap fun c =>
      cellsOf (coefCell home n p.1 p.2 c) (bytesOf 2 (refined k en.G (w.coef home n p.1 p.2) c)))
    w1.updEngine home n fun y => { y with G := 2 * y.G, h := f32Mul y.h f32Half }
  else w

/-- ENGINE_OP_COMPLETE (11 R237, R238, R257): the engine's oldest operation runs and completes, once none of its block's on
another engine is older and no copy still reads the tile it writes; its tiles move and its batches hear of it. -/
def W.completeEngineOp (w : W) (core : Nat × Nat) (n : Nat) : W :=
  let en := (w.core core).engine n
  match en.block, en.ops with
  | some block, o :: rest =>
    let blocked := match o.eng.td with
      | some t => decide (0 < (w.tile block t).copyReaders)
      | none => false
    let first := ((w.engineOps block).head?.map EngineOp.op) == some o.op
    if blocked || !first then w
    else
      let w1 := w.runEngine block core n o
      let w2 := w1.updEngine core n fun y => if rest.isEmpty && y.releasing then {} else { y with ops := rest }
      let left := w2.engineOps block
      let w3 := w2.updBlock block fun b =>
        let b1 := o.eng.reads.eraseDups.foldl (fun b t => b.updTile t fun y => { y with readers := y.readers - 1 }) b
        let b2 := match o.eng.td with
          | some t => b1.updTile t fun y =>
              { y with writers := y.writers - 1, engineWriters := y.engineWriters - 1, gen := y.gen + 1 }
          | none => b1
        o.eng.names.eraseDups.foldl (fun b t => b.updTile t fun y => y.restate t left) b2
      w3.completeOp o.op stOK 0
  | _, _ => w

end Sys2Proof.Machine
end

