-- ==== Sys2Proof/Machine/Copy.lean ====
section
/-! DEFINITION. Copies and multicasts: issue, the copy queue, the walk, faults during a copy and completion
(11 R244, R245; 13 R292 to R299, R465). -/
namespace Sys2Proof.Machine

/-! ## The walk (13 R292) -/

/-- The four indices of a walk position. -/
def Template.indices (t : Template) (w : Nat) : List Nat :=
  [w % t.span 0, w / t.span 0 % t.span 1, w / (t.span 0 * t.span 1) % t.span 2, w / (t.span 0 * t.span 1 * t.span 2)]

/-- The byte offset of a walk position under some strides. -/
def Template.offset (t : Template) (stride : Nat → Int) (w : Nat) : Int :=
  ((t.indices w).zipIdx.foldl (fun (z : Int) p => z + (p.1 : Int) * stride p.2) 0)

/-- An address moved by a walk's offset, modulo 2^64. -/
def walkAddr (base : DWord) (off : Int) : DWord := base + BitVec.ofInt 64 off

/-- The lowest and the highest offset of a walk. -/
def Template.reach (t : Template) (stride : Nat → Int) : Int × Int :=
  ([0, 1, 2, 3].foldl (fun (b : Int × Int) d =>
    let z := ((t.span d - 1 : Nat) : Int) * stride d
    (b.1 + min z 0, b.2 + max z 0)) (0, 0))

/-- The index of the tile element of a walk position (13 R292). -/
def Template.tileIndex (t : Template) (x : Tile) (w : Nat) : Nat :=
  let i0 := w % t.span 0
  let row := w / t.span 0
  if t.tl then w
  else if t.tr then x.index (t.row0 + i0) (t.col0 + row) else x.index (t.row0 + row) (t.col0 + i0)

/-- Whether the walk covers no element outside a tile (11 R244; 13 R292). -/
def Template.inTile (t : Template) (x : Tile) : Bool :=
  let rows := t.span 1 * t.span 2 * t.span 3
  if t.tl then decide (t.count ≤ x.rows * x.cols) && t.row0 == 0 && t.col0 == 0
  else if t.tr then decide (t.row0 + t.span 0 ≤ x.rows ∧ t.col0 + rows ≤ x.cols)
  else decide (t.row0 + rows ≤ x.rows ∧ t.col0 + t.span 0 ≤ x.cols)

/-! ## Issue (11 R244; 13 R293 to R296) -/

/-- The window check of a memory address of a copy: tag 0x0 or 0x2 (13 R294). -/
def memTagOk (v : DWord) : Bool := fieldOf v.toNat 60 4 == 0 || fieldOf v.toNat 60 4 == 2

/-- Whether a shared walk keeps inside the block's shared memory (13 R294). -/
def sharedOk (t : Template) (base : DWord) (shared : Nat) : Bool :=
  let (lo, hi) := t.reach t.dst
  let off : Int := (fieldOf base.toNat 0 60 : Nat)
  fieldOf base.toNat 60 4 == 1 && decide (0 ≤ off + lo ∧ off + hi + (t.size : Int) ≤ (shared : Int))

/-- The tile checks of a copy, in the order of their details (11 R235, R244, R245, R259). -/
def W.copyTileFault (w : W) (block t : Nat) (p : Template) (into : Bool) : Option Flt :=
  match w.namedTiles block [t] with
  | some f => some f
  | none =>
    let x := w.tile block t
    if p.size != x.size || !p.inTile x then some (tileFlt 5 t)
    else if into && w.copyWaiting block t then some (tileFlt 8 t) else none

/-- The addresses of a copy that 13 R294 checks, with whether each is a shared one. -/
def copyAddrs (dir : CopyDir) (x y : DWord) : List (DWord × Bool) :=
  match dir with
  | .memMem => [(x, false), (y, false)]
  | .memShared => [(x, false), (y, true)]
  | .multicast => [(x, false), (y, true)]
  | _ => [(x, false)]

/-- The checks of 13 R294 past the template: WINDOW, ALIGN, TILE. -/
def W.copyFault (w : W) (a : At) (p : Template) (dir : CopyDir) (x y : DWord) : Option Flt :=
  let shared := ((w.block a.g.block).map Block.shared).getD 0
  let adr := copyAddrs dir x y
  match adr.find? fun v => !(if v.2 then sharedOk p v.1 shared else memTagOk v.1) with
  | some v => some { code := fcWINDOW, detail := 1, tval := some v.1 }
  | none =>
    match adr.find? fun v => v.1.toNat % p.size != 0 with
    | some v => some { code := fcALIGN, tval := some v.1 }
    | none =>
      match dir with
      | .memTile => w.copyTileFault a.g.block (y.toNat % 32) p true
      | .tileMem => w.copyTileFault a.g.block (y.toNat % 32) p false
      | _ => none

/-- Takes a copy-queue entry and joins the open cp batch; with no entry free the fragment stalls (11 R244). -/
def W.enqueueCopy (w : W) (a : At) (n : Nat) (p : Template) (dir : CopyDir) (x y : DWord) (dests : List (Nat × Nat)) : Did :=
  match w.block a.g.block with
  | none => .next w a
  | some b =>
    let home := b.home
    let useShared := decide ((w.core home).copyShared < 512)
    if !useShared && decide (2 ≤ b.copyReserved) then .stall w .engBusy
    else
      match w.flushOps a.r with
      | (false, w1) => .stall w1 .memOrder
      | (true, w1) =>
        let (op, w2) := w1.fresh
        let c : Copy := { op := op, dir := dir, tmpl := p, x := x, y := y, block := a.g.block, grp := a.r, gid := a.g.gid,
                          ctx := a.g.ctx, chip := b.chip, core := home.2, sharedEntry := useShared, dests := dests
                          ctl := (w2.tile a.g.block (y.toNat % 32)).ctl }
        let w3 : W := { w2 with s := { w2.s with copies := AList.put w2.s.copies op c } }
        let w4 := w3.updCore home fun k =>
          { k with copyQueue := k.copyQueue ++ [op], copyShared := k.copyShared + if useShared then 1 else 0 }
        let w5 := if useShared then w4 else w4.updBlock a.g.block fun b => { b with copyReserved := b.copyReserved + 1 }
        let w6 := if dir == .tileMem then w5.updTile a.g.block (y.toNat % 32) fun t =>
          { t.addReader with copyReaders := t.copyReaders + 1 } else w5
        .next (w6.joinBatch a.r clsCp op n none) a

/-- The direction of a `cpy` (13 R293). -/
def copyDir (r : Nat) : CopyDir :=
  match r with
  | 0 => .memMem
  | 1 => .memTile
  | 2 => .tileMem
  | _ => .memShared

/-- cpy: the checks of R294, the tile's state for a copy out, and the queue (13 R293, R294). -/
def execCpy (k : Bool) (t : BitVec 4) (sx sy : BitVec 8) (r : BitVec 2) (st : State) : Host.Outcome State Fault Refusal :=
  let dir := copyDir r.toNat
  let tile := r.toNat == 1 || r.toNat == 2
  issue
    { i := .cpy k t sx sy r, k := k, region := outside
      chk := fun _ => { use := { sr := if tile then [sx.toNat] else [sx.toNat, sy.toNat] } }
      body := fun w x =>
        let y : DWord := if tile then BitVec.ofNat 64 (sy.toNat % 32) else x.sval sy.toNat
        match w.template x.g t.toNat with
        | none => .refuse w { code := fcBATCH, detail := 2 }
        | some p =>
          match w.copyFault x p dir (x.sval sx.toNat) y with
          | some f => .refuse w f
          | none =>
            let state := (w.tile x.g.block (sy.toNat % 32)).st
            if dir == .tileMem && !(state == .ready || state == .draining) then .stall w .engTile
            else w.enqueueCopy x t.toNat p dir (x.sval sx.toNat) y [] } st

/-- The instance number of block i of a block's software cluster; 0, which names no block, for one that has retired
(13 R295, R296). -/
def W.clusterBlock (w : W) (b : Block) (i : Nat) : Nat :=
  let cblocks := ((w.launch b.launch).map fun l => l.record.cblocks).getD 1
  let bid := ((w.cluster b.cluster).map Cluster.clid).getD 0 * cblocks + i
  ((w.s.blocks.find? fun k => k.2.cluster == b.cluster && k.2.bid == bid).map Prod.fst).getD 0

/-- mcast: a walk into the shared memory of blocks of the cluster (13 R295, R296). -/
def execMcast (k : Bool) (t : BitVec 4) (s m : BitVec 8) (st : State) : Host.Outcome State Fault Refusal :=
  issue
    { i := .mcast k t s m, k := k, region := outside
      chk := fun _ => { use := { sr := [s.toNat, m.toNat] } }
      body := fun w x =>
        match w.template x.g t.toNat, w.block x.g.block with
        | some p, some b =>
          match w.copyFault x p .multicast (x.sval s.toNat) p.dsh with
          | some f => .refuse w f
          | none =>
            let mask := (x.sval m.toNat).toNat
            let size := ((w.cluster b.cluster).map Cluster.size).getD 0
            if mask / 2 ^ min size 16 != 0 then .refuse w { code := fcBATCH, detail := 3 }
            else
              let ds := ((upTo 16).filter fun i => bitOf mask i && bitOf p.mask i).map fun i => (i, w.clusterBlock b i)
              if ds.isEmpty then
                match w.flushOps x.r with
                | (false, w1) => .stall w1 .memOrder
                | (true, w1) =>
                  let (op, w2) := w1.fresh
                  .next ((w2.joinBatch x.r clsCp op t.toNat none).completeOp op stOK 0) x
              else w.enqueueCopy x t.toNat p .multicast (x.sval s.toNat) p.dsh ds
        | _, _ => .refuse w { code := fcBATCH, detail := 2 } } st

/-! ## The copy queue (11 R244, R245) -/

/-- COPY_START: the copy at the head of a core's queue starts, or parks where its tile is not EMPTY; its entry is free. -/
def W.copyHead (w : W) (core : Nat × Nat) : W :=
  match (w.core core).copyQueue with
  | [] => w
  | op :: rest =>
    match AList.get? w.s.copies op with
    | none => w.updCore core fun k => { k with copyQueue := rest }
    | some c =>
      let w1 := w.updCore core fun k =>
        { k with copyQueue := rest, copyShared := k.copyShared - if c.sharedEntry then 1 else 0 }
      let w2 := if c.sharedEntry then w1 else w1.updBlock c.block fun b => { b with copyReserved := b.copyReserved - 1 }
      let t := c.y.toNat % 32
      if c.dir == .memTile && (w2.tile c.block t).st != .empty then
        ({ w2 with s := { w2.s with copies := AList.put w2.s.copies op { c with st := .parked } } } : W).updBlock c.block fun b =>
          { b with parked := AList.put b.parked t op }
      else w2.startCopy op

/-! ## Moving elements (13 R292, R298, R465) -/

/-- What stops a walk. -/
inductive CopyStop
  /-- Nothing: the walk has ended. -/
  | ended
  /-- An uncorrectable error in a source byte. -/
  | poison
  /-- A condition of 13 R465. -/
  | refused
  /-- A translation fault: the address, and whether it is a write. -/
  | fault (va : DWord) (write : Bool)
  /-- A page with MIG = 1. -/
  | migrating
  /-- A walk in flight that it joins, or no place for a walk of its own (17 R405). -/
  | walking
  /-- A link that is out. -/
  | link
  deriving DecidableEq, Repr

/-- One side of an element: its access, or what stops the walk. -/
def W.copySide (w : W) (c : Copy) (write : Bool) (va : DWord) : W × Except CopyStop Acc :=
  match w.unitAccess c.chip c.ctx (if write then .write else .read) c.tmpl.size va with
  | (w1, .ok a) =>
    match a.path with
    | .replica _ => (w1, if write then .error .refused else .ok a)
    | p => (w1, if w1.reach c.chip p == .live then .ok a else .error .link)
  | (w1, .walk _) => (w1, .error (if w1.walkBusy c.chip c.ctx (va.toNat % 2 ^ 56) then .walking else .migrating))
  | (w1, .gone) => (w1.noFrame, .error .refused)
  | (w1, .flt f) =>
    (w1, .error (if f.code = fcNOMAP ∨ f.code = fcPERM ∨ f.code = fcPERMIT then .fault va write
      else if f.code = fcPOISON then .poison else .refused))

/-- A byte as a copy reads it: its group's writes count (13 R287). -/
def W.copyLoad (w : W) (c : Copy) (cell : Nat) : Byte := w.byteFor c.chip [(c.block, c.gid)] cell

/-- One byte of an element's source: a cell that the walk itself has written, or the group since the copy's issue, may be read
as it stands or as it stood before (13 R288, R292). -/
def W.copyByte (w : W) (c : Copy) (cell : Nat) : W × Byte :=
  match (AList.get? c.undo cell).or (AList.get? c.raced cell) with
  | none => (w, w.copyLoad c cell)
  | some old =>
    let (n, w1) := w.draw
    (w1, if n % 2 = 0 then w.copyLoad c cell else old)

/-- Bytes of an element as they are written: one that the group has stored to since the copy's issue is left to the store or
taken by the copy, as free values choose; and the copy after it, which remembers what its cells held (13 R288, R292). -/
def W.copyWrites (w : W) (c : Copy) (bs : List (Nat × Byte)) : W × List (Nat × Byte) × Copy :=
  let c1 := { c with undo := bs.foldl (fun t b =>
    if AList.has t b.1 then t else AList.put t b.1 (w.copyLoad c b.1)) c.undo }
  let w := w.raceRecords c.ctx (bs.map fun b => (b.1, w.copyLoad c b.1))
  if c.raced.isEmpty then (w, bs, c1)
  else
    let (w1, kept) := bs.foldl (fun (x : W × List (Nat × Byte)) b =>
      if AList.has c.raced b.1 then
        let (n, w') := x.1.draw
        (w', if n % 2 = 0 then x.2 ++ [b] else x.2)
      else (x.1, x.2 ++ [b])) (w, [])
    (w1, kept, c1)

/-- The bytes of an element's source. -/
def W.copyBytes (w : W) (c : Copy) (cell : Nat) : Nat → W × List Byte
  | 0 => (w, [])
  | n + 1 =>
    let (w1, b) := w.copyByte c cell
    let (w2, r) := w1.copyBytes c (cell + 1) n
    (w2, b :: r)

/-- The source of an element. -/
def W.copySource (w : W) (c : Copy) (i : Nat) : W × Except CopyStop (List Byte) :=
  match c.dir with
  | .tileMem =>
    let t := c.y.toNat % 32
    let x : Tile := { w.tile c.block t with ctl := c.ctl }
    (w, .ok (w.m.bytes (tileKey c.block t (c.tmpl.tileIndex x i * x.size)) x.size))
  | _ =>
    match w.copySide c false (walkAddr c.x (c.tmpl.offset c.tmpl.src i)) with
    | (w1, .error e) => (w1, .error e)
    | (w1, .ok a) =>
      if w1.accPoisoned a then (w1, .error .poison)
      else
        let (w2, bs) := w1.copyBytes c a.key a.width
        (w2, .ok bs)

/-- Moves one element: the copy after it, or what stops the walk. -/
def W.copyElem (w : W) (c : Copy) (i : Nat) : W × Except CopyStop Copy :=
  match w.copySource c i with
  | (w1, .error e) => (w1, .error e)
  | (w1, .ok bs) =>
    let dst := c.tmpl.offset c.tmpl.dst i
    match c.dir with
    | .memTile =>
      let t := c.y.toNat % 32
      let x : Tile := { w1.tile c.block t with ctl := c.ctl }
      (w1.writeCells (cellsOf (tileKey c.block t (c.tmpl.tileIndex x i * x.size)) bs), .ok { c with next := i + 1 })
    | .memShared =>
      let off := fieldOf (walkAddr c.y dst).toNat 0 60
      let (w2, kept, c1) := w1.copyWrites c (cellsOf (sharedKey c.block off) bs)
      (w2.writeCells kept, .ok { c1 with next := i + 1 })
    | .multicast => (w1, .ok { c with next := i + 1, data := c.data ++ bs })
    | _ =>
      let va := walkAddr (if c.dir == .tileMem then c.x else c.y) dst
      match w1.copySide c true va with
      | (w2, .error e) => (w2, .error e)
      | (w2, .ok a) =>
        let (w3, kept, c1) := w2.copyWrites c (cellsOf a.key bs)
        ((w3.storeLoads (c.chip, c.core) (some c.ctx) (endCells [a])).placeBytes c.chip [(c.block, c.gid)] c.ctx a kept,
          .ok { c1 with next := i + 1 })

/-- Runs a walk from its next element on. -/
def W.copyRun (w : W) (c : Copy) : Nat → W × Copy × CopyStop
  | 0 => (w, c, .ended)
  | n + 1 =>
    match w.copyElem c c.next with
    | (w1, .error e) => (w1, c, e)
    | (w1, .ok c1) => w1.copyRun c1 n

/-- The rest of a copy's walk. -/
def W.copyRest (w : W) (c : Copy) : W × Copy × CopyStop := w.copyRun c (c.tmpl.count - c.next)

/-! ## Completion (13 R297, R298) -/

/-- A copy completes with a status: its tile moves and its batch hears of it (11 R237; 13 R297). -/
def W.finishCopy (w : W) (c : Copy) (status : Nat) : W :=
  let w1 : W := { w with s := { w.s with copies := AList.del w.s.copies c.op } }
  let w2 := w1.updChip c.chip fun h => { h with requests := h.requests.filter fun q => q.2 != c.op }
  let t := c.y.toNat % 32
  let ops := w.engineOps c.block
  let w3 := match c.dir with
    | .memTile => w2.updTile c.block t fun x => ({ x with writers := x.writers - 1, gen := x.gen + 1 } : Tile).restate t ops
    | .tileMem => w2.updTile c.block t fun x =>
        ({ x with readers := x.readers - 1, copyReaders := x.copyReaders - 1 } : Tile).restate t ops
    | _ => w2
  w3.completeOp c.op status (c.next * c.tmpl.size)

/-- The cells and bytes of one element of a multicast in a destination block. -/
def Copy.landing (c : Copy) (block i : Nat) (bs : List Byte) : List (Nat × Byte) :=
  cellsOf (sharedKey block (fieldOf (walkAddr c.y (c.tmpl.offset c.tmpl.dst i)).toNat 0 60)) bs

/-- The bytes that a multicast has read so far land in a destination block that is there. -/
def W.landRead (w : W) (c : Copy) (block : Nat) : W :=
  match w.block block with
  | none => w
  | some _ =>
    let bs := (upTo c.next).flatMap fun i => c.landing block i ((c.data.drop (i * c.tmpl.size)).take c.tmpl.size)
    let (w1, kept, _) := if block = c.block then w.copyWrites c bs else (w, bs, c)
    w1.writeCells kept

/-- One element beyond those that a failed copy counts: free values decide whether it has been written (13 R298). -/
def W.strayElem (w : W) (c : Copy) (i : Nat) : W :=
  let (n, w1) := w.draw
  if n % 2 = 0 then w1
  else if c.dir == .multicast then
    match w1.copySource c i with
    | (w2, .ok bs) => w2.each c.dests fun w d =>
        let (m, w') := w.draw
        if m % 2 = 0 || (w'.block d.2).isNone then w' else w'.writeCells (c.landing d.2 i bs)
    | _ => w1
  else match w1.copyElem c i with
    | (w2, .ok _) => w2
    | _ => w1

/-- A copy completes with an error: the bytes it counts have landed, and of those beyond them any may have been written
(13 R298, R465). -/
def W.failCopy (w : W) (c : Copy) (status : Nat) : W :=
  let w1 := if c.dir == .multicast then w.each c.dests fun w d => w.landRead c d.2 else w
  (w1.each (rangeFrom c.next c.tmpl.count) fun w i => w.strayElem c i).finishCopy c status

/-- A copy's walk that was held can go on. -/
def W.resumeWalk (w : W) (op : Nat) : W :=
  { w with s := { w.s with copies := AList.upd w.s.copies op fun c => { c with linkOut := none, migOut := none } } }

/-- COPY_COMPLETE: a started copy whose walk can run on does so and completes; a multicast completes once its arrivals have
landed or been discarded (13 R296 to R298, R465). -/
def W.completeCopy (w : W) (op : Nat) : W :=
  match AList.get? w.s.copies op with
  | none => w
  | some c =>
    if c.st ≠ .running then w
    else
      let (w1, c1, stop) := w.copyRest c
      match stop with
      | .ended =>
        if c.dir == .multicast then
          (if c.dests.isEmpty then w.finishCopy c1 (if c.late then stLATE else stOK) else w)
        else w1.finishCopy c1 stOK
      | .poison => w1.failCopy c1 stPOISON
      | .refused => w1.failCopy c1 stXLATE
      | _ => w

/-- COPY_WALK_FAULT: the walk meets a translation fault, for which the management processor raises COPYXLATE, or a link that
is out or a MIGRATING page, for which it holds the walk (13 R298; 17 R403). -/
def W.faultCopy (w : W) (op : Nat) : W :=
  match AList.get? w.s.copies op with
  | none => w
  | some c =>
    if c.st ≠ .running then w
    else
      let (w1, c1, stop) := w.copyRest c
      match stop with
      | .fault va write =>
        let n := (w1.chip c.chip).nextRequest
        let w2 : W := { w1 with s := { w1.s with copies := AList.put w1.s.copies op { c1 with st := .held n w.s.now } } }
        let w3 := w2.updChip c.chip fun h => { h with requests := AList.put h.requests n op, nextRequest := (n + 1) % 2 ^ 32 }
        w3.event c.chip 0x05 c.ctx 0 (bytesOf 8 va.toNat ++ bytesOf 4 n ++ [if write then 1 else 0, 0, 0, 0])
      | .link =>
        let since := if c1.next = c.next then c.linkOut.or (some w.s.now) else some w.s.now
        { w1 with s := { w1.s with copies := AList.put w1.s.copies op { c1 with linkOut := since, migOut := none } } }
      | .migrating =>
        let since := if c1.next = c.next then c.migOut.or (some w.s.now) else some w.s.now
        { w1 with s := { w1.s with copies := AList.put w1.s.copies op { c1 with linkOut := none, migOut := since } } }
      | _ => w

/-- A started copy walks on over some elements, as far as nothing stops it (13 R288, R292). -/
def W.walkSome (w : W) (op n : Nat) : W :=
  match AList.get? w.s.copies op with
  | none => w
  | some c =>
    if c.st ≠ .running then w
    else
      let (w1, c1, stop) := w.copyRun c (min n (c.tmpl.count - c.next))
      if stop ≠ .ended then w
      else ({ w1 with s := { w1.s with copies := AList.put w1.s.copies op c1 } } : W).resumeWalk op

/-- System software's answer to a COPYXLATE request (13 R298). -/
def W.answerCopy (w : W) (chip request : Nat) (resume : Bool) : W :=
  match AList.get? (w.chip chip).requests request with
  | none => w
  | some op =>
    match AList.get? w.s.copies op with
    | none => w
    | some c =>
      if resume then
        let w1 : W := { w with s := { w.s with copies := AList.put w.s.copies op { c with st := .running } } }
        w1.updChip chip fun h => { h with requests := AList.del h.requests request }
      else w.failCopy c stXLATE

/-- Whether a time since when something has been so is 1 ms past. -/
def W.aMsPast (w : W) (since : Option Nat) : Bool := since.any fun t => decide (t + 1000000 ≤ w.s.now)

/-- COPY_LINK_TIMEOUT: a walk held for a link that is still out after 1 ms, or for a page still MIGRATING, completes with LINK
(13 R298; 17 R403). -/
def W.timeoutCopy (w : W) (op : Nat) : W :=
  match AList.get? w.s.copies op with
  | none => w
  | some c =>
    if c.linkOut.isNone && c.migOut.isNone then w
    else
      let (w1, c1, stop) := w.copyRest c
      match stop with
      | .link => if w.aMsPast c.linkOut then w1.failCopy c1 stLINK else w
      | .migrating => if w.aMsPast c.migOut then w1.failCopy c1 stLINK else w
      | _ => w.resumeWalk op

/-- MCAST_ARRIVAL: the walk's bytes land in one destination block, or are discarded where its instance number names no
block any more (13 R295, R296). -/
def W.landMulticast (w : W) (op dest : Nat) : W :=
  match AList.get? w.s.copies op with
  | none => w
  | some c =>
    if c.st ≠ .running ∨ c.dir ≠ .multicast then w
    else match c.dests.find? fun d => d.1 == dest with
      | none => w
      | some d =>
        let (w1, c1, stop) := w.copyRest c
        if stop ≠ .ended then w
        else
          let rest := c.dests.filter fun x => x.1 != dest
          match w1.block d.2 with
          | none => { w1 with s := { w1.s with copies := AList.put w1.s.copies op { c1 with dests := rest, late := true } } }
          | some _ =>
            let w2 := w1.landRead c1 d.2
            { w2 with s := { w2.s with copies := AList.put w2.s.copies op { c1 with dests := rest } } }

/-- VTOT_LAND: a `vtot`'s write lands and its tile leaves FILLING (11 R237, R243). -/
def W.landVtot (w : W) (block t : Nat) : W :=
  let x := w.tile block t
  if x.st != .filling || x.writers == x.engineWriters || w.s.copies.any (fun c => c.2.block == block && c.2.dir == .memTile &&
      c.2.y.toNat % 32 == t && (match c.2.st with
        | .running => true
        | .held _ _ => true
        | _ => false)) then w
  else (w.writeCells x.landing).updTile block t fun y =>
    ({ y with writers := y.writers - 1, gen := y.gen + 1, landing := [] } : Tile).restate t (w.engineOps block)

end Sys2Proof.Machine
end

