-- ==== Sys2Proof/Machine/Reduce.lean ====
section
/-! DEFINITION. Reductions at memory, reduction windows and collectives (14 R315, R334 to R343; 17 R398 to R400). -/
namespace Sys2Proof.Machine

/-! ## Unit operations -/

/-- The chips that a collective's lanes name. -/
def UnitOp.targetChips : UnitOp → List Nat
  | .put ts => ts.map fun t => t.1
  | .get _ _ _ _ ts => ts.map fun t => t.2.1
  | .cred _ _ ts => ts.map fun t => t.2.1
  | _ => []

/-- The packets that a unit operation sends to a destination chip: of `cred`, one for each path that carries lanes (14 R340;
18 R416). -/
def UnitOp.packetsTo (k : UnitOp) (d : Nat) : Nat :=
  match k with
  | .cred _ paths ts =>
    let p := max 1 (AList.getD paths d 1)
    ((ts.filter fun t => t.2.1 == d).map fun t => t.1 % p).eraseDups.length
  | _ => 1

/-- A unit operation joins a batch of its group and is in flight (13 R281, R287). -/
def W.startUnit (w : W) (a : At) (cls : Nat) (kind : UnitOp) (descriptor : Option (List Byte)) : W :=
  let (op, w1) := w.fresh
  let u : UnitRec := { op := op, grp := a.r, owner := (a.g.block, a.g.gid), ctx := a.g.ctx, kind := kind }
  let w2 := w1.each kind.targetChips.eraseDups fun w d => w.each (upTo (kind.packetsTo d)) fun w _ => w.transportSend a.r.chip d op
  ({ w2 with s := { w2.s with units := AList.put w2.s.units op u } } : W).joinBatch a.r cls op 0 descriptor

/-- A unit operation completes with a status (13 R297). -/
def W.endUnit (w : W) (op status : Nat) : W :=
  let w1 : W := { w with s := { w.s with units := AList.del w.s.units op } }
  w1.completeOp op status 0

/-- A unit operation completes with LINK: the lanes a `cget` was to write take free values (13 R297). -/
def W.endLink (w : W) (u : UnitRec) : W :=
  match u.kind with
  | .get vd et gop _ ts =>
    let (w1, vs) := ts.foldl (fun (acc : W × List (Nat × Nat)) t =>
      let (n, w') := acc.1.draw
      (w', acc.2 ++ [(t.1, n % 2 ^ 32)])) (w, [])
    (w1.giveResult u.owner gop fun g => strongWrites (.vector vd et) g vs).endUnit u.op stLINK
  | _ => w.endUnit u.op stLINK

/-- The part of a unit operation that needs links: it goes on when they are live, completes with LINK where every link is
fenced or one has been out for 1 ms, and waits otherwise (13 R297; 18 R417). -/
def W.unitLinked (w : W) (u : UnitRec) (rs : List Reach) (k : W → W) : W :=
  if rs.any fun r => r == .fenced then w.endLink u
  else if rs.all fun r => r == .live then
    k (if u.linkOut.isNone then w else { w with s := { w.s with units := AList.put w.s.units u.op { u with linkOut := none } } })
  else match u.linkOut with
    | none => { w with s := { w.s with units := AList.put w.s.units u.op { u with linkOut := some w.s.now } } }
    | some t => if t + 1000000 ≤ w.s.now then w.endLink u else w

/-- The links that a unit operation of a group needs: the group's own to its CLD and the way on from there (01 R10; 18 R417). -/
def W.unitWays (w : W) (u : UnitRec) : List Reach :=
  match u.kind with
  | .reduce _ _ accs => accs.map fun a => w.reach u.grp.chip a.1.path
  | .launch _ => [w.dieReach u.grp.chip]
  | k => (w.dieReach u.grp.chip) :: k.targetChips.eraseDups.map fun c => w.cldReach u.grp.chip c

/-- An element takes the result of a reduction on its old value, and whether a byte of it was poisoned: the written bytes land
and lose their marks, with a free value, since the old one cannot be read (14 R325, R326; DEDUCED, log 24). -/
def W.reduceAt (w : W) (cell width : Nat) (f : Nat → Nat) : W × Bool :=
  if (upTo width).any fun i => w.poisoned (cell + i) then
    let (n, w1) := w.draw
    (w1.writeCells (cellsOf cell (bytesOf width n)), true)
  else (w.writeCells (cellsOf cell (bytesOf width (f (w.homeValue cell width)))), false)

/-- Reductions at their elements in order, and whether any met poison. -/
def W.reduceAll (w : W) : List (Nat × Nat × (Nat → Nat)) → W × Bool
  | [] => (w, false)
  | (cell, width, f) :: r =>
    let (w1, bad) := w.reduceAt cell width f
    let (w2, bads) := w1.reduceAll r
    (w2, bad || bads)

/-- A list in an order that free values choose. -/
def W.shuffle {α : Type} (w : W) : Nat → List α → W × List α
  | 0, xs => (w, xs)
  | n + 1, xs =>
    if xs.isEmpty then (w, [])
    else
      let (k, w1) := w.draw
      let i := k % xs.length
      match xs[i]? with
      | none => (w1, xs)
      | some x =>
        let (w2, r) := w1.shuffle n (xs.eraseIdx i)
        (w2, x :: r)

/-! ## vredadd, vredmin, vredmax (14 R315, R334, R335) -/

/-- The lane's checks of an ordered reduction: inside the open window, before the rest of 14 R327 (14 R335). -/
def W.orderedChecks (w : W) (a : At) (xs : List (Nat × Nat × DWord)) : AllChk :=
  gather (xs.map fun x =>
    let outside' := match a.g.window with
      | none => true
      | some k => decide (x.2.2.toNat < k.base.toNat ∨ k.base.toNat + k.len < x.2.2.toNat + x.2.1)
    match w.checkWindow a.r.chip a.g x.1 x.2.1 x.2.2 with
    | some (.flt f) => if f.code = fcWINDOW then .flt f
        else if outside' then .flt { code := fcWINDOW, detail := 2, tval := some x.2.2 } else .flt f
    | _ => if outside' then .flt { code := fcWINDOW, detail := 2, tval := some x.2.2 }
           else w.checkAccess a .atomic false x.1 x.2.1 x.2.2)

/-- The key of a group (14 R337). -/
def W.groupKey (w : W) (r : GroupRef) (g : Group) : GroupKey :=
  { pkg := w.packageIndex (pkgOf r.chip), chip := r.chip % 4, core := r.core,
    bid := ((w.block g.block).map Block.bid).getD 0, gid := g.gid }

/-- Ordered contributions reach the home's record of the group's window; the record of a window already combined takes none
(14 R335, R337). -/
def W.contribute (w : W) (a : At) (op : Nat) (accs : List Acc) (value : Nat → Nat) : W :=
  match a.g.window with
  | none => w
  | some k =>
    { w with s := { w.s with windows := AList.upd w.s.windows k.home fun h =>
        (if h.number = k.number ∧ k.lost = false then { h with parts := h.parts ++ accs.map fun c =>
            ({ key := w.groupKey a.r a.g, cell := c.key, width := c.width, op := op, etype := modeE a.e.mode,
               value := value c.lane, owner := (pkgOf a.r.chip, a.g.ctx) } : Contribution) } else h) } }

/-- A reduction: 0 add, 1 min, 2 max. -/
def reductionBody (op s d o : Nat) (w : W) (x : At) : Did :=
  let xs := x.laneAddrs s o
  let ordered := modeO x.e.mode == 5
  let value := fun (l : Nat) => x.elem x.ty d l
  match (if ordered then w.orderedChecks x xs else w.checkAll x .atomic false xs) with
  | .flt f => .refuse (w.useWalks x xs) f
  | .walk ps => .stall (w.each ps fun w p => w.joinWalk x.r x.g.ctx p) .memTranslation
  | .gone => .stall w.noFrame .memTranslation
  | .ok accs =>
    (w.useWalks x xs).watched x false true accs fun w =>
      w.ordered x (modeO x.e.mode == 2) false (modeSC x.e.mode) fun w =>
        match w.flushOps x.r with
        | (false, w1) => (false, w1)
        | (true, w1) =>
          let w2 := w1.issueWrite x accs
          if ordered then
            let rs := accs.map fun c => w2.reach x.r.chip c.path
            if rs.any (fun r => r == .held) then (false, w2)
            else
              let (n, w3) := w2.fresh
              let fenced := rs.any fun r => r == .fenced
              let w4 := (w3.joinBatch x.r clsRd n 0 none).completeOp n (if fenced then stLINK else stOK) 0
              (true, if fenced then w4 else w4.contribute x op accs value)
          else (true, w2.startUnit x clsRd (.reduce op (modeE x.e.mode) (accs.map fun c => (c, value c.lane))) none)

/-- The issue of a reduction. -/
def reductionIssue (i : Instr) (k : Bool) (op s d o : Nat) (st : State) : Host.Outcome State Fault Refusal :=
  issue { i := i, k := k, chk := memChk atomicType [0, 2, 5] s d o true false, region := outside
          body := reductionBody op s d o } st

/-- vredadd (14 R334). -/
def execVredadd (k : Bool) (s : BitVec 8) (d o : BitVec 7) (st : State) : Host.Outcome State Fault Refusal :=
  reductionIssue (.vredadd k s d o) k 0 s.toNat d.toNat o.toNat st
/-- vredmin (14 R334). -/
def execVredmin (k : Bool) (s : BitVec 8) (d o : BitVec 7) (st : State) : Host.Outcome State Fault Refusal :=
  reductionIssue (.vredmin k s d o) k 1 s.toNat d.toNat o.toNat st
/-- vredmax (14 R334). -/
def execVredmax (k : Bool) (s : BitVec 8) (d o : BitVec 7) (st : State) : Host.Outcome State Fault Refusal :=
  reductionIssue (.vredmax k s d o) k 2 s.toNat d.toNat o.toNat st

/-- REDUCTION_COMPLETE: an unordered reduction is applied, its lanes in an unspecified order, once every line it names is
free at its home; the status is POISON where an element was poisoned (14 R311, R315, R326; 13 R297; DEDUCED, log 24). -/
def W.completeReduction (w : W) (op : Nat) : W :=
  match AList.get? w.s.units op with
  | none => w
  | some u =>
    match u.kind with
    | .reduce o et accs =>
      w.unitLinked u (w.unitWays u) fun w =>
        let w0 := w.each ((accs.map fun x => lineOf x.1.key).eraseDups) fun w l => w.checkInLine [u.owner] u.grp.chip l
        let (w1, free) := w0.claim (accs.map fun a => a.1.key)
        if !free then w1
        else
          let (w2, order) := w1.shuffle accs.length accs
          let t := (etypeOf et).getD .i32
          let (w3, bad) := w2.reduceAll (order.map fun a => (a.1.key, a.1.width, fun old => atomicNew (reduceOp o) t old a.2 0))
          w3.endUnit op (if bad then stPOISON else stOK)
    | _ => w

/-! ## Windows (14 R335 to R337, R341) -/

/-- Whether `rwin` accepts three scalars, the page apart (14 R335). -/
def windowLimits (base len count : Nat) : Bool :=
  decide (base < 2 ^ 56) && base % 128 == 0 && decide (128 ≤ len ∧ len ≤ 2 ^ 20) && len % 128 == 0 &&
    decide (1 ≤ count ∧ count ≤ 4096)

/-- The pages that a window covers past the page of its base. -/
def windowPages (base len : Nat) : List Nat := rangeFrom (base / 65536 + 1) ((base + len - 1) / 65536 + 1)

/-- What the home CLD holds of a window: its record, made by the first `rwin` of its base, or one that differs from it
(14 R335). -/
def W.openWindow (w : W) (base len count : Nat) : W × Nat :=
  match AList.get? w.s.windows base with
  | none =>
    let (m, w1) := w.fresh
    ({ w1 with s := { w1.s with windows := AList.put w1.s.windows base { len := len, count := count, number := m } } }, m)
  | some h =>
    let differs := h.len != len || h.count != count
    ({ w with s := { w.s with windows := AList.put w.s.windows base { h with mismatch := h.mismatch || differs } } }, h.number)

/-- rwin: opens the group's reduction window (14 R335, R336, R343). A home behind fenced links takes no record: the operation
completes with LINK, and so do those of the window (18 R417; DESIGN CHOICE, log 110). -/
def execRwin (k : Bool) (s : BitVec 8) (st : State) : Host.Outcome State Fault Refusal :=
  issue
    { i := .rwin k s, k := k, region := outside
      chk := fun _ => { use := { sr := [s.toNat, s.toNat + 1, s.toNat + 2] } }
      body := fun w x =>
        let base := x.sval s.toNat
        let len := (x.sval (s.toNat + 1)).toNat
        let count := (x.sval (s.toNat + 2)).toNat
        let limit := Did.refuse w { code := fcWINDOW, detail := 5, tval := some base }
        let replicated := fun (page : Nat) => match w.groupLookup x (page * 65536) with
          | some (.leaf e _ _) => leafKind e == 2
          | _ => false
        let pages := windowPages base.toNat len
        if x.g.window.isSome then .refuse w { code := fcWINDOW, detail := 3, tval := some base }
        else if !windowLimits base.toNat len count || replicated (base.toNat / 65536) then limit
        else w.withAccess x .atomic false [(0, 1, base)] fun w accs =>
          match pages.find? replicated, pages.filter fun p => (w.groupLookup x (p * 65536)).isNone with
          | some p, _ => .refuse w { code := fcTABLE, detail := 1, tval := some (BitVec.ofNat 64 (p * 65536)) }
          | none, q :: qs => .stall (w.each (q :: qs) fun w p => w.joinWalk x.r x.g.ctx p) .memTranslation
          | none, [] =>
            match accs with
            | [] => .next w x
            | c :: _ =>
              match w.flushOps x.r with
              | (false, w1) => .stall w1 .memOrder
              | (true, w1) =>
                let way := w1.reach x.r.chip c.path
                let open' := w1.s.windows.filter fun h => homeOf h.1 == homeOf c.key
                if way = .held then .stall w1 .memTranslation
                else if way = .live && (AList.get? w1.s.windows c.key).isNone && decide (16 ≤ open'.length) then .stall w1 .memQueue
                else
                  let (n, w2) := w1.fresh
                  let (w3, m) := if way = .fenced then (w2, 0) else w2.openWindow c.key len count
                  .next (((w3.joinBatch x.r clsRd n 0 none).completeOp n (if way = .fenced then stLINK else stOK) 0).updGroup x.r
                    fun g => { g with window := some {
                        base := base, len := len, count := count, home := c.key, path := c.path, number := m, lost := way == .fenced } }) x } st

/-- rwcl: closes the group's window; its operation completes when the window has been combined (14 R336). -/
def execRwcl (k : Bool) (st : State) : Host.Outcome State Fault Refusal :=
  issue
    { i := .rwcl k, k := k, region := outside, chk := fun _ => {}
      body := fun w x =>
        match x.g.window with
        | none => .refuse w { code := fcWINDOW, detail := 4, tval := some 0 }
        | some o =>
          match w.flushOps x.r with
          | (false, w1) => .stall w1 .memOrder
          | (true, w1) =>
            let way := w1.reach x.r.chip o.path
            if way = .held then .stall w1 .memTranslation else
            let (n, w2) := w1.fresh
            let w3 := w2.updGroup x.r fun g => { g with window := none }
            let lost := way == .fenced || o.lost
            match o.combined with
            | some (st, d) => .next ((w3.joinBatch x.r clsRd n 0 (some d)).completeOp n st 0) x
            | none =>
              let w4 := w3.joinBatch x.r clsRd n 0 (some [])
              if lost then .next (w4.completeOp n stLINK 0) x
              else .next { w4 with s := { w4.s with windows := AList.upd w4.s.windows o.home fun h =>
                { h with closed := h.closed ++ [(n, x.r, w4.groupKey x.r x.g)] } } } x } st

/-- Whether one key stands before another: package, chip, core, `%bid`, `%gid` (14 R337). -/
def GroupKey.before (a b : GroupKey) : Bool :=
  decide (a.pkg < b.pkg) || (a.pkg == b.pkg && (decide (a.chip < b.chip) || (a.chip == b.chip &&
    (decide (a.core < b.core) || (a.core == b.core && (decide (a.bid < b.bid) || (a.bid == b.bid && decide (a.gid < b.gid))))))))

/-- Inserts a key and value in order of keys. -/
def insertKey (x : GroupKey × Nat) : List (GroupKey × Nat) → List (GroupKey × Nat)
  | [] => [x]
  | y :: r => if x.1.before y.1 then x :: y :: r else y :: insertKey x r

/-- A left fold of a list's values by nodes: successive Op from the first element (14 R337). -/
def foldRuns (same : GroupKey → GroupKey → Bool) (f : Nat → Nat → Nat) (xs : List (GroupKey × Nat)) : List (GroupKey × Nat) :=
  (xs.foldl (fun (acc : List (GroupKey × Nat)) x =>
    match acc with
    | [] => [x]
    | y :: r => if same y.1 x.1 then (y.1, f y.2 x.2) :: r else x :: acc) []).reverse

/-- The root of an element's tree (14 R337). -/
def windowRoot (f : Nat → Nat → Nat) (parts : List (GroupKey × Nat)) : Option Nat :=
  let groups := foldRuns (fun a b => a == b) f (parts.foldl (fun acc x => insertKey x acc) [])
  let cores := foldRuns (fun a b => a.pkg == b.pkg && a.chip == b.chip && a.core == b.core) f groups
  let chips := foldRuns (fun a b => a.pkg == b.pkg && a.chip == b.chip) f cores
  let packages := foldRuns (fun a b => a.pkg == b.pkg) f chips
  (foldRuns (fun _ _ => true) f packages).head?.map Prod.snd

/-- The descriptor of `rwcl`: one record per contributing core (14 R341). -/
def windowDescriptor (closed : List GroupKey) : List Byte :=
  let sorted := closed.foldl (fun acc k => insertKey (k, 1) acc) []
  (foldRuns (fun a b => a.pkg == b.pkg && a.chip == b.chip && a.core == b.core) (· + ·) sorted).flatMap fun x =>
    bytesOf 1 x.1.pkg ++ bytesOf 1 x.1.chip ++ bytesOf 1 x.1.core ++ bytesOf 2 x.2 ++ [0, 0, 0]

/-- Contributions of one operation and type folded together, in any order and grouping, as free values choose (14 R335). -/
def W.foldSome (w : W) : Nat → List Contribution → W × List Contribution
  | 0, ps => (w, ps)
  | n + 1, ps =>
    let (k, w1) := w.draw
    if k % 2 = 0 then w1.foldSome n ps
    else match w1.shuffle ps.length ps with
      | (w2, p :: q :: r) =>
        if p.op = q.op ∧ p.etype = q.etype then
          w2.foldSome n ({ p with value := atomicNew (reduceOp p.op) ((etypeOf p.etype).getD .i32) p.value q.value 0 } :: r)
        else w2.foldSome n (p :: q :: r)
      | (w2, qs) => w2.foldSome n qs

/-- An element after a window whose groups' values differ, or whose contributions mix: the value before, or any subset of
the contributions applied, singly or folded, as free values choose (14 R335, R337). -/
def W.anySubset (w : W) (cell width : Nat) (parts : List Contribution) : W :=
  let (w0, folded) := w.foldSome parts.length parts
  let (w1, order) := w0.shuffle folded.length folded
  w1.each order fun w p =>
    let (n, w2) := w.draw
    if n % 2 = 0 then w2
    else (w2.reduceAt cell width fun old => atomicNew (reduceOp p.op) ((etypeOf p.etype).getD .i32) old p.value 0).1

/-- WINDOW_COMBINE: once the declared count of groups have issued `rwcl`, every element is combined and applied, and the
`rwcl` operations complete, with POISON where an element was poisoned (13 R297; 14 R325, R335 to R337). -/
def W.combineWindow (w : W) (base : Nat) : W :=
  match AList.get? w.s.windows base with
  | none => w
  | some h =>
    let elements := (h.parts.map fun p => (p.cell, p.width)).eraseDups
    let (w0, free) := w.secure (elements.map fun x => lineOf x.1).eraseDups
    let bad := elements.any fun x => (upTo x.2).any fun i => w0.poisoned (x.1 + i)
    if h.closed.length < h.count then w
    else if !free then w0
    else
      let mixed := h.mismatch || (match h.parts with
        | [] => false
        | p :: r => r.any fun q => q.op != p.op || q.etype != p.etype)
      let w1 := w0.each elements fun w x =>
        let parts := h.parts.filter fun p => p.cell == x.1 && p.width == x.2
        if mixed then w.anySubset x.1 x.2 parts
        else match parts with
          | [] => w
          | p :: _ =>
            let t := (etypeOf p.etype).getD .i32
            let f := fun a b => atomicNew (reduceOp p.op) t a b 0
            match windowRoot f (parts.map fun p => (p.key, p.value)) with
            | some root => (w.reduceAt x.1 x.2 fun old => f old root).1
            | none => w
      let d := windowDescriptor (h.closed.map fun c => c.2.2)
      let w2 : W := { w1 with s := { w1.s with windows := AList.del w1.s.windows base } }
      let w3 := w2.allGroups fun g => { g with window := g.window.map fun o =>
        (if o.home = base ∧ o.number = h.number then { o with combined := some (if bad then stPOISON else stOK, d) } else o) }
      w3.each h.closed fun w c => (w.describeOp c.1 d).completeOp c.1 (if bad then stPOISON else stOK) 0

/-! ## Collectives (14 R338 to R340) -/

/-- Types of the collectives (14 R338). -/
def collectiveType (t : EType) : Bool := t == .i32 || t == .n32 || t == .f32

/-- Whether an invalidation in progress is about to take a cached aperture entry (17 R407, R408). -/
def W.apertureDoomed (w : W) (chip ctx i : Nat) : Bool :=
  w.s.chips.any fun h => pkgOf h.1 == pkgOf chip && match h.2.inval with
    | some v => v.gone.isNone && apertureInvalidated ctx i v.value
    | none => false

/-- An aperture entry as a collective reads it: from the chip's cache, or read and cached (17 R399). One that an invalidation is
about to take serves or not, by a free value (17 R408). -/
def W.aperture (w : W) (chip ctx i : Nat) : W × Nat :=
  let doomed := w.apertureDoomed chip ctx i
  let (n, w1) := if doomed then w.draw else (0, w)
  match AList.get? w1.s.apertures (chip, ctx, i) with
  | some e => if doomed && n % 2 == 1 then (w1, w1.apertureEntry (pkgOf chip) ctx i) else (w1, e)
  | none =>
    let e := w1.apertureEntry (pkgOf chip) ctx i
    (if doomed then w1 else { w1 with s := { w1.s with apertures := AList.put w1.s.apertures (chip, ctx, i) e } }, e)

/-- CWLEN in bytes. -/
def cwLen (e : Nat) : Nat := fieldOf e 64 16 * 65536
/-- CWBASE as an address. -/
def cwBase (e : Nat) : Nat := fieldOf e 80 36 * 65536

/-- A lane's target: its aperture entry, chip and cell; a fault in the order of 14 R339; or no such frame. -/
def W.collectiveLane (w : W) (x : At) (p a l : Nat) (e : Nat) : Except (Option Flt) (Nat × Nat) :=
  let peer := x.lane p l
  let off := x.lane a l
  let flt := fun (code detail : Nat) => Except.error (some ({ code := code, detail := detail, tval := some (BitVec.ofNat 64 off) } : Flt))
  if peer / 64 != 0 || decide (cwLen e < off + 4) then flt fcWINDOW 6
  else if off % 4 != 0 then flt fcALIGN l
  else if !apertureOn e then flt fcNOMAP (4 * 32 + l)
  else
    let chip := w.apertureChip (pkgOf x.r.chip) e
    let seat := w.seat chip
    if seat.st != .off && (seat.offsetOf (cwBase e + off)).isSome then flt fcTABLE 1
    else match chipCell chip (cwBase e + off) with
      | some c => .ok (chip, c)
      | none => .error none

/-- The targets of the enabled lanes, ascending: lane, entry, chip, cell; or the fault of the lowest lane that has one. -/
def W.collectiveLanes (w : W) (x : At) (p a : Nat) : List Nat → W × Except (Option Flt) (List (Nat × Nat × Nat × Nat))
  | [] => (w, .ok [])
  | l :: ls =>
    let (w1, e) := if x.lane p l / 64 = 0 then w.aperture x.r.chip x.g.ctx (x.lane p l) else (w, 0)
    match w1.collectiveLane x p a l e with
    | .error f => (w1, .error f)
    | .ok (chip, c) =>
      match w1.collectiveLanes x p a ls with
      | (w2, .error f) => (w2, .error f)
      | (w2, .ok r) => (w2, .ok ((l, e, chip, c) :: r))

/-- The checks of a collective: data, peers and offsets in whole registers; inside a region its REGION goes before MODEVAL
(14 R338, R339). -/
def collectiveChk (order : List Nat) (d p a : Nat) (writes : Bool) (x : At) : Chk :=
  { use := { vr := (if writes then [] else [d]) ++ [p, a], vw := if writes then [d] else [] }
    typ := match x.etype with
      | some t => !collectiveType t
      | none => true
    modeval := if x.g.region.isSome then none else orderDetail order x }

/-- A collective: its targets, then the operation in flight. -/
def collectiveBody (p a : Nat) (start : W → At → List (Nat × Nat × Nat × Nat) → W) (w : W) (x : At) : Did :=
  match w.collectiveLanes x p a (lanesIn x.enabled) with
  | (w1, .error (some f)) => .refuse w1 f
  | (w1, .error none) => .stall w1.noFrame .memTranslation
  | (w1, .ok ts) =>
    w1.ordered x (modeO x.e.mode == 2) false (modeSC x.e.mode) fun w =>
      match w.flushOps x.r with
      | (false, w2) => (false, w2)
      | (true, w2) => (true, start w2 x ts)

/-- cput: vdata at each lane's target (14 R339). -/
def execCput (k : Bool) (d p a : BitVec 7) (st : State) : Host.Outcome State Fault Refusal :=
  issue
    { i := .cput k d p a, k := k, chk := collectiveChk [0, 2] d.toNat p.toNat a.toNat false, region := outside
      body := collectiveBody p.toNat a.toNat fun w x ts =>
        (w.startUnit x clsCo (.put (ts.map fun t => (t.2.2.1, t.2.2.2, x.lane d.toNat t.1))) none).storeLoads (coreKey x.r)
          (some x.g.ctx) (ts.map fun t => t.2.2.2) } st

/-- cget: each lane's target into vdata (14 R339). -/
def execCget (k : Bool) (d p a : BitVec 7) (st : State) : Host.Outcome State Fault Refusal :=
  issue
    { i := .cget k d p a, k := k, chk := collectiveChk [0, 1] d.toNat p.toNat a.toNat true, region := outside
      body := collectiveBody p.toNat a.toNat fun w x ts =>
        match w.group x.r with
        | none => w
        | some g =>
          let acq := isAcq (modeO x.e.mode)
          let w1 := w.pushOp x.r (.external [d.toNat] []) 0 true none acq
          let w2 := w1.startUnit x clsCo (.get d.toNat (modeE x.e.mode) g.nextOp (if acq then some (modeSC x.e.mode) else none)
            (ts.map fun t => (t.1, t.2.2.1, t.2.2.2, x.lane a.toNat t.1))) none
          if acq then w2.acquireLoads x.r x.g.ctx else w2 } st

/-- cred: vdata added at each lane's target, by path (14 R339 to R341). -/
def execCred (k : Bool) (d p a : BitVec 7) (st : State) : Host.Outcome State Fault Refusal :=
  issue
    { i := .cred k d p a, k := k, chk := collectiveChk [0, 2] d.toNat p.toNat a.toNat false, region := outside
      body := collectiveBody p.toNat a.toNat fun w x ts =>
        let dests := (ts.map fun t => (tableChip t.2.1, t.2.2.1)).eraseDups
        let paths := dests.map fun t => (t.2, w.livePaths x.r.chip t.2)
        let sorted := (upTo 16).flatMap fun n => dests.filter fun t => t.1 == n
        let desc := sorted.flatMap fun t =>
          bytesOf 1 t.1 ++ bytesOf 1 (AList.getD paths t.2 0) ++ [0, 0, 0, 0, 0, 0]
        (w.startUnit x clsCo (.cred (modeE x.e.mode) paths (ts.map fun t => (t.1, t.2.2.1, t.2.2.2, x.lane d.toNat t.1)))
          (some desc)).storeLoads (coreKey x.r) (some x.g.ctx) (ts.map fun t => t.2.2.2) } st

/-- The sum that a `cred` adds at one target: the lanes of each path ascending, then the paths ascending (14 R340). -/
def credSum (t : EType) (paths : Nat) (lanes : List (Nat × Nat)) : Option Nat :=
  let add := fun a b => atomicNew .add t a b 0
  let fold := fun (xs : List Nat) => match xs with
    | [] => none
    | x :: r => some (r.foldl add x)
  fold ((upTo (max 1 paths)).filterMap fun q => fold ((lanes.filter fun l => l.1 % max 1 paths == q).map Prod.snd))

/-- What the issuing chip holds checked out of a collective's targets goes home first; whether the lines are free there
(14 R321, R339). -/
def W.secureOwn (w : W) (u : UnitRec) (cells : List Nat) : W × Bool :=
  (w.each ((cells.map lineOf).eraseDups) fun w l => w.checkInLine [u.owner] u.grp.chip l).claim cells

/-- The lanes of a `cget`, lane and value, and the first that met poison: that lane's value is free (14 R326). -/
def W.getLanes (w : W) : List (Nat × Nat × Nat × Nat) → W × List (Nat × Nat) × Option (Nat × Nat)
  | [] => (w, [], none)
  | t :: r =>
    let bad := (upTo 4).any fun i => w.poisoned (t.2.2.1 + i)
    let (w1, v) := if bad then (let (n, w') := w.draw
                                (w', n % 2 ^ 32)) else (w, w.homeValue t.2.2.1 4)
    let (w2, vs, f) := w1.getLanes r
    (w2, (t.1, v) :: vs, if bad then some (t.1, t.2.2.2) else f)

/-- COLLECTIVE_COMPLETE: a collective reaches its targets, is applied or read, and completes with a status; a `cget` that is an
acquire acts as one, and one that meets poison notes the fault for the group's next marker (14 R320, R326, R339, R340;
18 R417). -/
def W.completeCollective (w : W) (op : Nat) : W :=
  match AList.get? w.s.units op with
  | none => w
  | some u =>
    match u.kind with
    | .put ts =>
      w.unitLinked u (w.unitWays u) fun w => if !w.arrived op then w else
        let w0 := w.each ((ts.map fun t => lineOf t.2.1).eraseDups) fun w l => w.checkInLine [u.owner] u.grp.chip l
        let w1 := w0.each ts fun w t =>
          let w' := w.reachHome [u.owner] (w.launchesOf [u.owner]) none (cellsOf t.2.1 (bytesOf 4 t.2.2))
          if t.1 = u.grp.chip then w' else w'.noteWrote [u.owner] t.1
        w1.endUnit op stOK
    | .get vd et gop acq ts =>
      w.unitLinked u (w.unitWays u) fun w => if !w.arrived op then w else
        let (w0, free) := w.secureOwn u (ts.map fun t => t.2.2.1)
        if !free then w0
        else
          let (w1, vs, bad) := w0.getLanes ts
          let w2 := w1.giveResult u.owner gop fun g => strongWrites (.vector vd et) g vs
          let w3 := match w2.groupOf u.owner with
            | none => w2
            | some r =>
              let w' := match acq with
                | some scope => w2.acquire r u.ctx scope
                | none => w2
              match bad with
              | some (l, off) => w'.noteLate r (0x80 + l) (BitVec.ofNat 64 off)
              | none => w'
          w3.endUnit op (if bad.isSome then stPOISON else stOK)
    | .cred et paths ts =>
      w.unitLinked u (w.unitWays u) fun w => if !w.arrived op then w else
        let cells := (ts.map fun t => (t.2.1, t.2.2.1)).eraseDups
        let (w1, free) := w.secureOwn u (cells.map Prod.snd)
        if !free then w1
        else
          let t := (etypeOf et).getD .i32
          let (w2, bad) := w1.reduceAll (cells.filterMap fun c =>
            (credSum t (AList.getD paths c.1 1) ((ts.filter fun x => x.2.2.1 == c.2).map fun x => (x.1, x.2.2.2))).map fun v =>
              (c.2, 4, fun old => atomicNew .add t old v 0))
          w2.endUnit op (if bad then stPOISON else stOK)
    | _ => w

/-! ## Outages that end -/

/-- What held the walks of copies and the units is looked at again: an outage that has ended no longer counts (13 R297, R298;
17 R403). -/
def W.lookAgain (w : W) : W :=
  let w1 := w.each (w.s.copies.filter fun c => c.2.linkOut.isSome || c.2.migOut.isSome) fun w c =>
    match (w.copyElem c.2 c.2.next).2 with
    | .error .link => w
    | .error .migrating => w
    | _ => w.resumeWalk c.1
  w1.each (w1.s.units.filter fun u => u.2.linkOut.isSome && !u.2.kind.isLaunch) fun w u =>
    if (w.unitWays u.2).all fun r => r == .live then
      { w with s := { w.s with units := AList.put w.s.units u.1 { u.2 with linkOut := none } } } else w

end Sys2Proof.Machine
end

