-- ==== Sys2Proof/Machine/Retire.lean ====
section
/-! DEFINITION. The completion tree: groups, blocks, clusters and grids retire (06 R130, R136, R137; 07 R144; 10 R228;
13 R282, R300; 05 R107, R109). -/
namespace Sys2Proof.Machine

/-! ## Leaving a slot -/

/-- Frees a group's spill-stack range (07 R466). -/
def W.freeStack (w : W) (chip ctx block gid : Nat) : W :=
  { w with s := { w.s with spillStacks := AList.upd w.s.spillStacks (chip, ctx) fun xs => xs.filter fun x => !(x.1 == block && x.2.1 == gid) } }

/-- A group leaves its slot for FREE: registers, stack and place in its block go; its launch keeps the chips it has written
(08 R157; 09 R188; 07 R144, R155, R466). -/
def W.freeGroup (w : W) (r : GroupRef) (g : Group) : W :=
  let wrote := g.wrote ++ ((g.releasing.map Releasing.waiting).getD [])
  let w0 := w.updLaunch (((w.block g.block).map Block.launch).getD 0) fun l => { l with wrote := (l.wrote ++ wrote).eraseDups }
  let w1 := ((w0.unmapAll r g).freeStack r.chip g.ctx g.block g.gid).dropGroup r
  let w2 := w1.updBlock g.block fun b =>
    { b with live := b.live.filter (· != g.gid), slots := AList.del b.slots g.gid, arrived := b.arrived.filter (· != g.gid) }
  { w2 with s := { w2.s with
      walks := w2.s.walks.map fun k => { k with joined := k.joined.filter (· != r) } } }

/-- A context with nothing resident, saved or in progress goes from RUNNING to BOUND (05 R107, R109). -/
def W.idleContext (w : W) (pkg slot : Nat) : W :=
  let c := w.context pkg slot
  let busy :=
    (w.s.groups.any fun g => pkgOf g.1.chip == pkg && g.2.ctx == slot) ||
    (w.s.clusters.any fun k => pkgOf k.2.chip == pkg && k.2.ctx == slot) ||
    (w.s.launches.any fun l => pkgOf l.2.chip == pkg && l.2.ctx == slot &&
      (l.2.st == .placing || l.2.st == .running || l.2.st == .draining))
  if c.st = .running && !busy then w.updContext pkg slot fun c => { c with st := .bound } else w

/-! ## Retirement (06 R136, R137) -/

/-- A launch whose last block has retired is DRAINING, unless SUSPEND has frozen it; its grid note is written (06 R130,
R137). -/
def W.gridDone (w : W) (launch : Nat) : W :=
  match w.launch launch with
  | none => w
  | some l =>
    if l.st == .running && l.retired == l.record.blocks && w.launchOpen l.chip l.ctx then
      (w.updLaunch launch fun l => { l with st := .draining }).note launch 3 0
    else w

/-- The bytes of a block's tiles and shared memory are gone with it. -/
def W.clearBlockCells (w : W) (block : Nat) : W :=
  { w with m := w.m.clear fun a =>
      decide ((tileKey block 0 0 ≤ a ∧ a < tileKey (block + 1) 0 0) ∨ (sharedKey block 0 ≤ a ∧ a < sharedKey (block + 1) 0)) }

/-- A block whose last group, of a given slot, has left retires; so do its cluster with its last block, and the grid
(06 R136; 10 R228; 11 R247). -/
def W.retireBlock (w : W) (r : GroupRef) (block : Nat) : W :=
  match w.block block with
  | none => w
  | some b =>
    if !b.live.isEmpty then w
    else
      let w1 := w.depart r (.cluster b.cluster) (some block)
      let w2 := w1.depart r (.grid b.launch) (some block)
      let w3 := (w2.releaseEngine block).clearBlockCells block
      let w4 : W := { w3 with s := { w3.s with blocks := AList.del w3.s.blocks block } }
      let w5 := (w4.note b.launch 1 b.bid).updLaunch b.launch fun l => { l with retired := l.retired + 1 }
      let w6 := w5.updCluster b.cluster fun c => { c with blocks := c.blocks.filter (· != block) }
      let w7 := match w6.cluster b.cluster with
        | some c =>
          if c.blocks.isEmpty then
            ({ w6 with s := { w6.s with clusters := AList.del w6.s.clusters b.cluster } } : W).note b.launch 2 c.clid
          else w6
        | none => w6
      w7.gridDone b.launch

/-- Whether no batch of a group is left, open, sealed or due to be sealed (06 R136; 13 R283). -/
def Group.batchesDone (g : Group) : Bool :=
  [clsMx, clsCp, clsCo, clsRd].all fun c => let b := g.cls c; b.opened.isEmpty && b.sealed.isEmpty && !b.sealDue

/-- Seals the open batch of every class; a class with 15 outstanding seals once one retires (13 R283). -/
def Group.sealAll (g : Group) : Group :=
  [clsMx, clsCp, clsCo, clsRd].foldl (fun g c => g.updCls c fun b =>
    if 15 ≤ b.sealed.length then { b with sealDue := true } else b.seal) g

/-- A RETIRING group whose batches have all retired, and whose accesses have all performed, retires (06 R136; 13 R300;
14 R313). -/
def W.tryRetire (w : W) (r : GroupRef) : W :=
  match w.group r with
  | none => w
  | some g0 =>
    if g0.st != .retiring || !g0.batchesDone then w
    else
      let (_, w1) := w.flushOps r
      match w1.group r with
      | none => w1
      | some g =>
        if !g.ops.isEmpty then w1
        else
          let err := [clsMx, clsCp, clsCo, clsRd].any fun c => (g.cls c).error.err
          let launch := ((w1.block g.block).map Block.launch).getD 0
          let w2 := if err then w1.halted r g.ctx g.exitAt.1.toNat fcBATCH else w1
          let w3 := (w2.freeGroup r g).note launch 0 (g.tidOf 0)
          (w3.retireBlock r g.block).idleContext (pkgOf r.chip) g.ctx

end Sys2Proof.Machine
end

