-- ==== Sys2Proof/Machine/Regroup.lean ====
section
/-! DEFINITION. Regrouping: the rendezvous of a block's groups that gathers its live lanes, and `regrp` (08 R181 to R186;
22 R453, R454). -/
namespace Sys2Proof.Machine

/-- The groups of a block in their slots, ascending `%gid`. -/
def W.blockGroups (w : W) (b : Block) : List (GroupRef × Group) :=
  (upTo b.bgroups).filterMap fun i =>
    match AList.get? b.slots i with
    | some r => (w.group r).map fun g => (r, g)
    | none => none

/-- A survivor's new lanes: position, group and lane each, positions ascending (08 R184). -/
abbrev Filling := List (Nat × Group × Nat)

/-- Cuts the live lanes of the arriving groups into survivors' fillings of 32. -/
def fillings : Nat → List (Group × Nat) → List Filling
  | 0, _ => []
  | k + 1, ls => ((ls.take 32).zipIdx.map fun x => (x.2, x.1.1, x.1.2)) :: fillings k (ls.drop 32)

/-- What a filling puts at a position: a value of the group and lane that land there, or the vacant one. -/
def Filling.at (f : Filling) (vacant : α) (g : Group → Nat → α) (p : Nat) : α :=
  match f.find? fun x => x.1 == p with
  | some x => g x.2.1 x.2.2
  | none => vacant

/-- A survivor of the rendezvous, its vector registers apart: what comes from its lowest contributor, and what is its own
(08 R184, R185). -/
def Group.survive (t : Group) (f : Filling) : Group :=
  let low := (f.head?.map fun x => x.2.1).getD t
  let le := ((low.entries.head?).map Prod.snd).getD {}
  let fill := maskOf fun p => f.any fun x => x.1 == p
  let entry : Entry := {
    pc := le.pc + 4, lanes := fill, mode := le.mode, fmt := le.fmt, pending := le.pending.map PendingRestore.counted }
  { t with
    p := (upTo 12).map fun k => (k, maskOf fun p => f.at false (fun g l => laneAt (g.pget k) l) p)
    tid := f.map fun x => (x.1, x.2.1.tidOf x.2.2)
    live := fill
    s := low.s, windows := low.windows, rgn := low.rgn, osig := low.osig
    tcause := low.tcause, tpc := low.tpc, tmask := low.tmask, tval := low.tval, tmode := low.tmode, tfmt := low.tfmt,
    tscr := low.tscr
    fflags := f.foldl (fun x y => x ||| y.2.1.fflags) 0
    quor := 0
    wrote := (t.wrote ++ f.flatMap fun x => x.2.1.wrote).eraseDups
    entries := [(0, entry)], splits := 0, lastEntry := 31
    tokens := t.tokens.filter fun k => k.1.1 != lvlGroup
    bar := { mem := f.length, rem := f.length, members := f.map fun x => x.1 } }

/-- Who owns, after a rendezvous, what lanes of some groups have written: the survivors that hold those lanes, each by the
groups its lanes come from (08 R184; 14 R307). -/
def movedOwners (block : Nat) (from' : List (Nat × List Nat)) (owners : List (Nat × Nat)) : List (Nat × Nat) :=
  (owners.flatMap fun o =>
    if o.1 == block then (from'.filter fun x => x.2.contains o.2).map fun x => (block, x.1) else [o]).eraseDups

/-- The writes on their way follow their lanes into the survivors (08 R184; 14 R307, R308). -/
def W.moveOwners (w : W) (block : Nat) (from' : List (Nat × List Nat)) : W :=
  { w with s := { w.s with
      waiting := w.s.waiting.map fun h => { h with owners := movedOwners block from' h.owners }
      directory := w.s.directory.map fun c => { c with owners := movedOwners block from' c.owners } } }

/-- REGROUP_COMPLETE (08 R184 to R186): the lanes move, survivors resume past their `regrp`, the others leave their slots. -/
def W.regroup (w : W) (arrived : List (GroupRef × Group)) : W :=
  let ls := arrived.flatMap fun x => (lanesIn x.2.live).map fun l => (x.2, l)
  let n := ceilDiv ls.length 32
  let pairs := (arrived.take n).zip (fillings n ls)
  let w1 := w.each pairs fun w x =>
    let r := x.1.1
    let t := x.1.2
    let f := x.2
    let w' := w.each (upTo t.vregs) fun w v =>
      if AList.has t.v v || f.any fun y => AList.has y.2.1.v v then
        w.setV r v (vregOf fun p => f.at 0 (fun g l => laneOf (g.vget v) l) p)
      else w
    w'.updGroup r fun g => { (g.survive f) with v := g.v }
  let w2 := w1.each (arrived.drop n) fun w x =>
    let w' := w.depart x.1 (.block x.2.block) (some x.2.gid)
    w'.freeGroup x.1 ((w'.group x.1).getD x.2)
  let block := (arrived.head?.map fun x => x.2.block).getD 0
  (w2.moveOwners block (pairs.map fun x => (x.1.2.gid, x.2.map fun y => y.2.1.gid))).updBlock block fun b => { b with arrived := [] }

/-- The rendezvous completes once every live group of the block has arrived, none stopped, and none has a batch left or an
access still to perform (08 R182). -/
def W.tryRegroup (w : W) (block : Nat) : Bool × W :=
  match w.block block with
  | none => (false, w)
  | some b =>
    let live := (w.blockGroups b).filter fun x => x.2.live != 0
    if b.arrived.isEmpty || live.isEmpty || !(live.all fun x => b.arrived.contains x.2.gid && x.2.batchesDone && x.2.st != .stopped) then (false, w)
    else
      let w1 := w.each live fun w x => (w.flushOps x.1).2
      let now := (w1.blockGroups b).filter fun x => x.2.live != 0
      if now.all fun x => x.2.ops.isEmpty then (true, w1.regroup now) else (false, w1)

/-- regrp (08 R181, R182): the group arrives, with its results written and its open batches sealed, and waits. -/
def execRegrp (k : Bool) (st : State) : Host.Outcome State Fault Refusal :=
  issue
    { i := .regrp k, k := k, chk := fun _ => {}, region := outside
      body := fun w x =>
        let go := fun (w : W) =>
          match w.tryRegroup x.g.block with
          | (true, w1) => Did.done w1 none false
          | (false, w1) => .stall w1 .syncRegroup
        match x.e.wait with
        | some .regroup => go (w.uncount x)
        | _ =>
          if 1 < x.g.entries.length then .refuse w { code := fcBARRIER, detail := 5 }
          else if x.g.handler.isSome then .refuse w { code := fcBARRIER, detail := 6 }
          else if x.g.outstanding then .stall w .dependency
          else match x.g.late with
            | some f => .refuse w { code := f.code, detail := f.detail, tval := f.tval }
            | none =>
              let w1 := ((w.uncount x).quorumEvent x.r 4).updGroup x.r fun g =>
                (g.updEntry x.ei fun e => { e with wait := some .regroup }).sealAll
              go ((w1.marker x.r).updBlock x.g.block fun b => { b with arrived := b.arrived ++ [x.g.gid] }) } st

end Sys2Proof.Machine
end

