-- ==== Sys2Proof/Machine/Control.lean ====
section
/-! DEFINITION. Control flow: branches, splits, joins and exits (08 R165 to R172). -/
namespace Sys2Proof.Machine

/-! ## The split table (08 R165 to R169) -/

/-- The unfused children of an entry: entries in use whose partner it is. -/
def Group.children (g : Group) (e : Nat) : List (Nat × Entry) := g.entries.filter fun x => x.2.partner == some e

/-- The newest of some entries. -/
def newest (xs : List (Nat × Entry)) : Option (Nat × Entry) :=
  xs.foldl (fun b x => match b with
    | none => some x
    | some y => if y.2.order < x.2.order then some x else some y) none

/-- Target of a fragment (08 R168). -/
def Group.joinTarget (g : Group) (e : Nat) : Option DWord :=
  match newest (g.children e) with
  | some c => c.2.rejoin
  | none => (AList.get? g.entries e).bind Entry.rejoin

/-- Split of 08 R166: the taken lanes go to the lowest free entry, the others stay. -/
def Group.split (g : Group) (f : Nat) (taken : LaneMask) (ta na : DWord) : Group :=
  match AList.get? g.entries f, (upTo 32).find? fun i => !AList.has g.entries i with
  | some e, some c =>
    let child : Entry := {
      lanes := taken, pc := ta, mode := e.mode, fmt := e.fmt, pending := e.pending, rejoin := e.rcv
      retMode := applied e.mode e.pending, retFmt := e.fmt, partner := some f, order := g.splits + 1 }
    { g with
      entries := AList.put (AList.upd g.entries f fun e => { e with lanes := e.lanes &&& ~~~taken, pc := na, rcv := none }) c child
      splits := g.splits + 1 }
  | _, _ => g

/-- Whether a child and its partner fuse at an address (08 R168). -/
def Group.fuses (g : Group) (a : DWord) (c : Nat × Entry) : Bool :=
  c.2.st == .joinWait && c.2.pc == a && c.2.rejoin == some a &&
    match c.2.partner.bind fun p => AList.get? g.entries p with
    | some p => (p.st == .joinWait && p.pc == a) || p.st == .hollow
    | none => false

/-- Fuse of 08 R168. -/
def Group.fuse (g : Group) (a : DWord) (c : Nat × Entry) : Group :=
  match c.2.partner with
  | none => g
  | some p => { g with entries := AList.upd (AList.del g.entries c.1) p fun e =>
      { e with lanes := e.lanes ||| c.2.lanes, mode := c.2.retMode, fmt := c.2.retFmt, pending := none, pc := a + 4,
               st := .run, wait := none, stall := none, refill := none } }

/-- Fuses the pairs that may, the newest child first, as often as there are entries. -/
def Group.fuseAll : Nat → Group → Group
  | 0, g => g
  | n + 1, g =>
    match newest (g.entries.filter fun c => g.fuses c.2.pc c) with
    | some c => Group.fuseAll n (g.fuse c.2.pc c)
    | none => g

/-- `join` of a fragment (08 R168). -/
def Group.join (g : Group) (e : Nat) (a : DWord) : Group :=
  if g.joinTarget e = some a then
    Group.fuseAll 32 (g.updEntry e fun x => { x with st := .joinWait, pc := a })
  else g.updEntry e fun x => { x with pc := a + 4 }

/-- What becomes of an entry whose last lane has exited, and of the partners it leaves (08 R169). -/
def Group.endEntry : Nat → Group → Nat → Group
  | 0, g, _ => g
  | n + 1, g, e =>
    match AList.get? g.entries e with
    | none => g
    | some x =>
      if !(g.children e).isEmpty then g.updEntry e fun x => { x with st := .hollow, wait := none, stall := none }
      else
        let g1 := { g with entries := AList.del g.entries e }
        match x.partner with
        | none => g1
        | some p =>
          match AList.get? g1.entries p with
          | none => g1
          | some y =>
            if y.st == .joinWait && x.rejoin == some y.pc then g1.updEntry p fun y => { y with st := .run, pc := y.pc + 4, stall := none }
            else if y.st == .hollow && (g1.children p).isEmpty then Group.endEntry n g1 p
            else g1

/-- Lanes of a fragment exit: its entry, and the lanes alive. -/
def Group.dropLanes (g : Group) (e : Nat) (m : LaneMask) : Group :=
  let g1 := (g.updEntry e fun x => { x with lanes := x.lanes &&& ~~~m })
  let g2 := { g1 with live := g1.live &&& ~~~m }
  let empty := ((AList.get? g2.entries e).map fun x => x.lanes == 0).getD false
  Group.fuseAll 32 (if empty then Group.endEntry 32 g2 e else g2)

/-- ExitLanes (08 R169, R172; 10 R228; 11 R254; 06 R136): lanes leave the split table and the group's barrier; with the last
one the group is RETIRING. `at'` is the address of the `exit` and the fragment's mode state. -/
def W.exitLanes (w : W) (r : GroupRef) (e : Nat) (m : LaneMask) (at' : DWord × ModeState) : W :=
  match w.group r with
  | none => w
  | some g =>
    let b := g.block
    let w1 := w.updGroup r fun g => g.dropLanes e m
    let last := (g.live &&& ~~~m) == 0
    let w2 := w1.each (lanesIn m) fun w l => w.depart r (.group b g.gid) (some l)
    let w3 := w2.depart r (.block b) (if last then some g.gid else none)
    let w4 := match w3.barrierHolder b g.gid lvlCluster with
      | some h => w3.depart r h none
      | none => w3
    let w5 := match w4.barrierHolder b g.gid lvlGrid with
      | some h => w4.depart r h none
      | none => w4
    if last then
      ((w5.quorumEvent r 3).updGroup r fun g => ({ g with
        st := .retiring, entries := [], handler := none, exitAt := at', parked := false } : Group).sealAll)
    else w5

/-- After lanes of a block have exited: its rendezvous may complete, and the group may retire (08 R182; 06 R136). -/
def W.afterExit (w : W) (r : GroupRef) : W :=
  match w.group r with
  | none => w
  | some g => (w.tryRegroup g.block).2.tryRetire r

/-! ## The instructions (08 R171, R172) -/

/-- A control-flow instruction that goes to one address. -/
def flow (i : Instr) (k : Bool) (use : Use) (body : W → At → Did) (st : State) : Host.Outcome State Fault Refusal :=
  issue { i := i, k := k, chk := fun _ => { use := use }, body := body } st

/-- Goes to an address. -/
def Did.goto (w : W) (pc : DWord) : Did := .done w (some pc) false

/-- br (08 R172). -/
def execBr (k : Bool) (o : BitVec 23) (st : State) : Host.Outcome State Fault Refusal :=
  flow (.br k o) k {} (fun w x => .goto w (x.target 23 o.toNat)) st

/-- call: s191 takes the next address (08 R172). -/
def execCall (k : Bool) (o : BitVec 23) (st : State) : Host.Outcome State Fault Refusal :=
  flow (.call k o) k { sw := [191] } (fun w x => .goto (w.setS x.r 191 x.next) (x.target 23 o.toNat)) st

/-- A jump to an address held in a scalar: ALIGN with the address unless a multiple of 4 (08 R172). -/
def jumpTo (w : W) (v : DWord) : Did :=
  if v.toNat % 4 ≠ 0 then .refuse w { code := fcALIGN, tval := some v } else .goto w v

/-- jmp (08 R172). -/
def execJmp (k : Bool) (s : BitVec 8) (st : State) : Host.Outcome State Fault Refusal :=
  flow (.jmp k s) k { sr := [s.toNat] } (fun w x => jumpTo w (x.sval s.toNat)) st

/-- ret (08 R172). -/
def execRet (k : Bool) (st : State) : Host.Outcome State Fault Refusal :=
  flow (.ret k) k { sr := [191] } (fun w x => jumpTo w (x.sval 191)) st

/-- The active lanes whose predicate bit equals a sense (08 R172). -/
def At.takes (x : At) (p : Nat) (sense : Bool) : LaneMask :=
  x.e.lanes &&& (if sense then x.g.pget p else ~~~(x.g.pget p))

/-- bp: taken where the predicate has the sense in every active lane (08 R172). -/
def execBp (k : Bool) (p : BitVec 4) (n : BitVec 1) (o : BitVec 18) (st : State) : Host.Outcome State Fault Refusal :=
  flow (.bp k p n o) k {} (fun w x =>
    .goto w (if x.takes p.toNat (n == 1) = x.e.lanes then x.target 18 o.toNat else x.next)) st

/-- brd: splits the fragment where the lanes disagree (08 R166, R172). -/
def execBrd (k : Bool) (p : BitVec 4) (n : BitVec 1) (o : BitVec 18) (st : State) : Host.Outcome State Fault Refusal :=
  issue
    { i := .brd k p n o, k := k, chk := fun _ => {}
      region := fun x => let t := x.takes p.toNat (n == 1)
                         { allowed := t == x.e.lanes || t == 0 }
      body := fun w x =>
        let t := x.takes p.toNat (n == 1)
        if t = x.e.lanes then .goto w (x.target 18 o.toNat)
        else if t = 0 then .goto w x.next
        else .done (w.updGroup x.r fun g => g.split x.ei t (x.target 18 o.toNat) x.next) none false } st

/-- rcv: the rejoin address of the next split (08 R172). -/
def execRcv (k : Bool) (o : BitVec 23) (st : State) : Host.Outcome State Fault Refusal :=
  flow (.rcv k o) k {} (fun w x =>
    .next (w.updEntry x.r x.ei fun e => { e with rcv := some (x.target 23 o.toNat) }) x) st

/-- join: the fusion point (08 R168, R172). -/
def execJoin (k : Bool) (st : State) : Host.Outcome State Fault Refusal :=
  flow (.join k) k {} (fun w x => .done (w.updGroup x.r fun g => g.join x.ei x.e.pc) none false) st

/-- bz (08 R172). -/
def execBz (k : Bool) (s : BitVec 8) (o : BitVec 15) (st : State) : Host.Outcome State Fault Refusal :=
  flow (.bz k s o) k { sr := [s.toNat] } (fun w x =>
    .goto w (if x.sval s.toNat = 0 then x.target 15 o.toNat else x.next)) st

/-- bnz (08 R172). -/
def execBnz (k : Bool) (s : BitVec 8) (o : BitVec 15) (st : State) : Host.Outcome State Fault Refusal :=
  flow (.bnz k s o) k { sr := [s.toNat] } (fun w x =>
    .goto w (if x.sval s.toNat ≠ 0 then x.target 15 o.toNat else x.next)) st

/-- loop: decrements, and branches unless zero (08 R172). -/
def execLoop (k : Bool) (s : BitVec 8) (o : BitVec 15) (st : State) : Host.Outcome State Fault Refusal :=
  flow (.loop k s o) k { sr := [s.toNat], sw := [s.toNat] } (fun w x =>
    let v := x.sval s.toNat - 1
    .goto (w.setS x.r s.toNat v) (if v ≠ 0 then x.target 15 o.toNat else x.next)) st

/-- exit: the active lanes exit; in handler mode it ends the handler (08 R169, R172). -/
def execExit (k : Bool) (st : State) : Host.Outcome State Fault Refusal :=
  issue
    { i := .exit k, k := k, chk := fun _ => {}, region := outside
      body := fun w x =>
        let w1 := w.updGroup x.r fun g => { g with handler := if g.handler = some x.ei then none else g.handler }
        let ms := (((w1.group x.r).bind fun g => AList.get? g.entries x.ei).getD x.e).modeState
        .done ((w1.exitLanes x.r x.ei x.e.lanes (x.e.pc, ms)).afterExit x.r) none false } st

end Sys2Proof.Machine
end

