-- ==== Sys2Proof/Machine/Schedule.lean ====
section
/-! DEFINITION. Which groups hold operand buffers: readiness, promotion, demotion, forced rotation, and `yield`
(08 R158 to R162, R187). -/
namespace Sys2Proof.Machine

/-- Whether the wait that a fragment holds is over (08 R160). -/
def W.waitOver (w : W) (g : Group) : Option Wait → Bool
  | some (.barrier lvl id ph) => match w.barrier g.block g.gid lvl id with
    | some b => b.ph != ph && b.doneAt != some w.s.cycle
    | none => true
  | some (.double c) => decide (c < w.s.cycle)
  | some .regroup => false
  | some (.batch c n) => decide ((g.cls c).sealed.length ≤ n)
  | some (.tsync v) => match (w.block g.block).map Block.chip with
    | some c => decide (v ≤ vecGet (w.seat c).stable (w.seat c).num)
    | none => true
  | none => true

/-- Whether a fragment would be issuable, by the waits its group already holds (08 R158, R160). -/
def W.fragmentReady (w : W) (g : Group) (i : Nat) (e : Entry) : Bool :=
  e.st == .run && (g.handler == none || g.handler == some i) && w.waitOver g e.wait

/-- Whether a group's fragments may issue at all now: not parked, held in the latch, stopping, waiting for a fault, for its
`turn` or for the outcome of its `ac` (08 R158; 15 R360; 16 R381). -/
def W.groupOpen (w : W) (r : GroupRef) (g : Group) : Bool :=
  !g.parked && !g.stopping && g.fault.isNone && !w.latched r g && g.turnWait.isNone &&
    (match g.region with
      | some rg => !rg.sent
      | none => true)

/-- Whether a group is ready: a fragment is, or the group leads a rendezvous that can complete (08 R160; 11 R253). -/
def W.groupReady (w : W) (r : GroupRef) (g : Group) : Bool :=
  (w.groupOpen r g && g.entries.any fun x => w.fragmentReady g x.1 x.2) || (g.fault.isNone && w.leads r g)

/-- Whether a group of a context in which groups may issue: neither suspended nor draining, on a chip
that issues (05 R107, R108; 20 R443, R449). -/
def W.mayRun (w : W) (r : GroupRef) (g : Group) : Bool :=
  let c := (w.contextOf r g).st
  let p := (w.chip r.chip).power
  (c == .bound || c == .running) && (p == .ready || p == .idle) &&
    match ((w.block g.block).bind fun b => w.cluster b.cluster) with
    | some k => k.st == .placed
    | none => true

/-- The ACTIVE groups of a sub-datapath. -/
def W.activeGroups (w : W) (chip core sub : Nat) : List (GroupRef × Group) :=
  w.s.groups.filter fun g => g.1.chip == chip && g.1.core == core && g.1.slot % 4 == sub && g.2.st == .active

/-- The oldest of some groups by a cycle each has, ties to the lower slot. -/
def oldestOf (since : Group → Nat) (gs : List (GroupRef × Group)) : Option (GroupRef × Group) :=
  gs.foldl (fun b x => match b with
    | none => some x
    | some y => if since x.2 < since y.2 ∨ (since x.2 = since y.2 ∧ x.1.slot < y.1.slot) then some x else some y) none

/-- The ready RESIDENT group of a sub-datapath that has been ready for the longest time (08 R160). -/
def W.oldestReady (w : W) (chip core sub : Nat) : Option (GroupRef × Group) :=
  oldestOf (fun g => g.readySince.getD w.s.cycle) (w.s.groups.filter fun g =>
    g.1.chip == chip && g.1.core == core && g.1.slot % 4 == sub && g.2.st == .resident && w.mayRun g.1 g.2 && w.groupReady g.1 g.2)

/-- Promotes a group: it may issue from the next cycle (08 R160). -/
def W.promote (w : W) (r : GroupRef) : W :=
  w.updGroup r fun g => { g with st := .active, activeSince := w.s.cycle, readySince := none, waitingSince := none,
                                 issueFrom := w.s.cycle + 1 }

/-- Demotes a group: its operand buffer is discarded (08 R159). -/
def W.demote (w : W) (r : GroupRef) : W :=
  w.updGroup r fun g => { g with
    st := .resident, buffer := [], waitingSince := none
    readySince := if w.groupReady r g then some w.s.cycle else none
    entries := AList.mapVal g.entries fun _ e => { e with refill := none } }

/-- Promotes the oldest ready group of a sub-datapath where a place is free (08 R160). -/
def W.promoteOldest (w : W) (chip core sub : Nat) : W :=
  if 32 ≤ (w.activeGroups chip core sub).length then w
  else match w.oldestReady chip core sub with
    | some x => w.promote x.1
    | none => w

/-- PROMOTION (08 R160): the group is the oldest ready one of its sub-datapath and a place is free. -/
def execPromotion (r : GroupRef) (st : State) : Host.Outcome State Fault Refusal :=
  lift (fun w => match w.oldestReady r.chip r.core (r.slot % 4) with
    | some x => if x.1 == r then w.promoteOldest r.chip r.core (r.slot % 4) else w
    | none => w) st

/-- Whether a group has waited for 64 consecutive cycles (08 R159). -/
def W.demotable (w : W) (g : Group) : Bool :=
  g.st == .active && match g.waitingSince with
    | some c => decide (c + 64 ≤ w.s.cycle)
    | none => false

/-- DEMOTION (08 R159). -/
def execDemotion (r : GroupRef) (st : State) : Host.Outcome State Fault Refusal :=
  lift (fun w => match w.group r with
    | some g => if w.demotable g then w.demote r else w
    | none => w) st

/-- Whether a ready group has waited 4,096 cycles for its promotion while no place is free (08 R161). -/
def W.rotatable (w : W) (r : GroupRef) (g : Group) : Bool :=
  g.st == .resident && w.mayRun r g && w.groupReady r g &&
  decide (32 ≤ (w.activeGroups r.chip r.core (r.slot % 4)).length) &&
  match g.readySince with
  | some c => decide (c + 4096 ≤ w.s.cycle)
  | none => false

/-- FORCED_ROTATION (08 R161): the group ACTIVE for the longest time gives way. -/
def execForcedRotation (r : GroupRef) (st : State) : Host.Outcome State Fault Refusal :=
  lift (fun w => match w.group r with
    | some g =>
      if w.rotatable r g then
        match oldestOf Group.activeSince (w.activeGroups r.chip r.core (r.slot % 4)) with
        | some x => (w.demote x.1).promoteOldest r.chip r.core (r.slot % 4)
        | none => w
      else w
    | none => w) st

/-- yield: last in the rotation, and demoted for a ready group where no place is free (08 R187). -/
def execYield (k : Bool) (st : State) : Host.Outcome State Fault Refusal :=
  issue
    { i := .yield k, k := k, chk := fun _ => {}
      body := fun w x =>
        let sub := x.r.slot % 4
        let full := decide (32 ≤ (w.activeGroups x.r.chip x.r.core sub).length)
        match w.oldestReady x.r.chip x.r.core sub with
        | some y => if full then .next ((w.demote x.r).promote y.1) x else .next w x
        | none => .next w x } st

/-- What the end of a cycle tells of a group's readiness and waiting (08 R159, R160). -/
def W.ageGroup (w : W) (r : GroupRef) (g : Group) : Group :=
  let ready := w.groupReady r g
  let stuck := !((w.groupOpen r g && g.entries.any fun x => w.fragmentReady g x.1 x.2 && x.2.stall.isNone) || w.leads r g)
  { g with
    readySince := if g.st == .resident && ready then some (g.readySince.getD w.s.cycle) else none
    waitingSince := if g.st == .active && stuck then some (g.waitingSince.getD w.s.cycle) else none }

/-- The member of a list with the least value of a measure, the first of equals. -/
def leastBy {α : Type} (f : α → Nat) : List α → Option α
  | [] => none
  | x :: r => match leastBy f r with
    | none => some x
    | some y => if f y < f x then some y else some x

/-- How far a position stands after another, in ascending order with a wrap at n. -/
def after (n last i : Nat) : Nat := (i + n - last % n - 1) % n

/-! ## Issue selection (08 R158, R162) -/

/-- Whether a fragment is issuable as far as is known before an attempt: it is ready, and no attempt of the current cycle has
stalled (08 R158). -/
def W.issuable (w : W) (g : Group) (i : Nat) (e : Entry) : Bool :=
  w.fragmentReady g i e && (match e.stall with
    | some (_, c) => c != w.s.cycle
    | none => true)

/-- The groups of a sub-datapath that could issue in this cycle (08 R160, R162). -/
def W.issuers (w : W) (chip core sub : Nat) : List (GroupRef × Group) :=
  (w.activeGroups chip core sub).filter fun g =>
    decide (g.2.issueFrom ≤ w.s.cycle) && w.mayRun g.1 g.2 && w.groupOpen g.1 g.2 &&
      g.2.entries.any fun x => w.issuable g.2 x.1 x.2

/-- How far a slot is from its turn on its sub-datapath (08 R162). -/
def W.turnOf (w : W) (chip core sub : Nat) (r : GroupRef) : Nat := after 512 (AList.getD (w.core (chip, core)).lastSlot sub 511) r.slot

/-- The groups of a sub-datapath that lead a rendezvous which completes when their turn comes (11 R253). -/
def W.leaders (w : W) (chip core sub : Nat) : List GroupRef :=
  ((w.activeGroups chip core sub).filter fun g =>
    decide (g.2.issueFrom ≤ w.s.cycle) && w.mayRun g.1 g.2 && g.2.fault.isNone && w.leads g.1 g.2).map Prod.fst

/-- The fragment that a sub-datapath issues from next: the first group after the last, the first entry after the last, in
ascending order with a wrap; none once it has issued in the cycle, or while the group that leads a rendezvous comes first
(08 R162; 11 R253). -/
def W.pick (w : W) (chip core sub : Nat) : Option FragRef :=
  if AList.has (w.core (chip, core)).used sub then none
  else match leastBy (fun g => w.turnOf chip core sub g.1) (w.issuers chip core sub) with
    | none => none
    | some (r, g) =>
      if (w.leaders chip core sub).any fun x => decide (w.turnOf chip core sub x < w.turnOf chip core sub r) then none
      else (leastBy (fun x => after 32 g.lastEntry x.1) (g.entries.filter fun x => w.issuable g x.1 x.2)).map fun x => ⟨r, x.1⟩

/-- A fragment that some sub-datapath may issue from now: of the first group of the table whose sub-datapath has one. -/
def W.pickAny (w : W) : Option FragRef := w.s.groups.findSome? fun g => w.pick g.1.chip g.1.core (g.1.slot % 4)

/-- Whether the turn of the group that leads a block's rendezvous has come: its sub-datapath selects it (08 R162; 11 R253). -/
def W.rendezvousTurn (w : W) (block : Nat) : Bool :=
  match ((w.block block).bind Block.latch).bind (w.meeting block) with
  | none => false
  | some (_, x0) =>
    let sub := x0.r.slot % 4
    let turn := w.turnOf x0.r.chip x0.r.core sub
    (w.leaders x0.r.chip x0.r.core sub).contains x0.r &&
      (((w.issuers x0.r.chip x0.r.core sub).map Prod.fst) ++ w.leaders x0.r.chip x0.r.core sub).all fun r =>
        decide (turn x0.r ≤ turn r)

end Sys2Proof.Machine
end

