-- ==== Sys2Proof/Machine/System.lean ====
section
/-! DEFINITION. System words: mode and format, system registers, block scalars, traps, `eret`, `halt` and the probe's words
(03 R76 to R86; 05 R114, R115; 09 R205, R206; 19 R438, R439). -/
namespace Sys2Proof.Machine

/-! ## nop, mode, fmt (03 R78, R79, R83, R86) -/

/-- nop (03 R86). -/
def execNop (k : Bool) (st : State) : Host.Outcome State Fault Refusal :=
  issue { i := .nop k, k := k, chk := fun _ => {}, body := fun w x => .next w x } st

/-- A half of `%mode` (03 R78). -/
def modeHalf (m : Word) (high : Bool) : BitVec 18 :=
  if high then (m.extractLsb' 18 7).setWidth 18 else m.extractLsb' 0 18

/-- `%mode` with one half replaced, as `mode` writes it (03 R78). -/
def modeWith (m : Word) (high : Bool) (v : BitVec 18) : Word := applied m (some { high := high, saved := v, count := 0 })

/-- H of a `mode` immediate. -/
def modeImmHigh (i : BitVec 22) : Bool := i.getLsbD 18
/-- n of a `mode` immediate. -/
def modeImmCount (i : BitVec 22) : Nat := fieldOf i.toNat 19 3

/-- What a `mode` leaves of the pending restore (03 R78, R79). -/
def modePending (old : Word) (i : BitVec 22) (p : Option PendingRestore) : Option PendingRestore :=
  if modeImmCount i ≠ 0 then some { high := modeImmHigh i, saved := modeHalf old (modeImmHigh i), count := modeImmCount i }
  else match p with
    | some q => if q.high = modeImmHigh i then none else some q
    | none => none

/-- mode: writes one half of `%mode`, for good or for a count of instructions (03 R78, R79). -/
def execMode (k : Bool) (i : BitVec 22) (st : State) : Host.Outcome State Fault Refusal :=
  let new := fun (x : At) => modeWith x.e.mode (modeImmHigh i) (i.extractLsb' 0 18)
  issue
    { i := .mode k i, k := k
      chk := fun x => { modeval := if modeReserved (new x) then some 0 else none }
      body := fun w x =>
        .next (w.updEntry x.r x.ei fun e => { e with mode := new x, pending := modePending x.e.mode i e.pending }) x } st

/-- fmt: writes `%fmt` (03 R83). -/
def execFmt (k : Bool) (i : BitVec 22) (st : State) : Host.Outcome State Fault Refusal :=
  issue
    { i := .fmt k i, k := k
      chk := fun _ => { modeval := if fmtReserved (i.setWidth 32) then some 0 else none }
      body := fun w x => .next (w.updEntry x.r x.ei fun e => { e with fmt := i.setWidth 32 }) x } st

/-- MODE_RESTORE (03 R78): the count has reached zero, and the half reverts before the next issue. -/
def execModeRestore (f : FragRef) (st : State) : Host.Outcome State Fault Refusal :=
  lift (fun w => w.updEntry f.grp f.entry fun e => match e.pending with
    | some p => if p.count = 0 then { e with mode := applied e.mode e.pending, pending := none } else e
    | none => e) st

/-! ## System registers (03 R84, R85) -/

/-- Whether a register is marked handler (03 R84). -/
def sysHandler (n : Nat) : Bool := decide (0x100 ≤ n)

/-- `%eng` of a block (11 R248). -/
def Block.eng (b : Block) : Nat := if b.engineHeld then 4 + b.engine.getD 0 else 0

/-- `%grid` of a launch (07 R463). -/
def Launch.gridId (l : Launch) : Nat :=
  l.index % 2 ^ 32 + l.qix * 2 ^ 32 + l.chip % 4 * 2 ^ 38

/-- The lowest-numbered active lane of a fragment. -/
def At.lowLane (a : At) : Nat := (lowestLane a.e.lanes).getD 0

/-- Whether an operation still has flags to write (02 R42). -/
def GroupOp.flagging (o : GroupOp) : Bool := o.isV && o.flags != 0

/-- `%fflags` as `srd` reads it: with or without the flags of each result still to come (02 R42). -/
def W.readFlags (w : W) (g : Group) : W × Nat :=
  (g.ops.filter GroupOp.flagging).foldl (fun acc o =>
    let (n, w1) := acc.1.draw
    (w1, if n % 2 = 0 then acc.2 else Nat.lor acc.2 o.flags.toNat)) (w, g.fflags.toNat)

/-- The value of a system register (03 R84). -/
def W.sysValue (w : W) (x : At) (n : Nat) : W × Nat :=
  let g := x.g
  let b := w.block g.block
  match n with
  | 0x000 => (w, x.e.mode.toNat)
  | 0x001 => (w, x.e.fmt.toNat)
  | 0x002 => w.readFlags g
  | 0x003 => (w, g.quor.toNat)
  | 0x004 => (w, (b.map Block.eng).getD 0)
  | 0x005 => (w, g.rgn.toNat)
  | 0x006 => (w, g.osig.toNat)
  | 0x007 => (w, g.ssp.toNat)
  | 0x010 => (w, x.lowLane)
  | 0x011 => (w, g.tidOf x.lowLane)
  | 0x012 => (w, g.gid)
  | 0x013 => (w, (b.map Block.bid).getD 0)
  | 0x014 => (w, ((b.bind fun b => w.cluster b.cluster).map Cluster.clid).getD 0)
  | 0x015 => (w, ((b.bind fun b => w.launch b.launch).map Launch.gridId).getD 0)
  | 0x016 => (w, x.r.chip % 4)
  | 0x017 => (w, x.r.core)
  | 0x020 => (w, w.time x.r.chip)
  | 0x100 => (w, g.tcause.toNat)
  | 0x101 => (w, g.tpc.toNat)
  | 0x102 => (w, g.tmask.toNat)
  | 0x103 => (w, g.tval.toNat)
  | 0x104 => (w, g.tmode.toNat)
  | 0x105 => (w, g.tfmt.toNat)
  | 0x106 => (w, g.tscr.toNat)
  | _ => (w, 0)

/-- srd: a system register into a scalar; V-class for `%time` and `%osig` (03 R75, R84, R85). Under run-checking a read of
`%fflags` with flags pending is HAZARD (19 R433). -/
def execSrd (k : Bool) (d : BitVec 8) (s : BitVec 10) (st : State) : Host.Outcome State Fault Refusal :=
  let n := s.toNat
  issue
    { i := .srd k d s, k := k
      chk := fun x => { use := { sw := [d.toNat] }, priv := sysHandler n && x.g.handler.isNone }
      body := fun w x =>
        if n = 0x002 && x.g.runCheck && x.g.ops.any GroupOp.flagging then
          .refuse w { code := fcHAZARD, detail := 1, tval := some (hazardTval 3 2) }
        else
          let (w1, v) := w.sysValue x n
          if n = 0x006 || n = 0x020 then .next (w1.pushOp x.r (.value [.s d.toNat (BitVec.ofNat 64 v)]) 0 true none false) x
          else .next (w1.setS x.r d.toNat (BitVec.ofNat 64 v)) x } st

/-- The bits of `%tcause` that a write sets (05 R111). -/
def tcauseMask : Word := 0x00FF01FF

/-- What `swr` writes of a register; a read-only one ignores it (03 R85; 02 R41; 14 R331). -/
def Group.sysWrite (g : Group) (e n : Nat) (v : DWord) : Group :=
  let lo : Word := v.setWidth 32
  match n with
  | 0x000 => g.updEntry e fun x => { x with mode := lo, pending := none }
  | 0x001 => g.updEntry e fun x => { x with fmt := lo }
  | 0x002 => { g with fflags := v.setWidth 6 }
  | 0x007 => { g with ssp := BitVec.ofNat 64 (fieldOf v.toNat 0 21) }
  | 0x100 => { g with tcause := lo &&& tcauseMask }
  | 0x101 => { g with tpc := v }
  | 0x102 => { g with tmask := lo }
  | 0x103 => { g with tval := v }
  | 0x104 => { g with tmode := lo }
  | 0x105 => { g with tfmt := lo }
  | 0x106 => { g with tscr := v }
  | _ => g

/-- MODEVAL of a write to `%mode` or `%fmt` (03 R85). -/
def swrReserved (n : Nat) (v : Word) : Option Nat :=
  if (n = 0x000 && modeReserved v) || (n = 0x001 && fmtReserved v) then some 0 else none

/-- swr: a scalar into a system register (03 R85). In a region only `%mode` and `%fmt` may be written (16 R374). -/
def execSwr (k : Bool) (a : BitVec 8) (s : BitVec 10) (st : State) : Host.Outcome State Fault Refusal :=
  let n := s.toNat
  issue
    { i := .swr k a s, k := k
      region := fun _ => { allowed := n == 0x000 || n == 0x001 }
      chk := fun x => { use := { sr := [a.toNat] }, priv := sysHandler n && x.g.handler.isNone,
                        modeval := swrReserved n ((x.sval a.toNat).setWidth 32) }
      body := fun w x => .next (w.updGroup x.r fun g => g.sysWrite x.ei n (x.sval a.toNat)) x } st

/-! ## Block scalars (09 R205, R206) -/

/-- Enters a write in a block's log: of one cycle's writes to a scalar that of the highest `%gid` stands last. -/
def enterScalar (x : ScalarWrite) (log : List ScalarWrite) : List ScalarWrite :=
  let later := fun (y : ScalarWrite) => y.b == x.b && y.cycle == x.cycle && decide (x.gid < y.gid)
  if log.any later then
    let i := log.findIdx later
    log.take i ++ x :: log.drop i
  else log ++ [x]

/-- bset: a scalar into a block scalar (09 R205). -/
def execBset (k : Bool) (b : BitVec 4) (s : BitVec 8) (st : State) : Host.Outcome State Fault Refusal :=
  issue
    { i := .bset k b s, k := k, chk := fun _ => { use := { sr := [s.toNat] } }, region := outside
      body := fun w x =>
        if x.e.lanes = 0 then .next w x
        else
          let y : ScalarWrite := { b := b.toNat, value := x.sval s.toNat, gid := x.g.gid, cycle := w.s.cycle }
          .next (w.updBlock x.g.block fun z => { z with scalars := enterScalar y z.scalars }) x } st

/-- The values a read of a block scalar may return: that of the last write before the reader's mark, and each later one; the
last writer's own group reads its own (09 R206). -/
def scalarChoices (log : List ScalarWrite) (mark b gid : Nat) : List DWord :=
  let mine := log.filter fun y => y.b == b
  match mine.getLast? with
  | none => [0]
  | some y =>
    if y.gid = gid then [y.value]
    else
      let before := ((log.take mark).filter fun y => y.b == b).getLast?
      let after := (log.drop mark).filter fun y => y.b == b
      (match before with
        | some z => z.value
        | none => 0) :: after.map ScalarWrite.value

/-- bget: a block scalar into a scalar (09 R206). -/
def execBget (k : Bool) (b : BitVec 4) (d : BitVec 8) (st : State) : Host.Outcome State Fault Refusal :=
  issue
    { i := .bget k b d, k := k, chk := fun _ => { use := { sw := [d.toNat] } }
      body := fun w x =>
        let cs := scalarChoices (((w.block x.g.block).map Block.scalars).getD []) x.g.scalarMark b.toNat x.g.gid
        let (i, w1) := if cs.length ≤ 1 then (0, w) else
          let (n, w1) := w.draw
          (n % cs.length, w1)
        .next (w1.setS x.r d.toNat (cs.getD i 0)) x } st

/-! ## trap, brk, eret, halt (05 R114, R115; 19 R438) -/

/-- trap: fault TRAP with the next address in `%tpc`, where a lane is enabled (05 R114). -/
def execTrap (k : Bool) (i : BitVec 16) (st : State) : Host.Outcome State Fault Refusal :=
  issue
    { i := .trap k i, k := k, chk := fun _ => {}, region := outside
      body := fun w x =>
        if x.enabled = 0 then .next w x
        else .fault w { code := fcTRAP, tval := some (BitVec.ofNat 64 i.toNat) } (some x.next) } st

/-- brk: fault BREAK with the next address in `%tpc`, where a lane is enabled (19 R438). -/
def execBrk (k : Bool) (i : BitVec 16) (st : State) : Host.Outcome State Fault Refusal :=
  issue
    { i := .brk k i, k := k, chk := fun _ => {}
      body := fun w x =>
        if x.enabled = 0 then .next w x
        else .fault w { code := fcBREAK, tval := some (BitVec.ofNat 64 i.toNat) } (some x.next) } st

/-- RETURNING FROM AN EXCEPTION (05 R115): `%mode`, `%fmt` and the address come from the trap registers, the fragment's lanes
outside `%tmask` exit, and the group leaves handler mode. The trap registers keep their values. -/
def W.leaveHandler (w : W) (x : At) : W :=
  let drop := x.e.lanes &&& ~~~x.g.tmask
  let w1 := (w.updGroup x.r fun g => { g with handler := none }).updEntry x.r x.ei fun e =>
    { e with mode := x.g.tmode, fmt := x.g.tfmt, pending := none, pc := x.g.tpc, unchecked := true }
  if drop = 0 then w1
  else (w1.exitLanes x.r x.ei drop (x.e.pc, { mode := x.g.tmode, fmt := x.g.tfmt, pending := none })).afterExit x.r

/-- eret (05 R115). -/
def execEret (k : Bool) (st : State) : Host.Outcome State Fault Refusal :=
  issue
    { i := .eret k, k := k, region := outside
      chk := fun x => { priv := x.g.handler.isNone
                        modeval := if modeReserved x.g.tmode || fmtReserved x.g.tfmt then some 0 else none }
      body := fun w x =>
        if x.g.tpc.toNat % 4 ≠ 0 then .refuse w { code := fcALIGN, tval := some x.g.tpc }
        else .done (w.leaveHandler x) none false } st

/-- halt: with an enabled lane the group stops, after an open region is discarded (05 R113, R114). -/
def execHalt (k : Bool) (st : State) : Host.Outcome State Fault Refusal :=
  issue
    { i := .halt k, k := k, chk := fun _ => {}
      body := fun w x =>
        if x.enabled = 0 then .next w x
        else
          let w1 := match x.g.region with
            | some rg => w.discardRegion x.r 5 0 (rg.issued + 1)
            | none => w.updEntry x.r x.ei fun e => { e with pc := x.next }
          let pc := (((w1.group x.r).bind fun g => AList.get? g.entries x.ei).map Entry.pc).getD x.next
          .done ((w1.stopGroup x.r (some .halt)).halted x.r x.g.ctx pc.toNat 0) none false } st

/-! ## probe and rdtime (19 R438, R439) -/

/-- probe: a MARK record and trigger source 3, where a lane is enabled (19 R438). -/
def execProbe (k : Bool) (i : BitVec 16) (st : State) : Host.Outcome State Fault Refusal :=
  issue
    { i := .probe k i, k := k, chk := fun _ => {}
      body := fun w x =>
        if x.enabled = 0 then .next w x
        else .next ((w.trace x.r x.g.ctx 2 x.ei 0 x.next.toNat x.e.lanes.toNat i.toNat).fireTrigger x.r.chip x.g.ctx 3 i.toNat) x } st

/-- rdtime: the global time base, sampled at issue, into a scalar (19 R438, R439). -/
def execRdtime (k : Bool) (d : BitVec 8) (st : State) : Host.Outcome State Fault Refusal :=
  issue
    { i := .rdtime k d, k := k, chk := fun _ => { use := { sw := [d.toNat] } }
      body := fun w x =>
        .next (w.pushOp x.r (.value [.s d.toNat (BitVec.ofNat 64 (w.time x.r.chip))]) 0 true none false) x } st

/-- ILLEGAL_WORD (03 R59): a word that no instruction has raises ILLEGAL before any effect. -/
def execIllegalWord (v : Word) (st : State) : Host.Outcome State Fault Refusal :=
  issue
    { i := .nop v.msb, k := v.msb, chk := fun _ => {}, region := fun _ => { counts := false }
      body := fun w _ => .refuse w { code := fcILLEGAL } } st

end Sys2Proof.Machine
end

