-- ==== Sys2Proof/Machine/Events.lean ====
section
/-! DEFINITION. The steps of the units that run beside issue: results written, faults delivered, batches retired, copies,
engines, stores, windows, collectives and page walks. A step whose condition does not hold changes nothing. -/
namespace Sys2Proof.Machine

/-- Work that a group's progress may set free: its block's rendezvous, and its own retirement (08 R182; 06 R136). -/
def W.followUp (w : W) (r : GroupRef) : W :=
  match w.group r with
  | none => w
  | some g => (w.tryRegroup g.block).2.tryRetire r

/-- RESULT_WRITEBACK (03 R55, R56). -/
def execResultWriteback (r : GroupRef) (id : Nat) (st : State) : Host.Outcome State Fault Refusal :=
  lift (fun w => (w.writeBack r id true).followUp r) st

/-- STORE_PERFORM (14 R313). -/
def execStorePerform (r : GroupRef) (id : Nat) (st : State) : Host.Outcome State Fault Refusal :=
  lift (fun w => (w.writeBack r id false).followUp r) st

/-- TRAP_DELIVER (05 R110, R111): a fault that waits, once every V-class result is written. -/
def execTrapDeliver (r : GroupRef) (st : State) : Host.Outcome State Fault Refusal :=
  lift (fun w => match w.group r with
    | some g => if g.fault.isSome && !g.outstanding && (g.st == .active || g.st == .resident) && (w.contextOf r g).st != .draining then w.deliver r else w
    | none => w) st

/-- BATCH_RETIRE (13 R282): the oldest sealed batch of a class, all its operations complete. -/
def execBatchRetire (r : GroupRef) (c : Nat) (st : State) : Host.Outcome State Fault Refusal :=
  lift (fun w => match w.group r with
    | some g => if (g.cls c).ready then (w.updGroup r fun g => g.retireBatch c).followUp r else w
    | none => w) st

/-- COPY_START (11 R244, R245): the head of a home core's copy queue starts or parks. -/
def execCopyStart (chip core : Nat) (st : State) : Host.Outcome State Fault Refusal :=
  lift (fun w => w.copyHead (chip, core)) st

/-- COPY_COMPLETE (13 R297). -/
def execCopyComplete (op : Nat) (st : State) : Host.Outcome State Fault Refusal := lift (fun w => w.completeCopy op) st

/-- COPY_WALK_FAULT (13 R298). -/
def execCopyWalkFault (op : Nat) (st : State) : Host.Outcome State Fault Refusal := lift (fun w => w.faultCopy op) st

/-- COPYXLATE_RESUME (13 R298). -/
def execCopyxlateResume (chip request : Nat) (st : State) : Host.Outcome State Fault Refusal :=
  lift (fun w => w.answerCopy chip request true) st

/-- COPYXLATE_REFUSE (13 R298). -/
def execCopyxlateRefuse (chip request : Nat) (st : State) : Host.Outcome State Fault Refusal :=
  lift (fun w => w.answerCopy chip request false) st

/-- COPY_LINK_TIMEOUT (13 R298). -/
def execCopyLinkTimeout (op : Nat) (st : State) : Host.Outcome State Fault Refusal := lift (fun w => w.timeoutCopy op) st

/-- MCAST_ARRIVAL (13 R296). -/
def execMcastArrival (op dest : Nat) (st : State) : Host.Outcome State Fault Refusal :=
  lift (fun w => w.landMulticast op dest) st

/-- ENGINE_OP_COMPLETE (11 R257). -/
def execEngineOpComplete (chip core engine : Nat) (st : State) : Host.Outcome State Fault Refusal :=
  lift (fun w => w.completeEngineOp (chip, core) engine) st

/-- VTOT_LAND (11 R243). -/
def execVtotLand (block tile : Nat) (st : State) : Host.Outcome State Fault Refusal := lift (fun w => w.landVtot block tile) st

/-- RENDEZVOUS_COMPLETE (11 R253): in the cycle in which its sub-datapath selects G0. -/
def execRendezvousComplete (block : Nat) (st : State) : Host.Outcome State Fault Refusal :=
  lift (fun w => if w.rendezvousTurn block then w.completeRendezvous block else w) st

/-- LATCH_TIMEOUT (11 R254). -/
def execLatchTimeout (block : Nat) (st : State) : Host.Outcome State Fault Refusal := lift (fun w => w.timeoutLatch block) st

/-- The oldest write that waits at a line's home becomes visible once the horizon has passed (14 R319). -/
def W.showWrite (w : W) (line : Nat) : W :=
  match w.s.waiting.find? fun h => h.line == line with
  | none => w
  | some h =>
    if w.lineClear line then
      let w1 := ({ w with s := { w.s with waiting := w.s.waiting.erase h } } : W).writeCells h.bytes
      match h.irq with
      | some (chip, vec) => w1.out (.irq chip vec)
      | none => w1
    else w

/-- WRITE_VISIBLE (14 R319). -/
def execWriteVisible (line : Nat) (st : State) : Host.Outcome State Fault Refusal := lift (fun w => w.showWrite line) st

/-- FLUSH_ACK (14 R324): a destination holds the markers of every path; one that only fenced links reach holds nothing of the
group (18 R417; DESIGN CHOICE, log 26). -/
def execFlushAck (r : GroupRef) (dest : Nat) (st : State) : Host.Outcome State Fault Refusal :=
  lift (fun w =>
    if (w.dieReach r.chip).both (w.cldReach r.chip dest) = .held then w
    else w.updGroup r fun g =>
      { g with releasing := g.releasing.map fun x => { x with waiting := x.waiting.filter (· != dest) } }) st

/-- WINDOW_COMBINE (14 R337). -/
def execWindowCombine (base : Nat) (st : State) : Host.Outcome State Fault Refusal := lift (fun w => w.combineWindow base) st

/-- REDUCTION_COMPLETE (14 R315). -/
def execReductionComplete (op : Nat) (st : State) : Host.Outcome State Fault Refusal :=
  lift (fun w => w.completeReduction op) st

/-- COLLECTIVE_COMPLETE (14 R339). -/
def execCollectiveComplete (op : Nat) (st : State) : Host.Outcome State Fault Refusal :=
  lift (fun w => w.completeCollective op) st

/-- The walk of a page of a context on a chip. -/
def W.walkOf (w : W) (chip ctx page : Nat) : Option Walk :=
  w.s.walks.find? fun k => k.chip == chip && k.ctx == ctx && k.page == page

/-- WALK_COMPLETE (17 R392, R405). -/
def execWalkComplete (chip ctx page : Nat) (st : State) : Host.Outcome State Fault Refusal :=
  lift (fun w => match w.walkOf chip ctx page with
    | some k => if k.mig.isNone then w.completeWalk k else w
    | none => w) st

/-- MIG_REWALK (17 R403): a walk that found MIG = 1 is tried again. -/
def execMigRewalk (chip ctx page : Nat) (st : State) : Host.Outcome State Fault Refusal :=
  lift (fun w => match w.walkOf chip ctx page with
    | some k => if k.mig.isSome then w.completeWalk { k with mig := none } else w
    | none => w) st

end Sys2Proof.Machine
end

