-- ==== Sys2Proof/Machine/Place.lean ====
section
/-! DEFINITION. Reservations and placement: rooms of cores, dealing groups, gangs, stacks, and the state at placement
(01 R13, R16, R23, R24; 04 R94, R95; 07 R138 to R148, R154, R466; 10 R222, R233). -/
namespace Sys2Proof.Machine

/-! ## Room (07 R144) -/

/-- What a core has free. -/
structure Room where
  /-- Group slots. -/
  slots : Nat
  /-- Vector registers. -/
  regs : Nat
  /-- Block-shared bytes. -/
  shared : Nat
  /-- Tiles. -/
  tiles : Nat
  /-- Engines. -/
  engines : Nat
  deriving DecidableEq, Repr

/-- An empty core (01 R13). -/
def Room.full : Room := { slots := 512, regs := 24576, shared := 524288, tiles := 32, engines := 4 }

/-- Block-shared bytes that one core of a span of c holds (07 R144). -/
def sharedShare (bytes c : Nat) : Nat := ceilDiv bytes (128 * max 1 c) * 128

/-- What a core has free now: saved blocks hold no core. -/
def W.room (w : W) (chip core : Nat) : Room :=
  let gs := w.s.groups.filter fun g => g.1.chip == chip && g.1.core == core
  let bs := w.s.blocks.filter fun b => b.2.chip == chip && b.2.span.contains core
  let sum := fun (xs : List Nat) => xs.foldl (· + ·) 0
  { slots := 512 - gs.length
    regs := 24576 - sum (gs.map fun g => g.2.vregs)
    shared := 524288 - sum (bs.map fun b => sharedShare b.2.shared b.2.span.length)
    tiles := 32 - sum ((bs.filter fun b => b.2.span.head? == some core).map fun b => b.2.tiles)
    engines := ((upTo 4).filter fun i => ((AList.get? (w.core (chip, core)).engines i).bind Engine.block).isNone).length }

/-- What a block asks for. -/
structure BlockNeed where
  /-- Groups. -/
  bgroups : Nat
  /-- Vector registers of a group. -/
  vregs : Nat
  /-- Tiles. -/
  tiles : Nat
  /-- Block-shared bytes. -/
  shared : Nat
  /-- Engines: one for a saved block that held one (12 R280). -/
  engines : Nat := 0

/-- What a block of a launch record asks for. -/
def LaunchRecord.need (x : LaunchRecord) : BlockNeed :=
  { bgroups := x.bgroups, vregs := x.vregs, tiles := x.tiles, shared := x.shared }

/-- Groups that each of c cores receives (07 R147). -/
def dealOf (n c : Nat) : List Nat := (upTo c).map fun i => n / c + if i < n % c then 1 else 0

/-- Choices of c members of a list, lowest first. -/
def choicesOf : Nat → List Nat → List (List Nat)
  | 0, _ => [[]]
  | _, [] => []
  | c + 1, x :: r => (choicesOf c r).map (x :: ·) ++ choicesOf (c + 1) r

/-- A core's room after its part of a block, where it fits; the first core holds the tiles. -/
def Room.take (x : Room) (b : BlockNeed) (groups c : Nat) (home : Bool) : Option Room :=
  let t := if home then b.tiles else 0
  let en := if home then b.engines else 0
  let sh := sharedShare b.shared c
  if groups ≤ x.slots ∧ groups * b.vregs ≤ x.regs ∧ sh ≤ x.shared ∧ t ≤ x.tiles ∧ en ≤ x.engines then
    some { slots := x.slots - groups, regs := x.regs - groups * b.vregs, shared := x.shared - sh, tiles := x.tiles - t,
           engines := x.engines - en }
  else none

/-- The rooms of a hardware cluster's cores by place, after a block dealt over some of them, where it fits. -/
def takeSpan (rooms : List Room) (b : BlockNeed) (span : List Nat) : Option (List Room) :=
  ((span.zip (dealOf b.bgroups span.length)).zipIdx).foldl (fun acc x =>
    acc.bind fun rs => (rs[x.1.1]?).bind fun room =>
      (room.take b x.1.2 span.length (x.2 == 0)).map fun y => rs.set x.1.1 y) (some rooms)

/-- The span of a block: the smallest size that fits, the lowest cores (07 R147). -/
def spanFor (rooms : List Room) (b : BlockNeed) : Option (List Nat × List Room) :=
  ((upTo (min 4 b.bgroups)).flatMap fun c => choicesOf (c + 1) (upTo rooms.length)).findSome? fun span =>
    (takeSpan rooms b span).map fun r => (span, r)

/-- The spans of blocks placed in order on one hardware cluster, where all fit (07 R148). -/
def gangFor : List BlockNeed → List Room → Option (List (List Nat) × List Room)
  | [], rooms => some ([], rooms)
  | b :: rest, rooms =>
    match spanFor rooms b with
    | none => none
    | some (span, r) => (gangFor rest r).map fun x => (span :: x.1, x.2)

/-- The cores of a hardware cluster, and their rooms (01 R12). -/
def clusterCores (hwcl : Nat) : List Nat := (upTo 4).map fun i => 4 * hwcl + i
/-- The rooms of a hardware cluster. -/
def W.rooms (w : W) (chip hwcl : Nat) : List Room := (clusterCores hwcl).map (w.room chip)
/-- The rooms of an empty hardware cluster. -/
def roomsEmpty : List Room := List.replicate 4 Room.full

/-! ## Partitions (05 R104; 07 R148, R154) -/

/-- Hardware clusters of a chip in a 128-bit set. -/
def clustersIn (set chip : Nat) : List Nat := (upTo 24).filter fun h => bitOf set (24 * (chip % 4) + h)

/-- Whether a context of the package has a hardware cluster in its reserved partition. -/
def W.reserved (w : W) (chip h : Nat) : Bool :=
  w.s.contexts.any fun c => c.1.1 == pkgOf chip && c.2.st != .free && c.2.st != .building && bitOf c.2.resv (24 * (chip % 4) + h)

/-- The hardware clusters on a chip where clusters of a launch may stand (07 R148, R154). -/
def W.partition (w : W) (l : Launch) : List Nat :=
  let c := w.context (pkgOf l.chip) l.ctx
  if l.record.rp then clustersIn c.resv l.chip else (clustersIn c.part l.chip).filter fun h => !w.reserved l.chip h

/-! ## Spill stacks (07 R466) -/

/-- The highest free range of a context's carve-out on a chip for a stack of some bytes. -/
def stackPlace (scratch len : Nat) (held : List (Nat × Nat × Nat × Nat)) : Option Nat :=
  let tops := scratch :: held.map fun x => x.2.2.1
  let fits := fun (b : Nat) => held.all fun x => decide (b + len ≤ x.2.2.1 ∨ x.2.2.1 + x.2.2.2 ≤ b)
  let cands := (tops.filter fun t => decide (len ≤ t)).map fun t => (t - len) / 128 * 128
  (cands.filter fits).foldl (fun (m : Option Nat) b => match m with
    | none => some b
    | some x => some (max x b)) none

/-- The stacks held on a chip for a context. -/
def W.spillStacks (w : W) (chip ctx : Nat) : List (Nat × Nat × Nat × Nat) := AList.getD w.s.spillStacks (chip, ctx) []

/-- The ranges of n more stacks, where all find one. -/
def stacksFor (scratch len : Nat) : Nat → List (Nat × Nat × Nat × Nat) → Option (List Nat)
  | 0, _ => some []
  | n + 1, held =>
    if len = 0 then some (List.replicate (n + 1) 0)
    else match stackPlace scratch len held with
      | none => none
      | some b => (stacksFor scratch len n ((0, 0, b, len) :: held)).map (b :: ·)

/-! ## Fitting (01 R24; 07 R146, R148, R154) -/

/-- Blocks of a software cluster of a launch (07 R140). -/
def LaunchRecord.clusterSize (x : LaunchRecord) (c : Nat) : Nat := min x.cblocks (x.blocks - c * x.cblocks)

/-- Whether a shape fits an empty hardware cluster, with the carve-out otherwise unused (01 R24; 07 R146). -/
def LaunchRecord.fitsEmpty (x : LaunchRecord) (scratch : Nat) : Bool :=
  let n := min x.cblocks x.blocks
  (gangFor (List.replicate n x.need) roomsEmpty).isSome && decide (n * x.bgroups * x.stack ≤ scratch)

/-- Places clusters of a grid on free hardware clusters, each on the lowest that holds it: the hardware cluster and the spans
of each, where all fit at once (07 R148, R154). -/
def gridFor : List (List BlockNeed) → List (Nat × List Room) → Option (List (Nat × List (List Nat)))
  | [], _ => some []
  | n :: r, rooms =>
    match rooms.findSome? fun h => (gangFor n h.2).map fun x => (h.1, x) with
    | none => none
    | some (h, spans, left) =>
      (gridFor r (rooms.map fun y => if y.1 = h then (h, left) else y)).map fun x => (h, spans) :: x

/-- What the blocks of a software cluster ask for. -/
def LaunchRecord.clusterNeed (x : LaunchRecord) (c : Nat) : List BlockNeed := List.replicate (x.clusterSize c) x.need

/-- What the clusters of a whole grid ask for. -/
def LaunchRecord.gridNeed (x : LaunchRecord) : List (List BlockNeed) := (upTo x.clusters).map x.clusterNeed

/-- Whether an RP grid can be resident whole on an empty reserved partition (07 R154): no hardware cluster holds more than
2,048 groups. -/
def LaunchRecord.fitsReserved (x : LaunchRecord) (hw : List Nat) (scratch : Nat) : Bool :=
  decide (x.blocks * x.bgroups ≤ 2048 * hw.length) && decide (x.blocks * x.bgroups * x.stack ≤ scratch) &&
  (gridFor x.gridNeed (hw.map fun h => (h, roomsEmpty))).isSome

/-- The hardware clusters that may take a cluster of a launch now, in the order they are tried: the one in drain mode for it
first, and no other that is in drain mode (07 R148, R153). -/
def W.candidates (w : W) (l : Launch) : List Nat :=
  let part := w.partition l
  (match l.drain with
    | some h => part.filter (· == h)
    | none => []) ++ part.filter fun y => !AList.has (w.chip l.chip).drain y

/-- Where the next cluster of a launch would go now: hardware cluster, spans and stack ranges of each cluster placed with
it; none where it does not fit (07 R148, R153, R154). An RP grid goes whole. -/
def W.placement (w : W) (l : Launch) : Option (List (Nat × List (List Nat)) × List Nat) :=
  let x := l.record
  let scratch := (w.context (pkgOf l.chip) l.ctx).scratch
  let hw := w.candidates l
  if x.rp && decide (2048 * hw.length < x.blocks * x.bgroups) then none
  else
    let needs := if x.rp then x.gridNeed else [x.clusterNeed l.next]
    match gridFor needs (hw.map fun h => (h, w.rooms l.chip h)) with
    | none => none
    | some p =>
      let n := (needs.map List.length).foldl (· + ·) 0
      (stacksFor scratch x.stack (n * x.bgroups) (w.spillStacks l.chip l.ctx)).map fun b => (p, b)

/-- Whether the next cluster of a launch waits: its launch is READY or PLACING and it does not fit (07 R152). -/
def W.waits (w : W) (l : Launch) : Bool :=
  (l.st == .ready || l.st == .placing) && w.launchOpen l.chip l.ctx && (w.placement l).isNone

/-! ## The state at placement (07 R142) -/

/-- The scalars at placement (07 R142). -/
def Launch.scalars (l : Launch) : AList Nat DWord :=
  let x := l.record
  let dims := x.gx + x.gy * 2 ^ 32 + x.gz * 2 ^ 48
  (0, BitVec.ofNat 64 x.args) :: (1, BitVec.ofNat 64 dims) ::
    ((l.args.getD []).zipIdx.map fun v => (v.2 + 2, v.1))

/-- A group at placement (07 R142; 08 R165). -/
def W.newGroup (w : W) (l : Launch) (block gid base : Nat) : Group :=
  let x := l.record
  { ctx := l.ctx, block := block, gid := gid, vregs := x.vregs, s := l.scalars
    ssp := BitVec.ofNat 64 x.stack, stackBase := base, stackLen := x.stack
    entries := [(0, { pc := BitVec.ofNat 64 x.entry })]
    readySince := some w.s.cycle
    runCheck := bitOf (w.probe l.chip l.ctx).cfg.toNat 2 }

/-- The barriers of a list of members. -/
def newBarrier (members : List Nat) : Barrier := { mem := members.length, rem := members.length, members := members }

/-- Members of block barrier i: first and count, of which those present count; count 0 is every group (04 R94, R97). -/
def LaunchRecord.barrierMembers (x : LaunchRecord) (i : Nat) : List Nat :=
  let first := x.barrier i % 256
  let count := x.barrier i / 256
  if count = 0 then upTo x.bgroups else (upTo x.bgroups).filter fun g => decide (first ≤ g ∧ g < first + count)

/-- Template indices that a record's tmask names, ascending. -/
def LaunchRecord.presetIndices (x : LaunchRecord) : List Nat := (upTo 16).filter fun i => bitOf x.tmask i

/-- The lowest free slots of a core. -/
def W.freeSlots (w : W) (chip core n : Nat) : List Nat :=
  ((upTo 512).filter fun s => !(AList.has w.s.groups { chip := chip, core := core, slot := s })).take n

/-- A placement on a chip: an IDLE one is READY again (20 R450). -/
def W.wake (w : W) (chip : Nat) : W :=
  w.updChip chip fun h => { h with idleSince := none, power := if h.power = .idle then .ready else h.power }

/-- Puts groups of a block into free slots of its span, ascending `%gid` (07 R147). -/
def W.dealGroups (w : W) (chip : Nat) (gs : List (Nat × Group)) : List (Nat × Nat) → W × List (Nat × GroupRef)
  | [] => (w.wake chip, [])
  | (core, n) :: rest =>
    let here := gs.take n
    let refs := ((w.freeSlots chip core n).zip here).map fun x =>
      (x.2.1, ({ chip := chip, core := core, slot := x.1 } : GroupRef), x.2.2)
    let w1 := w.each refs fun w x => (w.putGroup x.2.1 { x.2.2 with v := [] }).nameAll x.2.1 x.2.2.v
    let (w2, more) := w1.dealGroups chip (gs.drop n) rest
    (w2, (refs.map fun x => (x.1, x.2.1)) ++ more)

/-- The cores of a span by place in a hardware cluster. -/
def spanCores (hwcl : Nat) (span : List Nat) : List Nat := span.map fun i => 4 * hwcl + i

/-- Places one block of a launch: its groups, stacks, barriers and templates; its number (07 R142, R144, R147). -/
def W.placeBlock (w : W) (lid : Nat) (l : Launch) (cid hwcl bid : Nat) (span : List Nat) (bases : List Nat) : W × Nat :=
  let x := l.record
  let (n, w1) := w.fresh
  let cores := spanCores hwcl span
  let b : Block := {
    ctx := l.ctx, chip := l.chip, launch := lid, cluster := cid, bid := bid, bgroups := x.bgroups, span := cores
    live := upTo x.bgroups, tiles := x.tiles, shared := x.shared
    templates := x.presetIndices.zip l.presets
    bars := (upTo 16).map fun i => (i, newBarrier (x.barrierMembers i)) }
  let w2 : W := { w1 with s := { w1.s with blocks := AList.put w1.s.blocks n b } }
  let held := if x.stack = 0 then [] else (bases.zipIdx.map fun y => (n, y.2, y.1, x.stack))
  let w3 : W := { w2 with s := { w2.s with spillStacks := AList.put w2.s.spillStacks (l.chip, l.ctx) (w2.spillStacks l.chip l.ctx ++ held) } }
  let gs := (upTo x.bgroups).map fun g => (g, w3.newGroup l n g (bases.getD g 0))
  let (w4, slots) := w3.dealGroups l.chip gs (cores.zip (dealOf x.bgroups cores.length))
  (w4.updBlock n fun b => { b with slots := slots }, n)

/-- Places the blocks of a cluster in ascending `%bid`: their numbers. -/
def W.placeBlocks (w : W) (lid : Nat) (l : Launch) (cid hwcl : Nat) : Nat → List (List Nat) → List Nat → W × List Nat
  | _, [], _ => (w, [])
  | bid, span :: rest, bases =>
    let (w1, n) := w.placeBlock lid l cid hwcl bid span (bases.take l.record.bgroups)
    let (w2, ns) := w1.placeBlocks lid l cid hwcl (bid + 1) rest (bases.drop l.record.bgroups)
    (w2, n :: ns)

/-- Places one software cluster (07 R148; 10 R222). -/
def W.placeCluster (w : W) (lid : Nat) (l : Launch) (clid hwcl : Nat) (spans : List (List Nat)) (bases : List Nat) : W × List Nat :=
  let (cid, w1) := w.fresh
  let (w2, ns) := w1.placeBlocks lid l cid hwcl (clid * l.record.cblocks) spans bases
  let c : Cluster := {
    ctx := l.ctx, chip := l.chip, hwcl := hwcl, launch := lid, clid := clid, blocks := ns, size := ns.length
    bars := (upTo 8).map fun i => (i, newBarrier ns), placedAt := cid }
  ({ w2 with s := { w2.s with clusters := AList.put w2.s.clusters cid c } }, ns)

/-- Places clusters of a launch, from a `%clid` on: the numbers of all their blocks. -/
def W.placeClusters (w : W) (lid : Nat) (l : Launch) : Nat → List (Nat × List (List Nat)) → List Nat → W × List Nat
  | _, [], _ => (w, [])
  | clid, (hwcl, spans) :: rest, bases =>
    let k := spans.length * l.record.bgroups
    let (w1, ns) := w.placeCluster lid l clid hwcl spans (bases.take k)
    let (w2, more) := w1.placeClusters lid l (clid + 1) rest (bases.drop k)
    (w2, ns ++ more)

/-- Ends the drain mode that a launch asked for (07 R153). -/
def W.endDrain (w : W) (lid : Nat) : W :=
  match w.launch lid with
  | none => w
  | some l => match l.drain with
    | none => w
    | some h => (w.updChip l.chip fun c => { c with drain := AList.del c.drain h }).updLaunch lid fun l => { l with drain := none }

/-- Places the next cluster of a launch, or an RP grid whole, where it fits (07 R148, R154). -/
def W.placeNext (w : W) (lid : Nat) : W :=
  match w.launch lid with
  | none => w
  | some l =>
    match w.placement l with
    | none => w
    | some (ps, bases) =>
      let (w1, ns) := w.placeClusters lid l l.next ps bases
      let next := l.next + ps.length
      let w2 := (w1.endDrain lid).updLaunch lid fun l => { l with
        next := next, waitingSince := none
        st := if next = l.record.clusters then .running else l.st
        bars := if l.record.rp then (upTo 4).map fun i => (i, newBarrier ns) else l.bars }
      w2.updContext (pkgOf l.chip) l.ctx fun c => { c with st := if c.st = .bound then .running else c.st }

end Sys2Proof.Machine
end

