-- ==== Sys2Proof/Machine/Record.lean ====
section
/-! DEFINITION. Save-area format version 1: the per-group, split-table, barrier, per-block and per-engine records, which the
dump shares (05 R118; 12 R280; 24 R458 to R461). -/
namespace Sys2Proof.Machine

/-- Bytes padded with zeros to a multiple of 128. -/
def pad128 (bs : List Byte) : List Byte := bs ++ List.replicate ((128 - bs.length % 128) % 128) 0
/-- Zero bytes. -/
def zeros (n : Nat) : List Byte := List.replicate n 0

/-- The code of an entry's state (24 R460). -/
def EntryState.code : EntryState → Nat
  | .run => 1
  | .joinWait => 2
  | .hollow => 3

/-- An entry's place in the order of a group's entries (24 R460). -/
def Group.rank (g : Group) (e : Entry) : Nat := (g.entries.filter fun x => decide (x.2.order < e.order)).length

/-- An optional address of a split-table entry (24 R460). -/
def optAddr : Option DWord → Nat
  | none => 0
  | some a => fieldOf a.toNat 2 54 * 4 + 1

/-- The pending restore of a split-table entry (24 R460). -/
def pendingBits : Option PendingRestore → Nat
  | none => 0
  | some p => 1 + (if p.high then 2 else 0) + p.count * 4 + (if p.high then p.saved.toNat % 128 else p.saved.toNat) * 32

/-- A split-table entry, 48 bytes (24 R460). -/
def Group.entryBytes (g : Group) (i : Nat) : List Byte :=
  match AList.get? g.entries i with
  | none => zeros 48
  | some e =>
    bytesOf 8 (fieldOf e.pc.toNat 2 54 * 4 + e.st.code) ++ bytesOf 4 e.lanes.toNat ++
    bytesOf 4 (e.mode.toNat % 2 ^ 25 + g.rank e % 32 * 2 ^ 25) ++ bytesOf 4 (e.fmt.toNat % 2 ^ 22) ++
    bytesOf 4 (pendingBits e.pending) ++ bytesOf 8 (optAddr e.rcv) ++ bytesOf 8 (optAddr e.rejoin) ++
    bytesOf 4 (e.retMode.toNat % 2 ^ 25) ++
    bytesOf 4 (e.retFmt.toNat % 2 ^ 22 + (match e.partner with
      | some p => p * 2 ^ 22 + 2 ^ 27
      | none => 0))

/-- The lead fragment's address and mode state (24 R458). -/
def Group.lead (g : Group) : DWord × ModeState :=
  let runs := (upTo 32).filterMap fun i => match AList.get? g.entries i with
    | some e => if e.st == .hollow then none else some e
    | none => none
  match (match g.handler with
    | some h => AList.get? g.entries h
    | none => runs.head?) with
  | some e => (e.pc, e.modeState)
  | none => g.exitAt

/-- The pending restore of the lead fragment, 8 bytes (24 R458). -/
def leadPending : Option PendingRestore → Nat
  | none => 0
  | some p => 1 + (if p.high then 2 else 0) + p.count * 2 ^ 8 + p.saved.toNat * 2 ^ 32

/-- The per-group record (24 R458). -/
def Group.recordBytes (g : Group) : List Byte :=
  let (pc, ms) := g.lead
  let flags := (if g.st == .active then 1 else 0) + 2 + (if g.handler.isSome then 4 else 0) +
    (if g.st == .stopped then 8 else 0) + (if g.st == .retiring then 16 else 0)
  let window := match g.window with
    | none => zeros 24
    | some o => bytesOf 8 o.base.toNat ++ bytesOf 8 o.len ++ bytesOf 8 (o.count + 2 ^ 63)
  bytesOf 8 pc.toNat ++ bytesOf 8 flags ++ bytesOf 8 ms.mode.toNat ++ bytesOf 8 ms.fmt.toNat ++
  bytesOf 8 (leadPending ms.pending) ++ bytesOf 8 g.fflags.toNat ++ bytesOf 8 g.quor.toNat ++ bytesOf 8 g.ssp.toNat ++
  ((upTo 4).flatMap fun i => let x := g.windowOf i; bytesOf 8 (x.1 + x.2 * 256)) ++
  bytesOf 8 g.tcause.toNat ++ bytesOf 8 g.tpc.toNat ++ bytesOf 8 g.tmask.toNat ++ bytesOf 8 g.tval.toNat ++
  bytesOf 8 g.tmode.toNat ++ bytesOf 8 g.tfmt.toNat ++ bytesOf 8 g.tscr.toNat ++
  bytesOf 8 g.rgn.toNat ++ bytesOf 8 g.osig.toNat ++ window ++
  ((upTo 4).flatMap fun c => let b := g.cls c; bytesOf 8 b.status ++ bytesOf 2 b.seals ++ zeros 6) ++
  ((upTo 32).flatMap g.entryBytes) ++
  ((upTo 192).flatMap fun n => bytesOf 8 (g.sget n).toNat) ++
  ((upTo 12).flatMap fun n => bytesOf 4 (g.pget n).toNat) ++ zeros 80 ++
  ((upTo g.vregs).flatMap fun n => bytesOf 128 (g.vget n).toNat)

/-- The code of a stop cause (24 R458). -/
def StopCause.code : StopCause → Nat
  | .fault => 1
  | .dumpHalt => 2
  | .halt => 3

/-- A group's identity in a dump (24 R458). -/
def groupIdentity (r : GroupRef) (g : Group) (bid : Nat) : List Byte :=
  bytesOf 2 r.core ++ bytesOf 2 r.slot ++ bytesOf 1 ((g.stopCause.map StopCause.code).getD 0) ++ zeros 3 ++
  bytesOf 4 bid ++ bytesOf 2 g.gid ++ zeros 2

/-- A block's identity (24 R458). -/
def Block.identity (b : Block) : List Byte :=
  bytesOf 2 (b.span.headD 0) ++ zeros 6 ++ bytesOf 4 b.bid ++ bytesOf 2 b.bgroups ++ zeros 2

/-- A barrier record: PH, MEM, REM and the arrival masks of some groups (24 R459). -/
def Barrier.record (b : Barrier) (gs : List (Nat × Nat)) : List Byte :=
  bytesOf 1 (if b.ph then 1 else 0) ++ zeros 1 ++ bytesOf 2 b.mem ++ bytesOf 2 b.rem ++ zeros 10 ++
  gs.flatMap fun k => bytesOf 4 (b.mask k.1 k.2).toNat

/-- The barrier state of a block (24 R459). -/
def Block.barrierBytes (b : Block) (id : Nat) : List Byte :=
  b.identity ++ (upTo 16).flatMap fun i => (AList.getD b.bars i {}).record ((upTo b.bgroups).map fun g => (id, g))

/-- The cluster-barrier records of a software cluster (24 R459). -/
def W.clusterBarriers (w : W) (c : Cluster) : List Byte :=
  let gs := c.blocks.flatMap fun n => (upTo (((w.block n).map Block.bgroups).getD 0)).map fun g => (n, g)
  (upTo 8).flatMap fun i => (AList.getD c.bars i {}).record gs

/-- The block scalars as every later read sees them (09 R206). -/
def Block.scalarValue (b : Block) (n : Nat) : DWord :=
  ((b.scalars.reverse.find? fun x => x.b == n).map ScalarWrite.value).getD 0

/-- The value of `%tile` state bits in a save record (24 R461). -/
def TileState.code : TileState → Nat
  | .empty => 0
  | .filling => 1
  | .ready => 2
  | .draining => 3

/-- The tile table of a block (24 R461). -/
def Block.tileBytes (b : Block) : List Byte :=
  (upTo b.tiles).flatMap fun t =>
    let x : Tile := AList.getD b.table t {}
    bytesOf 8 x.ctl ++ bytesOf 8 (x.st.code + (if AList.has b.parked t then 4 else 0) + x.gen % 2 ^ 32 * 2 ^ 32)

/-- The sequence number that the batch of an operation has or will take, and whether it is sealed (24 R461). -/
def Group.batchOf (g : Group) (op : Nat) : Nat × Bool :=
  match (g.cls clsCp).sealed.find? fun s => s.2.any fun o => o.op == op with
  | some s => (s.1, true)
  | none => (((g.cls clsCp).seals + 1) % 4096, false)

/-- The parked list of a block, from its groups (24 R461). -/
def W.parkedBytes (w : W) (b : Block) (groups : List Group) : List Byte :=
  (upTo b.tiles).flatMap fun t =>
    match (AList.get? b.parked t).bind fun op => AList.get? w.s.copies op with
    | none => zeros 96
    | some c =>
      let s := match groups.find? fun g => g.gid == c.gid with
        | some g => g.batchOf c.op
        | none => (0, false)
      (c.tmpl.flatMap fun v => bytesOf 8 v.toNat) ++ bytesOf 8 c.x.toNat ++ bytesOf 2 c.gid ++ bytesOf 2 s.1 ++
        bytesOf 1 (if s.2 then 1 else 0) ++ zeros 19

/-- The per-block part of a cluster record (24 R461). -/
def W.blockRecord (w : W) (n : Nat) (b : Block) (groups : List Group) : List Byte :=
  let valid := maskBits 16 fun i => AList.has b.templates i
  b.identity ++ ((upTo 16).flatMap fun i => bytesOf 8 (b.scalarValue i).toNat) ++ bytesOf 8 valid ++ zeros 8 ++
  ((upTo 16).flatMap fun i => match AList.get? b.templates i with
    | some t => t.flatMap fun v => bytesOf 8 v.toNat
    | none => zeros 64) ++ zeros 96 ++
  pad128 b.tileBytes ++ pad128 (w.parkedBytes b groups) ++ pad128 (b.barrierBytes n) ++
  ((upTo b.tiles).flatMap fun t => w.m.bytes (tileKey n t 0) 65536) ++ pad128 (w.m.bytes (sharedKey n 0) b.shared)

/-- Bytes of a per-engine section (12 R280). -/
def engineSectionLen : Nat := 262272

/-- The engine of a section, which a block takes (12 R280). -/
def engineOfSection (n : Nat) (bs : List Byte) : Engine :=
  let word := fun (i : Nat) => ofBytes ((bs.drop (262144 + 4 * i)).take 4)
  { block := some n, g0 := word 0, h := word 1, G := word 2 % 32, nextG := word 2 % 32, nextH := word 1, oog := word 3
    oogSat := bitOf (word 4) 0 }

/-- Whether a section may be loaded (12 R280). -/
def engineSectionOk (bs : List Byte) : Bool :=
  let e := engineOfSection 0 bs
  decide (1 ≤ e.G) && decide (e.G ≤ 30) && f32Step e.h

/-- The per-engine section (12 R280). -/
def Engine.section' (e : Engine) (coefs : List Byte) : List Byte :=
  coefs ++ bytesOf 4 e.g0 ++ bytesOf 4 e.h ++ bytesOf 4 e.G ++ bytesOf 4 e.oog ++ bytesOf 4 (if e.oogSat then 1 else 0) ++ zeros 108

end Sys2Proof.Machine
end

