-- ==== Sys2Proof/Machine/Save.lean ====
section
/-! DEFINITION. Saving, restoring and moving software clusters (05 R116 to R118; 06 R134; 07 R149 to R151; 10 R234; 11 R260;
12 R280; 13 R301; 16 R388). -/
namespace Sys2Proof.Machine

/-! ## Units -/

/-- The groups of a block that hold a slot. -/
def W.groupsOf (w : W) (block : Nat) : List (GroupRef × Group) := w.s.groups.filter fun g => g.2.block == block
/-- The groups of a cluster that hold a slot. -/
def W.clusterGroups (w : W) (c : Cluster) : List (GroupRef × Group) := w.s.groups.filter fun g => c.blocks.contains g.2.block

/-- Whether a launch is an RP grid (06 R127). -/
def W.isRp (w : W) (launch : Nat) : Bool := ((w.launch launch).map fun l => l.record.rp).getD false

/-- Whether a block is pinned (07 R150). -/
def W.pinned (w : W) (n : Nat) : Bool :=
  match w.block n with
  | none => false
  | some b =>
    (w.s.cores.any fun c => c.2.engines.any fun e => e.2.block == some n) || w.isRp b.launch ||
      ((w.groupsOf n).any fun g => g.2.region.isSome)

/-- Asks the groups of a cluster to stop at their next boundary, for a save or for a move (05 R116; 07 R149). -/
def W.stopCluster (w : W) (cid : Nat) (target : Option Nat) : W :=
  match w.cluster cid with
  | none => w
  | some c =>
    if c.st == .saved then w
    else
      let w0 := w.updCluster cid fun c => { c with st := .stopping target }
      let w1 := w0.each c.blocks fun w n => w.updBlock n fun b => { b with moving := none }
      w1.each ((w1.clusterGroups c).map Prod.fst) fun w r => w.updGroup r fun g =>
        { g with stopping := g.st == .active || g.st == .resident }

/-- Ends a stop that has changed nothing: issue resumes (07 R149). -/
def W.unstopCluster (w : W) (cid : Nat) : W :=
  match w.cluster cid with
  | none => w
  | some c =>
    (w.updCluster cid fun c => { c with st := .placed }).each ((w.clusterGroups c).map Prod.fst) fun w r =>
      w.updGroup r fun g => { g with stopping := false }

/-! ## When a unit is quiet (05 R116; 11 R260; 16 R388) -/

/-- Whether a group stands at a boundary with nothing of its own on the way: no result or fault outstanding, no region or
`turn` sent, no write waiting at a home (15 R368). -/
def W.groupQuiet (w : W) (r : GroupRef) (g : Group) : Bool :=
  !g.outstanding && g.fault.isNone && g.turnWait.isNone && !(w.ownWaiting r) && (match g.region with
    | some rg => !rg.sent
    | none => true)

/-- Whether the engine operations, the tile writes and the copies of tiles of a block are done, and the arrivals of multicasts
aimed at it have landed; parked copies stay parked, and other copies keep running (05 R116; 11 R260; 13 R296, R301). -/
def W.blockQuiet (w : W) (n : Nat) : Bool :=
  (w.engineOps n).isEmpty &&
  (((w.block n).map fun b => b.table.all fun t => t.2.landing.isEmpty && t.2.writers == 0).getD true) &&
  w.s.copies.all fun c =>
    if c.2.dir == .multicast then !(c.2.dests.any fun d => d.2 == n)
    else !(c.2.block == n) || c.2.st == .parked || c.2.dir == .memMem || c.2.dir == .memShared

/-- Performs the stores of groups that are on their way; false while some cannot be performed. -/
def W.flushGroups (w : W) : List GroupRef → Bool × W
  | [] => (true, w)
  | r :: rest =>
    let (ok, w1) := w.flushOps r
    let (ok', w2) := w1.flushGroups rest
    (ok && ok', w2)

/-- Brings a block to its saved boundary: regions not sent are discarded and the latch is emptied (11 R260; 16 R388). -/
def W.settleBlock (w : W) (n cause : Nat) : W :=
  let w1 := w.each ((w.groupsOf n).map Prod.fst) fun w r =>
    (w.discardRegion r 6 cause 0).updGroup r fun g => { g with
      latchAt := none, releasing := none, buffer := [], walks := [], waitingSince := none
      entries := AList.mapVal g.entries fun _ e => { e with
        stall := none, refill := none
        wait := match e.wait with
          | some (.tsync _) => none
          | x => x } }
  w1.updBlock n fun b => { b with latch := none }

/-! ## Leaving and taking cores -/

/-- Names the slot of a group in what its copies and unit operations keep of it; a saved group has none (13 R301). -/
def W.rebind (w : W) (block gid : Nat) (r : GroupRef) : W :=
  { w with s := { w.s with
      copies := AList.mapVal w.s.copies fun _ c => if c.block == block && c.gid == gid then { c with grp := r } else c
      units := AList.mapVal w.s.units fun _ u => if u.owner == (block, gid) then { u with grp := r } else u } }

/-- The name of no slot, on a chip. -/
def noSlot (chip : Nat) : GroupRef := { chip := chip, core := 96, slot := 512 }

/-- Takes a group out of its slot; its stack range and its place in its block stay (05 R117; 07 R466). -/
def W.unslot (w : W) (r : GroupRef) (g : Group) : W :=
  let w1 := (w.unmapAll r g).dropGroup r
  let w2 : W := { w1 with s := { w1.s with walks := w1.s.walks.map fun k => { k with joined := k.joined.filter (· != r) } } }
  w2.rebind g.block g.gid (noSlot r.chip)

/-- Takes a block's engine away, if it has one: its registers and coefficient bytes go (12 R280). -/
def W.takeEngineAway (w : W) (n : Nat) : W :=
  match w.block n with
  | none => w
  | some b =>
    match b.engine with
    | none => w
    | some e =>
      let lo := coefKey b.home.1 b.home.2 e 0
      let w1 : W := { w with m := w.m.clear fun a => decide (lo ≤ a ∧ a < lo + 262144) }
      w1.updEngine b.home e fun _ => {}

/-- Loads a saved section into the lowest free engine of the block's home core (12 R280). -/
def W.giveEngine (w : W) (n : Nat) (saved : List Byte) : W :=
  match w.block n with
  | none => w
  | some b =>
    match (upTo 4).find? fun i => ((w.core b.home).engine i).block.isNone with
    | none => w
    | some i =>
      let w1 := (w.updEngine b.home i fun _ => engineOfSection n saved).updBlock n fun b => { b with engine := some i }
      w1.writeCells (cellsOf (coefKey b.home.1 b.home.2 i 0) (saved.take 262144))

/-- Takes a block off its cores: its groups, and its engine where it has one. -/
def W.unseatBlock (w : W) (n : Nat) : W × List Group :=
  let gs := w.groupsOf n
  let w2 := (w.takeEngineAway n).each gs fun w x => w.unslot x.1 x.2
  (w2.updBlock n fun b => { b with span := [], slots := [] }, gs.map Prod.snd)

/-- A group as it takes a slot again: RESIDENT unless it had stopped or was retiring (05 R117; 08 R157). -/
def W.readmit (w : W) (g : Group) : Group :=
  { g with stopping := false, readySince := some w.s.cycle, waitingSince := none
           st := if g.st == .active then .resident else g.st }

/-- Inserts a group by ascending `%gid`. -/
def insertGid (x : Group) : List Group → List Group
  | [] => [x]
  | y :: r => if x.gid < y.gid then x :: y :: r else y :: insertGid x r

/-- Puts a block's groups on cores again, dealt as at placement, with its engine (05 R117; 07 R147). -/
def W.seatBlock (w : W) (n : Nat) (cores : List Nat) (gs : List Group) (e : Option (List Byte)) : W :=
  match w.block n with
  | none => w
  | some b =>
    let sorted := gs.foldl (fun acc g => insertGid g acc) []
    let (w1, slots) := w.dealGroups b.chip (sorted.map fun g => (g.gid, w.readmit g)) (cores.zip (dealOf gs.length cores.length))
    let w2 := w1.updBlock n fun b => { b with span := cores, slots := slots }
    let w3 := w2.each slots fun w x => w.rebind n x.1 x.2
    let w4 : W := { w3 with s := { w3.s with copies := AList.mapVal w3.s.copies fun _ c =>
      if c.block == n then { c with core := cores.headD 0 } else c } }
    match e with
    | some s => w4.giveEngine n s
    | none => w4

/-- What a block that is saved or moved asks for: its groups that have not retired (07 R144). -/
def W.needOf (w : W) (n : Nat) (gs : List Group) (engine : Bool) : BlockNeed :=
  match w.block n with
  | none => { bgroups := 0, vregs := 0, tiles := 0, shared := 0 }
  | some b => { bgroups := gs.length, vregs := (gs.head?.map Group.vregs).getD 0, tiles := b.tiles, shared := b.shared,
                engines := if engine then 1 else 0 }

/-! ## The record in the save area (05 R118) -/

/-- Free bytes. -/
def W.freeBytes (w : W) : Nat → W × List Byte
  | 0 => (w, [])
  | n + 1 =>
    let (x, w1) := w.draw
    let (w2, r) := w1.freeBytes n
    (w2, BitVec.ofNat 8 x :: r)

/-- The blocks of a list that are bound to an engine. -/
def W.engineBlocks (w : W) (ns : List Nat) : List Nat := ns.filter fun n => ((w.block n).bind Block.engine).isSome

/-- The 256 bytes of a cluster header. The spec names what they hold and gives no layout (05 R118; DESIGN CHOICE, log 111): the
record's length, the version, `%clid`, `%grid`, and the places of the first block, group and engine section. -/
def W.clusterHeader (w : W) (c : Cluster) (first groups engines len : Nat) : List Byte :=
  bytesOf 8 len ++ bytesOf 4 1 ++ bytesOf 4 c.clid ++ bytesOf 8 (((w.launch c.launch).map Launch.gridId).getD 0) ++
  bytesOf 8 first ++ bytesOf 8 groups ++ bytesOf 8 engines ++ zeros 208

/-- The record of a cluster at its boundary (05 R118; 12 R280; 24 R458 to R461). -/
def W.clusterRecord (w : W) (c : Cluster) : List Byte :=
  let bars := w.clusterBarriers c
  let blocks := c.blocks.flatMap fun n => match w.block n with
    | some b => w.blockRecord n b ((w.groupsOf n).map Prod.snd)
    | none => []
  let groups := c.blocks.flatMap fun n => ((w.groupsOf n).map Prod.snd).flatMap fun g => pad128 g.recordBytes
  let engines := (w.engineBlocks c.blocks).flatMap fun n => match w.block n with
    | some b => match b.engine with
      | some e => ((w.core b.home).engine e).section' (w.m.bytes (coefKey b.home.1 b.home.2 e 0) 262144)
      | none => []
    | none => []
  let first := ceilDiv (256 + bars.length) 128 * 128
  let at1 := first + blocks.length
  let at2 := at1 + groups.length
  pad128 (w.clusterHeader c first at1 at2 (at2 + engines.length) ++ bars) ++ blocks ++ groups ++ engines

/-- The extents of the records in a context's save area. -/
def W.savedExtents (w : W) (pkg ctx : Nat) : List (Nat × Nat) :=
  (w.s.clusters.filter fun c => pkgOf c.2.chip == pkg && c.2.ctx == ctx && c.2.st == .saved).map fun c =>
    (c.2.savedBytes.1, c.2.savedBytes.2.length)

/-- Where a record goes: a free place in the save area, in units of 128 bytes; the spec does not say which (05 R118). -/
def W.savePlace (w : W) (pkg ctx len : Nat) : W × Nat :=
  let c := w.context pkg ctx
  let held := w.savedExtents pkg ctx
  let fits := fun (a : Nat) => decide (a + len ≤ c.save + c.savelen) && held.all fun x => decide (a + len ≤ x.1 ∨ x.1 + x.2 ≤ a)
  let (n, w1) := w.draw
  let drawn := c.save + n % max 1 (c.savelen / 128) * 128
  let ends := c.save :: held.map fun x => ceilDiv (x.1 + x.2) 128 * 128
  (w1, if fits drawn then drawn else (ends.find? fits).getD c.save)

/-! ## Restoring (05 R117, R118) -/

/-- Whether a saved record still reads as it was written, up to its engine sections, and those may be loaded (05 R118;
12 R280). -/
def W.recordIntact (w : W) (pkg engines : Nat) (x : Nat × List Byte) : Bool :=
  let n := x.2.length - engineSectionLen * engines
  x.2.isEmpty || (decide (w.physRead pkg x.1 n = x.2.take n) &&
    ((upTo engines).all fun i => engineSectionOk (w.physRead pkg (x.1 + n + engineSectionLen * i) engineSectionLen)) &&
    (w.s.poison.isEmpty || match anyCell pkg x.1 with
      | some c => (upTo x.2.length).all fun i => !w.poisoned (c + i)
      | none => true))

/-- The section of a block's engine in the save area, where the saved cluster has one (12 R280). -/
def W.savedSection (w : W) (c : Cluster) (n : Nat) : Option (List Byte) :=
  if c.savedEngines.contains n then
    let left := c.savedEngines.length - c.savedEngines.findIdx (· == n)
    some (w.physRead (pkgOf c.chip) (c.savedBytes.1 + c.savedBytes.2.length - engineSectionLen * left) engineSectionLen)
  else none

/-- Spans for a saved cluster on one hardware cluster, where it fits: the stacks stay where they are (07 R466). -/
def W.restoreSpans (w : W) (c : Cluster) : List BlockNeed :=
  c.blocks.map fun n => w.needOf n (c.savedGroups.filter fun g => g.block == n) (c.savedEngines.contains n)

/-- The lead fragment's entry of a group; one with no lanes where all have exited. -/
def Group.leadEntry (g : Group) : Entry :=
  let runs := (upTo 32).filterMap fun i => (AList.get? g.entries i).filter fun e => e.st != .hollow
  match (match g.handler with
    | some h => AList.get? g.entries h
    | none => runs.head?) with
  | some e => e
  | none => { pc := g.exitAt.1, lanes := 0, mode := g.exitAt.2.mode, fmt := g.exitAt.2.fmt, pending := g.exitAt.2.pending }

/-- A group whose saved record is inconsistent stops with POISON, as a fault that stops it (05 R111, R112, R118; 24 R462). -/
def W.stopBad (w : W) (r : GroupRef) (g : Group) : W :=
  let e := g.leadEntry
  let w1 := w.updGroup r fun g => g.trapped { code := fcPOISON } e e.pc
  ((w1.stopGroup r (some .fault)).halted r g.ctx e.pc.toNat fcPOISON).startDump r g.ctx 0 fcPOISON

/-- Restores a saved cluster on a hardware cluster, which places it anew; groups of a record found inconsistent stop with
POISON (05 R117, R118; 06 R134). What its batches set free while it was saved follows. -/
def W.restoreCluster (w : W) (cid hwcl : Nat) (spans : List (List Nat)) : W :=
  match w.cluster cid with
  | none => w
  | some c =>
    let intact := w.recordIntact (pkgOf c.chip) c.savedEngines.length c.savedBytes
    let w1 := w.each (c.blocks.zip spans) fun w x =>
      w.seatBlock x.1 (spanCores hwcl x.2) (c.savedGroups.filter fun g => g.block == x.1) (w.savedSection c x.1)
    let (now, w2) := w1.fresh
    let w3 := w2.updCluster cid fun c => { c with
      st := .placed, hwcl := hwcl, placedAt := now, savedGroups := [], savedEngines := [], savedBytes := (0, []) }
    let w4 := if intact then w3 else w3.each (w3.clusterGroups c) fun w x => w.stopBad x.1 x.2
    let w5 := w4.each c.blocks fun w n => (w.tryRegroup n).2
    w5.each ((w5.clusterGroups c).map Prod.fst) fun w r => w.tryRetire r

/-- Where saved clusters would go now, each whole on one hardware cluster, where all fit at once. -/
def W.restorePlaces (w : W) (l : Launch) (cs : List Cluster) : Option (List (Nat × List (List Nat))) :=
  gridFor (cs.map w.restoreSpans) ((w.candidates { l with drain := none }).map fun h => (h, w.rooms l.chip h))

/-! ## Moving (07 R149 to R151) -/

/-- Whether a context's units may be moved (07 R151). -/
def W.movable (w : W) (chip ctx : Nat) : Bool :=
  let s := (w.context (pkgOf chip) ctx).st
  s == .running || s == .bound

/-- Whether some cluster waits on a chip (07 R149, R152). -/
def W.someWaits (w : W) (chip : Nat) : Bool := w.s.launches.any fun l => l.2.chip == chip && w.waits l.2

/-- What the blocks of a placed cluster ask for. -/
def W.clusterNeeds (w : W) (c : Cluster) : List BlockNeed :=
  c.blocks.map fun n => w.needOf n ((w.groupsOf n).map Prod.snd) false

/-- Where a placed cluster would go on another hardware cluster, to which it may move and on which it has room (07 R149,
R153). -/
def W.moveSpans (w : W) (c : Cluster) (hwcl : Nat) : Option (List (List Nat)) :=
  let part := clustersIn (w.context (pkgOf c.chip) c.ctx).part c.chip
  if w.movable c.chip c.ctx && hwcl != c.hwcl && part.contains hwcl && !w.reserved c.chip hwcl && !w.reserved c.chip c.hwcl &&
      !AList.has (w.chip c.chip).drain hwcl then
    ((gridFor [w.clusterNeeds c] [(hwcl, w.rooms c.chip hwcl)]).bind List.head?).map Prod.snd
  else none

/-- Asks for a move of a cluster to another hardware cluster of its chip, to gather room for one that waits (07 R149). -/
def W.moveCluster (w : W) (cid hwcl : Nat) : W :=
  match w.cluster cid with
  | none => w
  | some c =>
    if c.st == .placed && w.someWaits c.chip && !w.isRp c.launch && (w.moveSpans c hwcl).isSome then w.stopCluster cid (some hwcl)
    else w

/-- Cores of its own hardware cluster, the given one first, on which a block fits once it has left its own: by place, and not
those it has (07 R149). -/
def W.blockSpan (w : W) (n : Nat) (b : Block) (hwcl core : Nat) : Option (List Nat) :=
  let gone := { w with s := { w.s with
    groups := w.s.groups.filter fun g => g.2.block != n
    blocks := AList.upd w.s.blocks n fun b => { b with span := [] } } }
  let need := w.needOf n ((w.groupsOf n).map Prod.snd) false
  ((upTo (min 4 need.bgroups)).flatMap fun k => choicesOf (k + 1) (upTo 4)).find? fun s =>
    s.head? == some (core % 4) && spanCores hwcl s != b.span && (takeSpan (gone.rooms b.chip hwcl) need s).isSome

/-- Asks for a move of a block to cores of its own hardware cluster, a given core its first (07 R149). -/
def W.moveBlock (w : W) (n core : Nat) : W :=
  match w.block n with
  | none => w
  | some b =>
    match w.cluster b.cluster with
    | none => w
    | some c =>
      if c.st == .placed && b.moving.isNone && w.movable b.chip b.ctx && w.someWaits b.chip && !w.isRp b.launch &&
          core / 4 == c.hwcl && (w.blockSpan n b c.hwcl core).isSome then
        (w.updBlock n fun b => { b with moving := some core }).each ((w.groupsOf n).map Prod.fst) fun w r => w.updGroup r fun g =>
          { g with stopping := g.st == .active || g.st == .resident }
      else w

/-- Ends a stop of a block that has changed nothing: issue resumes (07 R149). -/
def W.unstopBlock (w : W) (n : Nat) : W :=
  (w.updBlock n fun b => { b with moving := none }).each ((w.groupsOf n).map Prod.fst) fun w r =>
    w.updGroup r fun g => { g with stopping := false }

/-! ## Saving (05 R116) -/

/-- Whether a range of the save area may be written and seen at once: nothing leased, waiting or checked out lies in it. -/
def W.rangeClear (w : W) (pkg place len : Nat) : Bool :=
  match anyCell pkg place with
  | none => true
  | some c => (upTo (ceilDiv len 128)).all fun i => w.lineFree (c + 128 * i) && w.recalled (lineOf (c + 128 * i)) none

/-- Blocks whose groups have stopped reach their saved boundary and are written to the save area, as a cluster of these
blocks; where the record went. None while an operation that must end has not, or the record cannot be written whole
(05 R116, R118). -/
def W.writeRecord (w : W) (c : Cluster) : W × Option (Nat × List Byte) :=
  if !((w.clusterGroups c).all fun g => w.groupQuiet g.1 g.2) || !(c.blocks.all w.blockQuiet) then (w, none)
  else
    match w.flushGroups ((w.clusterGroups c).map Prod.fst) with
    | (false, w1) => (w1, none)
    | (true, w1) =>
      if !((w1.clusterGroups c).all fun g => w1.groupQuiet g.1 g.2 && g.2.ops.isEmpty) then (w1, none)
      else
        let pkg := pkgOf c.chip
        let w2 := (w1.departures c.chip).each c.blocks fun w n => w.settleBlock n 1
        let bytes := w2.clusterRecord c
        let (w3, place) := w2.savePlace pkg c.ctx bytes.length
        if w3.rangeClear pkg place bytes.length then (w3.physWrite pkg place bytes, some (place, bytes)) else (w1, none)

/-- A cluster that has been written to the save area leaves its cores. -/
def W.leaveCores (w : W) (cid : Nat) (c : Cluster) (at' : Nat × List Byte) : W :=
  let engines := w.engineBlocks c.blocks
  let (w1, gs) := c.blocks.foldl (fun (acc : W × List Group) n =>
    let (w', g) := acc.1.unseatBlock n
    (w', acc.2 ++ g)) (w, [])
  w1.updCluster cid fun c => { c with st := .saved, savedGroups := gs, savedEngines := engines, savedBytes := at' }

/-- A block that stops for a move, once its groups stand at boundaries: pinned, or with no room left at its target, it goes on;
else it is written to the save area and takes its new cores (07 R149, R150). -/
def W.finishBlockMove (w : W) (c : Cluster) (n : Nat) (b : Block) (core : Nat) : W :=
  if !((w.groupsOf n).all fun g => w.groupQuiet g.1 g.2) then w
  else match (if w.pinned n then none else w.blockSpan n b c.hwcl core) with
    | none => w.unstopBlock n
    | some span =>
      match w.writeRecord { c with blocks := [n] } with
      | (w1, none) => w1
      | (w1, some _) =>
        let (w2, gs) := w1.unseatBlock n
        (w2.updBlock n fun b => { b with moving := none }).seatBlock n (spanCores c.hwcl span) gs none

/-- CLUSTER_SAVE: a stopping cluster whose groups and operations are quiet is written to the save area and leaves its cores.
One that stops for a move goes on where it is pinned or its target has no room left, and else is placed there; so does a block
that stops for a move (05 R116; 07 R149 to R151). -/
def W.saveCluster (w : W) (cid : Nat) : W :=
  match w.cluster cid with
  | none => w
  | some c =>
    match c.st with
    | .placed =>
      match c.blocks.findSome? fun n => (w.block n).bind fun b => b.moving.map fun core => (n, b, core) with
      | some (n, b, core) => w.finishBlockMove c n b core
      | none => w
    | .stopping target =>
      if !((w.clusterGroups c).all fun g => w.groupQuiet g.1 g.2) then w
      else match target with
        | none =>
          match w.writeRecord c with
          | (w1, none) => w1
          | (w1, some at') => w1.leaveCores cid c at'
        | some h =>
          match (if c.blocks.any w.pinned then none else w.moveSpans c h) with
          | none => w.unstopCluster cid
          | some spans =>
            match w.writeRecord c with
            | (w1, none) => w1
            | (w1, some at') => (w1.leaveCores cid c at').restoreCluster cid h spans
    | .saved => w

/-! ## Pre-emption by priority (06 R134) -/

/-- The part as it would stand with a cluster's groups and blocks gone from their cores. -/
def W.without (w : W) (c : Cluster) : W :=
  { w with s := { w.s with
      groups := w.s.groups.filter fun g => !c.blocks.contains g.2.block
      blocks := AList.mapVal w.s.blocks fun n b => if c.blocks.contains n then { b with span := [] } else b } }

/-- Whether the next cluster of a launch would fit on a hardware cluster with a cluster saved: the saved groups keep their
stacks (06 R134; 07 R144, R466). -/
def W.wouldFit (w : W) (l : Launch) (c : Cluster) : Bool :=
  let need := l.record.clusterNeed l.next
  (gridFor [need] [(c.hwcl, (w.without c).rooms l.chip c.hwcl)]).isSome &&
  (stacksFor (w.context (pkgOf l.chip) l.ctx).scratch l.record.stack (need.length * l.record.bgroups)
    (w.spillStacks l.chip l.ctx)).isSome

/-- The cluster that the distributor pre-empts for a waiting launch, where it does: drain mode shields none, and a pending move
gives way (06 R134; 07 R151, R153). -/
def W.victim (w : W) (l : Launch) : Option Nat :=
  let prioOf := fun (c : Cluster) => ((w.launch c.launch).map fun k => k.record.prio).getD 3
  let busy := w.s.clusters.any fun c => c.2.chip == l.chip && c.2.st == .stopping none
  if busy || (w.placement l).isSome then none
  else
    let able := w.s.clusters.filter fun c =>
      c.2.chip == l.chip && c.2.st != .saved && decide (prioOf c.2 < l.record.prio) && !w.isRp c.2.launch &&
      (w.partition l).contains c.2.hwcl && w.wouldFit l c.2
    (able.foldl (fun (b : Option (Nat × Cluster)) x => match b with
      | none => some x
      | some y =>
        if prioOf x.2 < prioOf y.2 ∨ (prioOf x.2 = prioOf y.2 ∧ y.2.placedAt < x.2.placedAt) then some x else some y) none).map
      Prod.fst

end Sys2Proof.Machine
end

