-- ==== Sys2Proof/Machine/Queue.lean ====
section
/-! DEFINITION. Hardware queues and launches: registers, doorbells, reading and checking records, waits, arbitration,
arguments, placement, device-side launches and completion (06 R123 to R137; 07 R143, R148 to R156). -/
namespace Sys2Proof.Machine

/-! ## The package as a whole -/

/-- The chips of a package (01 R10). -/
def chipsOf (pkg : Nat) : List Nat := (upTo 4).map fun c => 4 * pkg + c

/-- Whether a package takes context commands and doorbells: every CLD has reported READY (20 R443). -/
def W.packageReady (w : W) (pkg : Nat) : Bool :=
  (chipsOf pkg).all fun c => (w.chip c).power != .boot && (w.chip c).power != .recovery

/-! ## Queue registers (06 R124 to R126) -/

/-- QCFG.EN. -/
def Queue.en (q : Queue) : Bool := bitOf q.cfg.toNat 0
/-- QCFG.DEV. -/
def Queue.dev (q : Queue) : Bool := bitOf q.cfg.toNat 1
/-- QCFG.SZ. -/
def Queue.sz (q : Queue) : Nat := fieldOf q.cfg.toNat 2 4
/-- QCFG.QIX. -/
def Queue.qix (q : Queue) : Nat := fieldOf q.cfg.toNat 6 6
/-- QCFG.BASE as an address. -/
def Queue.base (q : Queue) : Nat := fieldOf q.cfg.toNat 12 44 * 4096
/-- QCFG.CTX. -/
def Queue.ctx (q : Queue) : Nat := fieldOf q.cfg.toNat 56 6
/-- Records the ring holds. -/
def Queue.ring (q : Queue) : Nat := 2 ^ (q.sz + 4)
/-- Records between HEAD and TAIL, modulo 2^32 (06 R126). -/
def Queue.fill (q : Queue) : Nat := (q.tail - q.head).toNat

/-- The RW bits of QCFG. -/
def qcfgMask : DWord := 0x3FFFFFFFFFFFFFFF

/-- Whether setting EN fails (06 R125): the context's state, its quota, a queue index in use, a reserved SZ. -/
def W.queueRefused (w : W) (chip q : Nat) (x : Queue) : Bool :=
  let c := w.context (pkgOf chip) x.ctx
  let others := (w.chip chip).queues.filter fun y => y.1 != q && y.2.en && y.2.ctx == x.ctx
  !(c.st == .bound || c.st == .running || c.st == .preempted) || decide (c.queues < others.length + 1) ||
    (others.any fun y => y.2.qix == x.qix) || decide (13 ≤ x.sz)

/-- QUEUE_ENABLE: a write of QCFG with EN set (06 R124, R125, R128). -/
def execQueueEnable (chip queue : Nat) (value : DWord) (st : State) : Host.Outcome State Fault Refusal :=
  liftBar chip (fun w =>
    let old := w.queue chip queue
    if !bitOf value.toNat 0 || old.en || decide (256 ≤ queue) then w
    else
      let new : Queue := { old with cfg := value &&& qcfgMask }
      if w.queueRefused chip queue new then
        (w.updQueue chip queue fun _ => { new with cfg := new.cfg &&& ~~~1, code := 1 }).out
          (.irq chip (fieldOf old.misc.toNat 20 11))
      else w.updQueue chip queue fun _ => new) st

/-- QUEUE_DISABLE: a write of QCFG with EN clear; only EN changes while the queue was enabled (06 R124, R125). -/
def execQueueDisable (chip queue : Nat) (value : DWord) (st : State) : Host.Outcome State Fault Refusal :=
  liftBar chip (fun w =>
    if bitOf value.toNat 0 || decide (256 ≤ queue) then w
    else w.updQueue chip queue fun q =>
      { q with cfg := if q.en then q.cfg &&& ~~~1 else value &&& qcfgMask }) st

/-! ## Launches and their queue (06 R129 to R131) -/

/-- Whether a launch is RUNNING or later. -/
def LaunchState.started : LaunchState → Bool
  | .running | .draining | .done => true
  | _ => false

/-- PENDING launches of a queue whose conditions hold enter READY, in record order (06 R129, R130). -/
def W.advance (w : W) (chip q : Nat) : W :=
  let step := fun (acc : W × Bool) (i : Nat) =>
    match acc.1.launch i with
    | none => acc
    | some l =>
      if l.st != .pending then acc
      else if acc.2 && l.met0 && l.met1 && !(l.record.ser && AList.has acc.1.s.launches l.prev) then
        (acc.1.updLaunch i fun l => { l with st := .ready }, true)
      else (acc.1, false)
  ((w.queue chip q).launches.foldl step (w, true)).1

/-- Forgets a launch: it is DONE, or discarded, which counts as DONE (06 R130, R131). -/
def W.forgetLaunch (w : W) (lid : Nat) (l : Launch) : W :=
  let w1 := (w.endDrain lid).updQueue l.chip l.queue fun q => { q with launches := q.launches.filter (· != lid) }
  ({ w1 with s := { w1.s with launches := AList.del w1.s.launches lid } } : W).advance l.chip l.queue

/-- An XLATE stop after a launch already read past HEAD: the launch is discarded without a signal (06 R131; 07 R143). -/
def W.discardLaunch (w : W) (lid : Nat) (l : Launch) : W :=
  ((w.forgetLaunch lid l).stopQueue l.chip l.queue 6 false).idleContext (pkgOf l.chip) l.ctx

/-- Evaluates one wait of a launch: the value at its counter, read at sys scope; none where the queue must stop
(06 R131). A counter with an uncorrectable error, or behind links all FENCED, stops it too (DESIGN CHOICE, log 27). -/
def W.waitMet (w : W) (l : Launch) (va threshold : Nat) : W × Option Bool :=
  match w.unitAccess l.chip l.ctx .read 8 (BitVec.ofNat 64 va) with
  | (w1, .ok acc) =>
    if acc.path.replicated then (w1, none)
    else if w1.unitReach l.chip acc.path = .held then (w1, some false)
    else if w1.unitReach l.chip acc.path = .fenced || w1.accPoisoned acc then (w1, none)
    else (w1, some (decide (threshold ≤ ofBytes (w1.homeBytes acc.key 8))))
  | (w1, .walk _) => (w1, some false)
  | (w1, .flt _) => (w1, none)
  | (w1, .gone) => (w1.noFrame, none)

/-- Evaluates the waits of one PENDING launch (06 R131). -/
def W.evalLaunch (w : W) (lid : Nat) : W :=
  match w.launch lid with
  | none => w
  | some l =>
    if l.st != .pending || !w.launchOpen l.chip l.ctx then w
    else
      let one := fun (w : W) (met : Bool) (va threshold : Nat) => if met then (w, some true) else w.waitMet l va threshold
      match one w l.met0 (l.record.field 0x50 8) (l.record.field 0x58 8) with
      | (w1, none) => w1.discardLaunch lid l
      | (w1, some m0) =>
        match one w1 l.met1 (l.record.field 0x60 8) (l.record.field 0x68 8) with
        | (w2, none) => w2.discardLaunch lid l
        | (w2, some m1) => (w2.updLaunch lid fun l => { l with met0 := m0, met1 := m1 }).advance l.chip l.queue

/-- Evaluates the waits of the PENDING launches of some chips (06 R131). -/
def W.evalWaits (w : W) (on : Nat → Bool) : W :=
  w.each ((w.s.launches.filter fun l => on l.2.chip && l.2.st == .pending).map Prod.fst) fun w i => w.evalLaunch i

/-- WAIT_EVALUATE: the periodic evaluation of a chip (06 R131). -/
def execWaitEvaluate (chip : Nat) (st : State) : Host.Outcome State Fault Refusal :=
  lift (fun w => w.evalWaits (· == chip)) st

/-- A TAIL beyond the ring stops a queue that is not stopped (06 R126). -/
def W.checkOver (w : W) (chip q : Nat) : W :=
  let x := w.queue chip q
  if decide (x.ring < x.fill) && !x.stop then w.stopQueue chip q 2 false else w

/-- DOORBELL: a write of QTAIL, which a device-fed queue ignores (06 R124, R126, R131). -/
def execDoorbell (chip queue : Nat) (value : DWord) (st : State) : Host.Outcome State Fault Refusal :=
  liftBar chip (fun w =>
    if !w.packageReady (pkgOf chip) || (w.queue chip queue).dev || decide (256 ≤ queue) then w
    else ((w.updQueue chip queue fun q => { q with tail := value.setWidth 32 }).checkOver chip queue).evalWaits (· == chip)) st

/-- QUEUE_STOP_CLEAR: 1 written to QSTAT.STOP: CODE and HD clear, the record at HEAD goes where HD was set, and a TAIL still
beyond the ring stops the queue again (06 R124, R126). -/
def execQueueStopClear (chip queue : Nat) (st : State) : Host.Outcome State Fault Refusal :=
  liftBar chip (fun w =>
    if decide (256 ≤ queue) then w
    else (w.updQueue chip queue fun q => { q with
      head := if q.stop && q.hd then q.head + 1 else q.head
      code := 0, hd := false, stop := false }).checkOver chip queue) st

/-! ## Checking a record (06 R127, R128) -/

/-- What a record's check gives. -/
inductive RecordCheck
  | ok (presets : List Template)
  | wait
  /-- A preset's way crosses a link that is held, or links all FENCED (18 R417). -/
  | noWay (way : Reach)
  | xlate | poison | badRec | shape | prio
  deriving DecidableEq, Repr

/-- The queue code of a failed check; a record or preset that cannot be read for an uncorrectable error or a FENCED link counts
as one that cannot be read through the translation (06 R124, R128; DESIGN CHOICE, log 27). -/
def RecordCheck.code : RecordCheck → Nat
  | .badRec => 3
  | .shape => 4
  | .prio => 5
  | _ => 6

/-- The eight 64-bit values of each 64 bytes. -/
def templatesOf : Nat → List Byte → List Template
  | 0, _ => []
  | n + 1, bs => ((upTo 8).map fun i => BitVec.ofNat 64 (ofBytes ((bs.drop (8 * i)).take 8))) :: templatesOf n (bs.drop 64)

/-- Whether a field of a record is reserved and nonzero, or breaks its range or alignment; on the device side dchip and dqueue
count (06 R127, R128). -/
def LaunchRecord.broken (x : LaunchRecord) (device : Bool) : Bool :=
  x.field 0x26 1 / 4 != 0 || x.field 0x27 1 / 4 != 0 || x.field 0x78 2 / 2 ^ 10 != 0 || x.field 0x7E 2 != 0 ||
  x.entry % 4 != 0 || x.gx == 0 || x.gy == 0 || x.gz == 0 || decide (2 ^ 32 < x.blocks) ||
  x.bgroups == 0 || decide (128 < x.bgroups) || x.cblocks == 0 || decide (16 < x.cblocks) ||
  x.vregs == 0 || decide (128 < x.vregs) || decide (32 < x.tiles) ||
  x.shared % 128 != 0 || decide (2 ^ 21 < x.shared) || x.stack % 128 != 0 || decide (2 ^ 20 < x.stack) ||
  x.tmpl % 8 != 0 || x.field 0x50 8 % 8 != 0 || x.field 0x60 8 % 8 != 0 || x.field 0x70 8 % 8 != 0 ||
  x.field 0x7C 1 == 0 || decide (128 < x.field 0x7C 1) || x.field 0x7D 1 == 0 || decide (16 < x.field 0x7D 1) ||
  ((upTo 5).any fun i => x.eventMode i == 3) ||
  (device && (decide (3 < x.dchip) || decide (63 < x.dqueue)))

/-- Check of 06 R128 on a record for a queue of a chip: the first failing check. -/
def W.checkRecord (w : W) (reader chip ctx : Nat) (x : LaunchRecord) (device : Bool) : W × RecordCheck :=
  let n := x.presetIndices.length
  let c := w.context (pkgOf chip) ctx
  match w.unitRead reader ctx (BitVec.ofNat 64 (x.tmpl / 8 * 8)) (8 * n) with
  | (w1, .wait) => (w1, .wait)
  | (w1, .noWay r) => (w1, .noWay r)
  | (w1, .bad c) => (w1, if c = fcPOISON then .poison else .xlate)
  | (w1, .bytes bs) =>
    let presets := templatesOf n bs
    if x.broken device || (x.rp && c.resv == 0) || !presets.all Template.valid then (w1, .badRec)
    else if decide (x.field 0x7C 1 < x.bgroups) || decide (x.field 0x7D 1 < x.cblocks) || !x.fitsEmpty c.scratch ||
        (x.rp && !x.fitsReserved (clustersIn c.resv chip) c.scratch) then (w1, .shape)
    else if decide (c.pricap < x.prio) then (w1, .prio)
    else (w1, .ok presets)

/-- RECORD_READ: a queue reads the record at HEAD and checks it; the launch it makes is PENDING, and its waits are evaluated
(06 R126, R128 to R131). -/
def W.readRecord (w : W) (chip q : Nat) : W :=
  let x := w.queue chip q
  if !x.en || x.stop || !w.launchOpen chip x.ctx || decide (16 ≤ x.launches.length) || x.fill = 0 then w
  else
    match w.unitRead chip x.ctx (BitVec.ofNat 64 (x.base + 128 * (x.head.toNat % x.ring))) 16 with
    | (w1, .wait) => w1
    | (w1, .noWay .held) => w1
    | (w1, .noWay _) => w1.stopQueue chip q 6 true
    | (w1, .bad _) => w1.stopQueue chip q 6 true
    | (w1, .bytes bs) =>
      match w1.checkRecord chip chip x.ctx { bytes := bs } x.dev with
      | (w2, .wait) => w2
      | (w2, .noWay .held) => w2
      | (w2, .ok presets) =>
        let (lid, w3) := w2.fresh
        let r : LaunchRecord := { bytes := bs }
        let l : Launch := {
          ctx := x.ctx, chip := chip, queue := q, index := x.head.toNat, qix := x.qix, record := r, presets := presets, prev := x.lastRead
          met0 := r.field 0x50 8 == 0, met1 := r.field 0x60 8 == 0 }
        let w4 : W := { w3 with s := { w3.s with launches := AList.put w3.s.launches lid l } }
        (w4.updQueue chip q fun x => { x with head := x.head + 1, launches := x.launches ++ [lid], lastRead := lid }).evalLaunch lid
      | (w2, c) => w2.stopQueue chip q c.code true

/-- RECORD_READ (06 R128). -/
def execRecordRead (chip queue : Nat) (st : State) : Host.Outcome State Fault Refusal :=
  lift (fun w => w.readRecord chip queue) st

/-! ## Arbitration (06 R133; 07 R153) -/

/-- What the distributor of a chip would place next. -/
inductive Choice
  /-- The next cluster of a launch, on a hardware cluster. -/
  | new (launch hwcl : Nat)
  /-- Saved clusters of a launch, and where. -/
  | saved (launch : Nat) (clusters : List (Nat × Nat × List (List Nat)))

/-- The launch of a queue that places now: the first with clusters left, every earlier one RUNNING (06 R129, R130). -/
def W.placing (w : W) (chip q : Nat) : Option (Nat × Launch) :=
  let ls := (w.queue chip q).launches.filterMap fun i => (w.launch i).map fun l => (i, l)
  match ls.find? fun l => !l.2.st.started with
  | some l => if l.2.st == .ready || l.2.st == .placing then some l else none
  | none => none

/-- Where a launch's next cluster would go, of a launch whose context places and whose arguments are not still awaited
(06 R133; 07 R143). -/
def W.placeable (w : W) (l : Launch) : Option Nat :=
  if !w.launchOpen l.chip l.ctx || (l.st == .placing && l.args.isNone) then none
  else (w.placement l).bind fun p => p.1.head?.map Prod.fst

/-- The saved clusters of a launch in the sets that are placed again together: an RP grid's all at once, else each by itself
(06 R133; 10 R234). -/
def W.savedSets (w : W) (lid : Nat) : List (List (Nat × Cluster)) :=
  let cs := w.s.clusters.filter fun c => c.2.launch == lid && c.2.st == .saved
  if w.isRp lid then (if w.s.clusters.any fun c => c.2.launch == lid && (match c.2.st with
      | .stopping _ => true
      | _ => false) || cs.isEmpty then [] else [cs])
  else cs.map fun c => [c]

/-- The restoration that a priority of a chip would make (06 R133). -/
def W.restoreChoice (w : W) (chip prio : Nat) : Option Choice :=
  let ls := w.s.launches.filter fun l => l.2.chip == chip && l.2.record.prio == prio && w.launchOpen chip l.2.ctx
  ls.findSome? fun l => (w.savedSets l.1).findSome? fun cs =>
    (w.restorePlaces l.2 (cs.map Prod.snd)).map fun ps => .saved l.1 ((cs.map Prod.fst).zip ps)

/-- The queue that weighted round-robin serves next at a priority: from the queue served last while its weight lasts, then
upward, then a new round (06 R133). -/
def W.nextQueue (w : W) (chip prio : Nat) (able : List Nat) : Option Nat :=
  let (at', n) := AList.getD (w.chip chip).rounds prio (256, 0)
  let weight := fieldOf (w.queue chip at').misc.toNat 0 4
  let ahead := able.filter fun q => decide (at' < q) || (q == at' && decide (n < weight))
  let lowest := fun (qs : List Nat) => qs.foldl (fun (b : Option Nat) q => match b with
    | none => some q
    | some x => some (min x q)) none
  (lowest ahead).or (lowest able)

/-- The next placement of a chip: a hardware cluster in drain mode first, then by priority, saved clusters before new ones
(06 R133; 07 R153). -/
def W.choice (w : W) (chip : Nat) : Option Choice :=
  let drained := (w.chip chip).drain.findSome? fun d => match w.launch d.2 with
    | some l =>
      if ((w.placing l.chip l.queue).map Prod.fst) != some d.2 then none
      else match w.placeable l with
        | some h => if h = d.1 then some (Choice.new d.2 h) else none
        | none => none
    | none => none
  drained.or <| ([3, 2, 1, 0] : List Nat).findSome? fun prio =>
    (w.restoreChoice chip prio).or <|
      let able := ((w.chip chip).queues.map Prod.fst).filterMap fun q =>
        match w.placing chip q with
        | some (i, l) => if l.record.prio = prio then (w.placeable l).map fun h => (q, i, h) else none
        | none => none
      (w.nextQueue chip prio (able.map Prod.fst)).bind fun q =>
        (able.find? fun x => x.1 == q).map fun x => .new x.2.1 x.2.2

/-- ARGS_READ: the launch that arbitration has chosen enters PLACING and its argument block is read; one that waits for a
migrating page reads it again (06 R130; 07 R143). -/
def W.readArgs (w : W) (lid : Nat) : W :=
  match w.launch lid with
  | none => w
  | some l =>
    let chosen := match w.choice l.chip with
      | some (.new i _) => i == lid
      | _ => false
    if !(l.st == .ready && chosen || l.st == .placing && l.args.isNone && w.launchOpen l.chip l.ctx) then w
    else
      let a := l.record.args
      let take := fun (w : W) (xs : Option (List DWord)) => w.updLaunch lid fun l => { l with st := .placing, args := xs }
      if a = 0 then take w (some (List.replicate 16 0))
      else if a % 8 ≠ 0 then w.discardLaunch lid l
      else match w.unitRead l.chip l.ctx (BitVec.ofNat 64 a) 16 with
        | (w1, .wait) => take w1 none
        | (w1, .noWay .held) => take w1 none
        | (w1, .noWay _) => w1.discardLaunch lid l
        | (w1, .bad _) => w1.discardLaunch lid l
        | (w1, .bytes bs) => take w1 (some ((upTo 16).map fun i => BitVec.ofNat 64 (ofBytes ((bs.drop (8 * i)).take 8))))

/-- ARGS_READ (07 R143). -/
def execArgsRead (launch : Nat) (st : State) : Host.Outcome State Fault Refusal := lift (fun w => w.readArgs launch) st

/-- Counts a placement in its queue's round (06 R133). -/
def W.countRound (w : W) (chip q prio : Nat) : W :=
  w.updChip chip fun c =>
    let (at', n) := AList.getD c.rounds prio (256, 0)
    let weight := fieldOf (AList.getD c.queues at' {}).misc.toNat 0 4
    { c with rounds := AList.put c.rounds prio (q, if q = at' ∧ n < weight then n + 1 else 1) }

/-- CLUSTER_PLACE: the distributor places what arbitration gives next, where it is the named launch on the named hardware
cluster (06 R133; 07 R148, R154; 05 R117). -/
def execClusterPlace (launch hwcl : Nat) (st : State) : Host.Outcome State Fault Refusal :=
  lift (fun w =>
    match w.launch launch with
    | none => w
    | some l =>
      match w.choice l.chip with
      | some (.new i h) =>
        if i = launch ∧ h = hwcl ∧ l.args.isSome then (w.placeNext launch).countRound l.chip l.queue l.record.prio else w
      | some (.saved i cs) =>
        if i = launch && (cs.head?.map fun c => c.2.1) == some hwcl then
          let w1 := w.each cs fun w c => w.restoreCluster c.1 c.2.1 c.2.2
          w1.updContext (pkgOf l.chip) l.ctx fun c => { c with st := if c.st = .bound then .running else c.st }
        else w
      | none => w) st

/-! ## Waiting, starvation, pre-emption and moves (06 R134; 07 R149 to R153) -/

/-- The time from which a launch has waited, as the tick keeps it (07 R152). -/
def W.ageLaunch (w : W) (l : Launch) : Launch :=
  if w.waits l then { l with waitingSince := some (l.waitingSince.getD w.s.now) }
  else { l with waitingSince := none, tested := none }

/-- Whether a launch's test for starvation is due: 100 µs after its cluster began to wait, and 100 µs after a test that named
nothing (07 R152). -/
def Launch.starveDue (l : Launch) (now : Nat) : Bool :=
  (match l.waitingSince with
    | some t => decide (t + 100000 ≤ now)
    | none => false) && (match l.tested with
    | some t => decide (t + 100000 ≤ now)
    | none => true)

/-- GANGSTARVE: after 100 µs the hardware cluster with the fewest occupied slots enters drain mode for the launch. An ordinary
launch's candidates leave out the reserved partitions, where its cluster could not stand (07 R152, R154; DESIGN CHOICE,
log 113). -/
def execGangstarve (launch : Nat) (st : State) : Host.Outcome State Fault Refusal :=
  lift (fun w =>
    match w.launch launch with
    | none => w
    | some l =>
      if !l.starveDue w.s.now || l.drain.isSome || !w.waits l then w
      else
        let used := fun (h : Nat) => (w.s.groups.filter fun g => g.1.chip == l.chip && g.1.core / 4 == h).length
        let cands := (w.partition l).filter fun h => !AList.has (w.chip l.chip).drain h
        match cands.foldl (fun (b : Option Nat) h => match b with
            | none => some h
            | some x => if used h < used x then some h else some x) none with
        | none => w.updLaunch launch fun l => { l with tested := some w.s.now }
        | some h =>
          let w1 := (w.updChip l.chip fun c => { c with drain := AList.put c.drain h launch }).updLaunch launch fun l =>
            { l with drain := some h }
          w1.event l.chip 0x04 l.ctx 0 (bytesOf 1 h ++ bytesOf 1 l.queue ++ bytesOf 4 l.index)) st

/-- PREEMPT: the distributor pre-empts the cluster that 06 R134 names for a waiting launch. -/
def execPreempt (launch cluster : Nat) (st : State) : Host.Outcome State Fault Refusal :=
  lift (fun w =>
    match w.launch launch with
    | some l =>
      if w.waits l && ((w.placing l.chip l.queue).map Prod.fst) == some launch && l.record.fitsEmpty (w.context (pkgOf l.chip) l.ctx).scratch && w.victim l == some cluster then
        w.stopCluster cluster none
      else w
    | none => w) st

/-- CLUSTER_SAVE (05 R116, R118). -/
def execClusterSave (cluster : Nat) (st : State) : Host.Outcome State Fault Refusal :=
  lift (fun w => w.saveCluster cluster) st

/-- MOVE: the distributor gathers room (07 R149). -/
def execMove (unit : MoveUnit) (st : State) : Host.Outcome State Fault Refusal :=
  lift (fun w => match unit with
    | .cluster id hwcl => w.moveCluster id hwcl
    | .block id core => w.moveBlock id core) st

/-! ## Device-side launch (06 R135) -/

/-- launch: appends a launch operation to the open co batch; nothing without an enabled lane (06 R135). The group's earlier
stores have then performed. -/
def execLaunch (k : Bool) (s : BitVec 8) (st : State) : Host.Outcome State Fault Refusal :=
  issue
    { i := .launch k s, k := k, chk := fun _ => { use := { sr := [s.toNat] } }, region := outside
      body := fun w x =>
        let a := x.sval s.toNat
        if x.enabled = 0 then .next w x
        else if a.toNat % 128 ≠ 0 then .refuse w { code := fcALIGN, tval := some a }
        else match w.flushOps x.r with
          | (false, w1) => .stall w1 .memOrder
          | (true, w1) => .next (w1.startUnit x clsCo (.launch a) none) x } st

/-- Status NOQ of a launch operation (13 R297). -/
def stNOQ : Nat := 5
/-- Status QFULL. -/
def stQFULL : Nat := 6

/-- The status of a failed check (13 R297). -/
def RecordCheck.status : RecordCheck → Nat
  | .badRec => 7
  | .shape => 8
  | .prio => 9
  | .poison => stPOISON
  | _ => stXLATE

/-- The device-fed queue that a checked record names, with its chip (06 R135). -/
def W.launchQueue (w : W) (here ctx : Nat) (x : LaunchRecord) : Nat × Option (Nat × Queue) :=
  let chip := 4 * pkgOf here + x.dchip % 4
  (chip, (w.chip chip).queues.find? fun q => q.2.en && q.2.dev && q.2.ctx == ctx && q.2.qix == x.dqueue)

/-- The virtual address of the slot that a queue's TAIL names. -/
def Queue.tailSlot (q : Queue) : DWord := BitVec.ofNat 64 (q.base + 128 * (q.tail.toNat % q.ring))

/-- Where the slot at a queue's TAIL is written (06 R135). -/
def W.tailPlace (w : W) (chip ctx : Nat) (q : Queue) : W × PutAt := w.unitPlace chip ctx 128 q.tailSlot

/-- The record of a launch append as it is read; a byte that a program has changed since issue is the old or the new one
(06 R135). -/
def W.launchRead (w : W) (u : UnitRec) (addr : DWord) : W × Got := w.unitRead u.grp.chip u.ctx addr 16 u.raced

/-- The ways that a launch append needs now: to the CLD, to what it reads, to the chip of the queue and to its ring
(06 R135; 13 R297; 18 R417). -/
def W.launchWays (w : W) (u : UnitRec) (addr : DWord) : List Reach :=
  let here := u.grp.chip
  w.dieReach here :: match w.launchRead u addr with
    | (_, .noWay r) => [r]
    | (w1, .bytes bs) =>
      let (chip, q) := w1.launchQueue here u.ctx { bytes := bs }
      (match w1.checkRecord here chip u.ctx { bytes := bs } true with
        | (_, .noWay r) => [r]
        | (w2, .ok _) => w2.cldReach here chip :: match q with
          | some (_, q) => match w2.tailPlace chip u.ctx q with
            | (w3, .cell acc) => [w3.unitReach chip acc.path]
            | _ => []
          | none => []
        | _ => [])
    | _ => []

/-- Writes a record in the slot at TAIL and advances TAIL, once the bytes can be seen there (06 R135). -/
def W.appendRecord (w : W) (u : UnitRec) (chip n : Nat) (q : Queue) (bs : List Byte) : W :=
  match w.tailPlace chip u.ctx q with
  | (w1, .wait) => w1
  | (w1, .bad _) => w1.endUnit u.op stXLATE
  | (w1, .cell acc) =>
    match w1.secure [lineOf acc.key] with
    | (w2, false) => w2
    | (w2, true) =>
      ((w2.writeCells (cellsOf acc.key bs)).updQueue chip n fun q => { q with tail := q.tail + 1 }).endUnit u.op stOK

/-- The append itself, once the writes before it are performed (06 R135). -/
def W.appendLaunch (w : W) (u : UnitRec) (addr : DWord) : W :=
  w.unitLinked u (w.launchWays u addr) fun w =>
    match w.launchRead u addr with
    | (w1, .bad c) => w1.endUnit u.op (if c = fcPOISON then stPOISON else stXLATE)
    | (w1, .bytes bs) =>
      let (chip, q) := w1.launchQueue u.grp.chip u.ctx { bytes := bs }
      (match w1.checkRecord u.grp.chip chip u.ctx { bytes := bs } true with
        | (w2, .wait) => w2
        | (w2, .noWay _) => w2
        | (w2, .ok _) => match q with
          | none => w2.endUnit u.op stNOQ
          | some (n, q) => if q.fill = q.ring then w2.endUnit u.op stQFULL else w2.appendRecord u chip n q bs
        | (w2, c) => w2.endUnit u.op c.status)
    | (w1, _) => w1

/-- A launch append whose links are back looks again: its outage is over (13 R297). -/
def W.lookLaunches (w : W) : W :=
  w.each (w.s.units.filter fun u => u.2.linkOut.isSome) fun w u =>
    match u.2.kind with
    | .launch addr =>
      if (w.launchWays u.2 addr).all fun r => r == .live then
        { w with s := { w.s with units := AList.put w.s.units u.1 { u.2 with linkOut := none } } }
      else w
    | _ => w

/-- The release of a launch append: of a group in a slot as any release at sys scope, of a saved one by its lines and writes
(06 R135; 14 R324). -/
def W.releaseSaved (w : W) (u : UnitRec) : Bool × W :=
  if (w.group u.grp).isSome then w.release u.grp 5
  else
    let w1 := w.checkInAll [u.owner] u.grp.chip u.ctx
    let wrote := (w1.s.clusters.flatMap fun c => c.2.savedGroups.filter fun g => (g.block, g.gid) == u.owner).flatMap fun g =>
      g.wrote ++ ((g.releasing.map Releasing.waiting).getD [])
    (!(w1.s.waiting.any fun h => h.owners.contains u.owner) &&
      !(w1.s.directory.any fun c => c.writer == u.grp.chip && c.ctx == u.ctx && c.owners.contains u.owner) &&
      !(wrote.any fun d => w1.cldReach u.grp.chip d == .held), w1)

/-- LAUNCH_APPEND (06 R135). -/
def execLaunchAppend (op : Nat) (st : State) : Host.Outcome State Fault Refusal :=
  lift (fun w =>
    match AList.get? w.s.units op with
    | none => w
    | some u =>
      match u.kind with
      | .launch addr =>
        let (ok, w1) := w.releaseSaved u
        if ok then w1.appendLaunch u addr else w1
      | _ => w) st

/-! ## Completion (06 R132, R137; 07 R155) -/

/-- Whether every live seat of the table of a context on a chip has applied the seat's updates so far, numbered and by turn
(07 R155). -/
def W.tableSettled (w : W) (chip ctx : Nat) : Bool :=
  let t := w.seat chip
  let at' := fun (x : Seat) (n : Nat) => vecGet x.applied n + vecGet x.offset n
  !(t.serves ctx) || (w.liveChips chip).all fun c =>
    decide (at' t t.num ≤ at' (w.seat c) t.num) && decide (at' t 16 ≤ at' (w.seat c) 16)

/-- The completion signal: an atomic add of 1 at its home; none while it must wait, false where the queue must stop
(06 R132). A counter with an uncorrectable error, or behind links all FENCED, stops it too (DESIGN CHOICE, log 27). -/
def W.signal (w : W) (l : Launch) : W × Option Bool :=
  let va := l.record.field 0x70 8
  if va = 0 then (w, some true)
  else match w.unitAccess l.chip l.ctx .atomic 8 (BitVec.ofNat 64 va) with
    | (w1, .ok acc) =>
      if acc.path.replicated || w1.unitReach l.chip acc.path = .fenced || w1.accPoisoned acc then (w1, some false)
      else if w1.unitReach l.chip acc.path = .held then (w1, none)
      else match w1.secure [lineOf acc.key] with
        | (w2, false) => (w2, none)
        | (w2, true) => (w2.writeCells (cellsOf acc.key (bytesOf 8 (w2.homeValue acc.key 8 + 1))), some true)
    | (w1, .walk _) => (w1, none)
    | (w1, .flt _) => (w1, some false)
    | (w1, .gone) => (w1.noFrame, some false)

/-- Whether the writes of a launch are performed at sys scope: none stands checked out or waits at a home, and flush markers
have a way to each chip written (07 R155). A write of no group counts as every launch's. -/
def W.launchSettled (w : W) (lid : Nat) (l : Launch) : Bool :=
  let mine := fun (xs : List Nat) => xs.isEmpty || xs.contains lid
  !(w.s.waiting.any fun h => mine h.launches) &&
  !(w.s.directory.any fun c => c.writer == l.chip && c.ctx == l.ctx && mine c.launches) &&
  w.dieReach l.chip != .held && !(l.wrote.any fun d => w.cldReach l.chip d == .held) && w.tableSettled l.chip l.ctx

/-- LAUNCH_DONE: the DRAINING action, the signal, the launch-level note (06 R130 to R132, R137; 07 R155). -/
def W.finishLaunch (w0 : W) (lid : Nat) : W :=
  match w0.launch lid with
  | none => w0
  | some l =>
    if l.st != .draining || !w0.launchOpen l.chip l.ctx then w0
    else
      let w := w0.checkInAll [] l.chip l.ctx
      if !w.launchSettled lid l then w
      else match w.signal l with
        | (w1, none) => w1
        | (w1, some ok) =>
          let w2 := if ok then w1 else w1.stopQueue l.chip l.queue 6 false
          let w3 := (w2.note lid 4 0).forgetLaunch lid l
          (w3.evalWaits fun c => pkgOf c == pkgOf l.chip).idleContext (pkgOf l.chip) l.ctx

/-- LAUNCH_DONE (06 R132; 07 R155). -/
def execLaunchDone (launch : Nat) (st : State) : Host.Outcome State Fault Refusal := lift (fun w => w.finishLaunch launch) st

end Sys2Proof.Machine
end

