-- ==== Sys2Proof/Machine/TableSteps.lean ====
section
/-! DEFINITION. The steps of a table: `turn`, `tsync`, `tblq`, the seat's registers, formation, packets, turns, vectors, lag,
and membership changes (15 R345, R346, R351 to R369; 21 R452). -/
namespace Sys2Proof.Machine

/-! ## `turn`, `tsync`, `tblq` (15 R359 to R362) -/

/-- The fault of `turn` and `tsync` in a context with no table, or on a seat in FORMING or OFF (15 R369). -/
def W.noTable (w : W) (x : At) : Bool := !((w.seat x.r.chip).serves x.g.ctx)

/-- turn: a release, a turn without effect, an acquire when it returns; the group waits for it (15 R360). -/
def execTurn (k : Bool) (st : State) : Host.Outcome State Fault Refusal :=
  issue
    { i := .turn k, k := k, chk := fun _ => {}, region := outside
      body := fun w x =>
        let t := w.seat x.r.chip
        if w.noTable x then .refuse w { code := fcTABLE, detail := 3 }
        else if t.st = .departed then .refuse w { code := fcTABLE, detail := 4 }
        else if x.awaits then .stall w .memOrder
        else match w.release x.r 5 with
          | (false, w1) => .stall w1 .memOrder
          | (true, w1) =>
            if 65536 ≤ t.rwt.length then .stall w1 .syncTable
            else
              let n := w1.s.serial
              let w2 := w1.updGroup x.r fun g => { g with turnWait := some n }
              .next ((w2.acquireLoads x.r x.g.ctx).startStrong x.r.chip (x.g.block, x.g.gid) .turn none none []).2 x } st

/-- tsync: waits until every live seat has applied this seat's earlier stores; it orders no other access (15 R361). -/
def execTsync (k : Bool) (st : State) : Host.Outcome State Fault Refusal :=
  issue
    { i := .tsync k, k := k, chk := fun _ => {}, region := outside
      body := fun w x =>
        if w.noTable x then .refuse w { code := fcTABLE, detail := 3 }
        else
          let t := w.seat x.r.chip
          let v := match x.e.wait with
            | some (.tsync v) => v
            | _ => vecGet t.applied t.num
          if v ≤ vecGet t.stable t.num then .next w x
          else .stall (w.updEntry x.r x.ei fun e => { e with wait := some (.tsync v) }) .syncTable } st

/-- The code of a seat's state (15 R345). -/
def SeatState.code : SeatState → Nat
  | .off => 0
  | .forming => 1
  | .live => 2
  | .changing => 3
  | .departed => 4

/-- An item of a seat's table state (15 R362). -/
def Seat.item (t : Seat) (i : Nat) : Nat :=
  if i = 0x00 then fieldOf t.cfg.toNat 48 16 * 2 ^ 16 + t.st.code * 2 ^ 4 + 2 ^ 3 + t.num * 2 ^ 36
  else if i = 0x01 then t.view % 2 ^ 32
  else if i = 0x02 then t.shooter + t.left % 2 ^ 12 * 2 ^ 8
  else if i = 0x03 then t.nextTurn
  else if i = 0x05 then t.rack.length % 2 ^ 24
  else if i = 0x06 then t.rwt.length % 2 ^ 17
  else if i = 0x07 then (if t.parity then 1 else 0) + t.rebases % 2 ^ 32 * 2 ^ 32
  else if i = 0x08 then t.mixed
  else if 0x10 ≤ i ∧ i < 0x20 then vecGet t.applied (i - 0x10) % 2 ^ 24
  else if i = 0x20 then vecGet t.applied 16 % 2 ^ 24
  else if 0x30 ≤ i ∧ i < 0x40 then vecGet t.stable (i - 0x30) % 2 ^ 24
  else 0

/-- Turns granted to a chip's seat and not broadcast by it: their grants are on the way to it (15 R362). -/
def W.turnsHeld (w : W) (chip : Nat) : Nat :=
  (w.s.messages.filter fun m => m.1.1 == chip && match m.2 with
    | .grant seat _ _ _ => seat == (w.seat chip).num
    | _ => false).length

/-- tblq: an item of the seat's state into a scalar; zero in a context with no table (15 R362). -/
def execTblq (k : Bool) (d i : BitVec 8) (st : State) : Host.Outcome State Fault Refusal :=
  issue
    { i := .tblq k d i, k := k, chk := fun _ => { use := { sw := [d.toNat] } }
      body := fun w x =>
        let t := w.seat x.r.chip
        let v := if t.ctx = x.g.ctx ∧ t.st ≠ .off then
            (if i = 0x04 then w.turnsHeld x.r.chip % 2 ^ 8 else t.item i.toNat) else 0
        .next (w.pushOp x.r (.value [.s d.toNat (BitVec.ofNat 64 v)]) 0 true none false) x } st

/-! ## Entering OFF, FORMING and LIVE (15 R345 to R347, R367) -/

/-- The RW bits of TBCFG (15 R345). -/
def tbcfgMask : DWord := 0xFFFF3FFFFFF07F01

/-- The cells of a seat's region. -/
def Seat.region (t : Seat) (chip : Nat) : Option (Nat × Nat) :=
  (chipCell chip (t.base.toNat % 2 ^ 48)).map fun c => (c, fieldOf t.cfg.toNat 8 7 * 2 ^ 30)

/-- Zero-fills a seat's region and gives its frames to the table's context (15 R346; 17 R404). -/
def W.zeroRegion (w : W) (chip : Nat) : W :=
  let t := w.seat chip
  match t.region chip with
  | none => w.noFrame
  | some (c, n) =>
    if hbmBytes < t.base.toNat % 2 ^ 48 + n then w.noFrame
    else
      { m := w.m.clear fun a => decide (c ≤ a ∧ a < c + n)
        s := { w.s with
          owners := (c / 65536, n / 65536, w.contextMark (pkgOf chip) t.ctx) :: w.s.owners
          poison := w.s.poison.filter fun a => !decide (c ≤ a ∧ a < c + n) } }

/-- A seat with nothing but its registers. -/
def Seat.blank (t : Seat) (st : SeatState) : Seat := { cfg := t.cfg, base := t.base, st := st }

/-- Whether EN cannot be set (15 R346). -/
def W.seatRefused (w : W) (chip : Nat) (t : Seat) : Bool :=
  let c := (w.context (pkgOf chip) t.ctx).st
  let size := fieldOf t.cfg.toNat 8 7
  !(t.live.contains t.num) || t.num % 4 != chip % 4 || size == 0 || decide (64 < size) ||
    fieldOf t.base.toNat 48 4 != chip % 4 || !(c == .bound || c == .running || c == .preempted)

/-- What an OFF seat does with a TBCFG write. -/
def W.writeOff (w : W) (chip : Nat) (value : DWord) : W :=
  let w1 := w.updSeat chip fun t => { t with cfg := value &&& tbcfgMask &&& ~~~1 }
  if !bitOf value.toNat 0 || w1.seatRefused chip (w1.seat chip) then w1
  else (w1.updSeat chip fun t => { t.blank .forming with cfg := t.cfg ||| 1 }).zeroRegion chip

/-- Whether a seat of the same table answers a hello: it is at least FORMING, and the fabric reaches it (15 R346). -/
def W.answers (w : W) (chip sender : Nat) : Bool :=
  let t := w.seat chip
  t.live.contains sender &&
    match w.seatChip t.tid sender with
    | some c => c == chip || ((w.seat c).st != .departed && w.cldReach c chip == .live)
    | none => false

/-- HELLO: a hello arrives; once every seat of LIVE has answered, the seat enters LIVE and tests what it holds (15 R346,
R347). -/
def execHello (chip sender : Nat) (st : State) : Host.Outcome State Fault Refusal :=
  lift (fun w =>
    let t := w.seat chip
    if t.st ≠ .forming ∨ !w.answers chip sender then w
    else
      let got := if t.hellos.contains sender then t.hellos else t.hellos ++ [sender]
      if t.live.all fun s => s == t.num || got.contains s then
        (w.updSeat chip fun t => { t.blank .live with rack := t.rack, shooter := t.live.headD 0 }).drainRack chip
      else w.updSeat chip fun t => { t with hellos := got }) st

/-! ## Removing a seat (15 R363, R364; 21 R452) -/

/-- A seat's update count or turn count from formation on, which no rebase changes (15 R366). -/
def Seat.total (t : Seat) (i : Nat) : Nat := vecGet t.applied i + vecGet t.offset i

/-- A packet's first sequence number from formation on, as a seat that holds it counts. -/
def Seat.totalFirst (t : Seat) (p : Packet) : Nat :=
  p.first + vecGet t.offset p.seat +
    if p.parity != t.parity then match t.rebasing with
      | some (b, _, _) => vecGet b p.seat
      | none => 0
    else 0

/-- A packet's DV entry for its own seat from formation on, as a seat that holds it counts. -/
def Seat.totalOwn (t : Seat) (p : Packet) : Nat :=
  vecGet p.dv p.seat + vecGet t.offset p.seat +
    if p.parity != t.parity then match t.rebasing with
      | some (b, _, _) => vecGet b p.seat
      | none => 0
    else 0

/-- A strong operation of a departed seat ends without a result: its group takes TABLE 4 at its next marker; a region whose
commit it was takes the fault at once, since its outcome can no longer come (21 R452). -/
def W.endStrong (w : W) (o : StrongOp) : W :=
  match w.groupOf o.owner with
  | none => w
  | some r =>
    let f : FaultInfo := { code := fcTABLE, detail := 4, tval := some ((o.addrs.head?.map Prod.snd).getD 0) }
    match o.body with
    | .commit _ _ _ _ =>
      match (w.group r).bind Group.region with
      | none => w
      | some rg =>
        (w.updRegion r fun x => { x with sent := false, turnOp := none }).raise r
          { code := fcTABLE, detail := 4, entry := rg.entry, tpc := rg.abpc }
    | _ =>
      let w1 := w.updGroup r fun g => { g with
        late := g.late.or (some f), turnWait := if g.turnWait = some o.op then none else g.turnWait
        ops := g.ops.filter fun x => some x.id != o.groupOp }
      w1.settle r

/-- A seat enters DEPARTED: its copy is frozen (15 R364; 21 R452). -/
def W.seatDeparts (w : W) (chip : Nat) : W :=
  let ops := (w.seat chip).strong
  (w.updSeat chip fun t => { t with st := .departed, strong := [], rack := [], leaving := none, goal := none, outbox := [], refused := [] }).each ops W.endStrong

/-- A removal begins: the seat departs, and every other live seat is CHANGING (15 R363). -/
def W.beginRemoval (w : W) (chip seat : Nat) : W :=
  let t := w.seat chip
  let chips := w.liveChips chip
  let w1 := match w.seatChip t.tid seat with
    | some c => if (w.seat c).st = SeatState.live ∨ (w.seat c).st = SeatState.changing then w.seatDeparts c else w
    | none => w
  w1.each (chips.filter fun c => (w1.seat c).st == SeatState.live) fun w c => w.updSeat c fun t =>
    { t with st := .changing, leaving := some seat }

/-- Asks for a removal: at once on a LIVE seat, after the change in progress on a CHANGING one (15 R363). -/
def W.askRemoval (w : W) (chip seat : Nat) : W :=
  let t := w.seat chip
  if !t.live.contains seat then w
  else match t.st with
    | .live => w.beginRemoval chip seat
    | .changing => w.updSeat chip fun t => { t with evictLater := if t.evictLater.contains seat then t.evictLater else t.evictLater ++ [seat] }
    | _ => w

/-- TBEVICT with GO (15 R363); its audit record goes first, and the write stalls where the record must wait (20 R445,
R447). -/
def execTbevict (chip : Nat) (value : DWord) (st : State) : Host.Outcome State Fault Refusal :=
  liftBar chip (fun w =>
    let t := w.seat chip
    let seat := fieldOf value.toNat 0 4
    if !bitOf value.toNat 4 || !(t.st == .live || t.st == .changing) || !t.live.contains seat || w.auditFull chip then w
    else (w.audit chip 4 t.ctx (bytesOf 8 value.toNat)).askRemoval chip seat) st

/-- SEAT_ENABLE: a TBCFG write that sets EN on a seat whose EN is 0 (15 R345, R346). -/
def execSeatEnable (chip : Nat) (value : DWord) (st : State) : Host.Outcome State Fault Refusal :=
  liftBar chip (fun w =>
    let t := w.seat chip
    if !bitOf value.toNat 0 || bitOf t.cfg.toNat 0 || t.st != .off then w else w.writeOff chip value) st

/-- SEAT_RELEASE: any TBCFG write on a DEPARTED seat whose EN is already 0 (15 R345, R367). -/
def execSeatRelease (chip : Nat) (value : DWord) (st : State) : Host.Outcome State Fault Refusal :=
  liftBar chip (fun w =>
    let t := w.seat chip
    if t.st != .departed || bitOf t.cfg.toNat 0 then w
    else (w.updSeat chip fun t => t.blank .off).writeOff chip value) st

/-- A LIVE or CHANGING seat whose EN has been cleared leaves its table: at once, or after the change in progress (15 R346,
R363). -/
def W.leaveTable (w : W) (chip : Nat) : W :=
  let t := w.seat chip
  match t.st with
  | .live => w.beginRemoval chip t.num
  | .changing =>
    let others := (w.liveChips chip).filter (· != chip)
    (w.seatDeparts chip).each others fun w c => w.updSeat c fun x =>
      { x with evictLater := if x.evictLater.contains t.num then x.evictLater else x.evictLater ++ [t.num] }
  | _ => w

/-- SEAT_DISABLE: a TBCFG write that clears EN: an OFF seat takes the fields, a FORMING or DEPARTED one is OFF, a LIVE or
CHANGING one leaves the table (15 R345, R346, R363, R367). -/
def execSeatDisable (chip : Nat) (value : DWord) (st : State) : Host.Outcome State Fault Refusal :=
  liftBar chip (fun w =>
    let t := w.seat chip
    if bitOf value.toNat 0 then w
    else
      let clear := fun (w : W) => w.updSeat chip fun t => { t with cfg := t.cfg &&& ~~~1 }
      match t.st with
      | .off => w.writeOff chip value
      | .forming => (clear w).updSeat chip fun t => t.blank .off
      | .departed => if bitOf t.cfg.toNat 0 then (clear w).updSeat chip fun t => t.blank .off else w
      | .live | .changing => (clear w).leaveTable chip) st

/-- The seat that leads a change: the shooter, or the next live seat after it where it departs (15 R363). -/
def W.coordinator (w : W) (chip : Nat) : Option Nat :=
  let t := w.seat chip
  match t.leaving with
  | none => none
  | some gone =>
    let rest := (w.liveChips chip).filter fun c => (w.seat c).num != gone && (w.seat c).st == .changing
    let nums := rest.map fun c => (w.seat c).num
    let after := fun (s : Nat) => (((upTo 16).map fun i => (s + 1 + i) % 16).find? nums.contains)
    match rest.find? fun c => (w.seat c).shooter == (w.seat c).num with
    | some c => some (w.seat c).num
    | none =>
      let named := (rest.flatMap fun c => (w.seat c).rack ++ ((w.s.packets.filter fun p => p.1.1 == c).map Prod.snd)).find? fun p =>
        p.kind == .handoff && p.tid == t.tid
      match named with
      | some p => if nums.contains p.shooter then some p.shooter else after p.shooter
      | none => after gone

/-- Brings a packet of the departed seat that a seat has not taken into its rack: the relay of 15 R363. -/
def W.relay (w : W) (c : Nat) (p : Packet) : W :=
  let t := w.seat c
  let q := if p.parity != t.parity && t.rebasing.isNone && !t.lastBase.isEmpty then p.rebased t.lastBase t.parity else p
  w.updSeat c fun t => { t with rack := t.rack ++ [q] }

/-- The prefix of a departed seat: the largest n such that some live seat holds each of its updates 1 to n (15 R363). -/
def W.prefixOf (w : W) (chips : List Nat) (gone : Nat) : Nat → Nat → Nat
  | 0, n => n
  | k + 1, n =>
    let held := chips.flatMap fun c => ((w.seat c).rack.filter fun p => p.seat == gone && p.kind == .weak &&
      (w.seat c).totalFirst p == n + 1)
    let next := held.findSome? fun p =>
      if (upTo p.part.2).all fun i => held.any fun q => q.part == (i, p.part.2) then some p.count else none
    match next with
    | some m => w.prefixOf chips gone k (n + max 1 m)
    | none => n

/-- MEMBER_COLLECT: the coordinator gathers what the live seats hold of the departed seat, has the prefix and its turns relayed,
discards the rest and fills the turns that nobody knows (15 R363 steps 3 to 6). -/
def W.collect (w : W) (chip : Nat) : W :=
  let t := w.seat chip
  match t.leaving, w.coordinator chip with
  | some gone, some lead =>
    if t.st != .changing || t.goal.isSome || lead != t.num then w
    else
      let chips := (w.liveChips chip).filter fun c => (w.seat c).st == .changing
      let shooterGone := !(chips.any fun c => (w.seat c).shooter == (w.seat c).num)
      let applied := chips.foldl (fun m c => max m ((w.seat c).total gone)) 0
      let n := w.prefixOf chips gone ((chips.map fun c => (w.seat c).rack.length).foldl (· + ·) 0) applied
      let dead := fun (x : Seat) (p : Packet) => p.seat == gone &&
        (if p.kind == .weak then decide (n < x.totalFirst p) else p.kind == .strong && decide (n < x.totalOwn p))
      -- what lies beyond the prefix goes
      let w1 := w.each chips fun w c => w.updSeat c fun x => { x with rack := x.rack.filter fun p => !dead x p }
      let w2 := if shooterGone then { w1 with s := { w1.s with messages := w1.s.messages.filter fun m => match m.2 with
          | .grant seat _ _ _ => !(chips.any fun c => m.1.1 == c && (w1.seat c).num == seat)
          | _ => true } } else w1
      -- turns that some live seat knows, applied or in its rack
      let known := fun (turn : Nat) => chips.any fun c =>
        decide (turn < (w2.seat c).nextTurn) || (w2.seat c).rack.any fun p => p.kind != .weak && p.turn == turn
      let granted := w2.s.messages.filterMap fun m => match m.2 with
        | .grant _ turn _ _ => if chips.contains m.1.1 then some turn else none
        | _ => none
      -- relays: what the departed seat sent a live seat, on its way or discarded on arrival, that another live seat knows
      let missed := (w2.s.packets.filterMap fun p => if chips.contains p.1.1 && p.2.seat == gone then some (p.1.1, p.2) else none) ++
        chips.flatMap fun c => (w2.seat c).refused.map fun p => (c, p)
      let moving := missed.filter fun m =>
        let x := w2.seat m.1
        let p := m.2
        if p.kind == .weak then decide (x.totalFirst p ≤ n) && decide (x.total gone < x.totalFirst p)
        else known p.turn && !dead x p && decide (x.nextTurn ≤ p.turn)
      let w3 := (w2.each moving fun w m => w.relay m.1 m.2).each chips fun w c => w.updSeat c fun x => { x with refused := [] }
      let w4 : W := { w3 with s := { w3.s with packets := w3.s.packets.filter fun p =>
        !(chips.contains p.1.1 && p.2.seat == gone && p.2.tid == t.tid) } }
      let top := chips.foldl (fun m c =>
        let x := w4.seat c
        let m1 := x.rack.foldl (fun m p => max m p.turn) (max m (x.nextTurn - 1))
        if !shooterGone && x.shooter == x.num then max m1 (x.nextGrant - 1) else m1) (granted.foldl max 0)
      let low := chips.foldl (fun m c => min m (w4.seat c).nextTurn) (top + 1)
      let holes := ((upTo (top + 1 - low)).map (· + low)).filter fun turn =>
        !(granted.contains turn) && !(known turn) &&
          !(w4.s.packets.any fun p => chips.contains p.1.1 && p.2.tid == t.tid && p.2.kind != .weak && p.2.turn == turn)
      let w5 := w4.each holes fun w turn => w.ownTurn chip .skip turn 0 []
      (w5.updSeat chip fun x => { x with goal := some (top, n, holes.length) }).each chips fun w c => w.drainRack c
  | _, _ => w

/-- MEMBER_COLLECT (15 R363). -/
def execMemberCollect (chip : Nat) (st : State) : Host.Outcome State Fault Refusal := lift (fun w => w.collect chip) st

/-- VIEW_INSTALL: once every live seat has applied through the highest turn and the prefix, and no packet of the old view is on
its way between live seats, the new view is in place (15 R363 steps 6 and 7). -/
def W.install (w : W) (chip : Nat) : W :=
  let t := w.seat chip
  match t.leaving, t.goal with
  | some gone, some (top, n, skips) =>
    let chips := (w.liveChips chip).filter fun c => (w.seat c).st == .changing
    let ready := chips.all fun c => decide (top < (w.seat c).nextTurn) && decide (n ≤ (w.seat c).total gone)
    let moving := w.s.packets.any fun p => chips.contains p.1.1 && p.2.tid == t.tid
    if !ready || moving then w
    else
      let w1 := w.each chips fun w c =>
        let w' := w.updSeat c fun x => { (x.dropLive gone) with
          st := .live, view := x.view + 1, leaving := none, goal := none, refused := [], shooter := t.num
          nextGrant := if c = chip then top + 1 else x.nextGrant
          turnsLeft := 1023
          left := 1023
          handoffDue := false
          vectors := AList.del x.vectors gone
          strong := x.strong.map fun o => (if o.sent then o else { o with requested := false }) }
        let x := w'.seat c
        w'.event c 0x02 x.ctx 0 (bytesOf 1 gone ++ bytesOf 4 x.view ++ bytesOf 4 skips)
      let w2 : W := { w1 with s := { w1.s with messages := w1.s.messages.filter fun m => match m.2 with
        | .request seat _ _ => !(chips.any fun c => (w1.seat c).num == seat)
        | .redirect seat _ _ _ => !(chips.any fun c => (w1.seat c).num == seat)
        | _ => true } }
      let w3 := w2.each chips fun w c => w.sendRequests c
      let later := (chips.flatMap fun c => (w3.seat c).evictLater).find? fun s => (w3.seat chip).live.contains s
      let w4 := w3.each chips fun w c => w.updSeat c fun x => { x with evictLater := match later with
        | some s => x.evictLater.filter (· != s)
        | none => [] }
      match later with
      | some s => w4.beginRemoval chip s
      | none => w4
  | _, _ => w

/-- VIEW_INSTALL (15 R363). -/
def execViewInstall (chip : Nat) (st : State) : Host.Outcome State Fault Refusal := lift (fun w => w.install chip) st

/-! ## Packets, turns and vectors in flight -/

/-- Whether the fabric carries traffic between the seat of a table and a chip. -/
def W.seatReach (w : W) (chip tid seat : Nat) : Bool :=
  match w.seatChip tid seat with
  | some c => w.cldReach c chip == .live
  | none => true

/-- TABLE_PACKET_RECEIVE: a packet arrives and is racked, discarded or kept back by a full rack (15 R351, R352). -/
def execTablePacketReceive (chip packet : Nat) (st : State) : Host.Outcome State Fault Refusal :=
  lift (fun w =>
    match AList.get? w.s.packets (chip, packet) with
    | none => w
    | some p =>
      if !w.seatReach chip p.tid p.seat || !w.arrived packet then w
      else match ({ w with s := { w.s with packets := AList.del w.s.packets (chip, packet) } } : W).receivePacket chip p with
        | some w1 => w1
        | none => w) st

/-- The message of a number and its destination. -/
def W.messageAt (w : W) (n : Nat) : Option ((Nat × Nat) × TurnMsg) := w.s.messages.find? fun m => m.1.2 == n
/-- Takes a message out of flight. -/
def W.dropMessage (w : W) (k : Nat × Nat) : W := { w with s := { w.s with messages := AList.del w.s.messages k } }

/-- TURN_REQUEST: a request reaches its shooter (15 R356, R358). -/
def execTurnRequest (message : Nat) (st : State) : Host.Outcome State Fault Refusal :=
  lift (fun w =>
    match w.messageAt message with
    | some (k, .request seat _ op) =>
      if !w.seatReach k.1 (w.seat k.1).tid seat || !w.arrived message then w
      else match (w.dropMessage k).turnRequested k.1 seat op with
        | some w1 => w1
        | none => w
    | _ => w) st

/-- TURN_GRANT: a grant reaches the issuer, which broadcasts the strong packet (15 R356). -/
def execTurnGrant (message : Nat) (st : State) : Host.Outcome State Fault Refusal :=
  lift (fun w =>
    match w.messageAt message with
    | some (k, .grant _ turn op src) => if w.cldReach src k.1 != .live || !w.arrived message then w else (w.dropMessage k).turnGranted k.1 turn op
    | _ => w) st

/-- TURN_REDIRECT: the requester sends its request again, to the new shooter (15 R358). -/
def execTurnRedirect (message : Nat) (st : State) : Host.Outcome State Fault Refusal :=
  lift (fun w =>
    match w.messageAt message with
    | some (k, .redirect seat shooter op src) =>
      if w.cldReach src k.1 != .live || !w.arrived message then w else
      let w1 := w.dropMessage k
      let t := w1.seat k.1
      if t.st = .live ∧ t.strong.any (fun o => o.op == op && !o.sent) then
        match w1.seatChip t.tid shooter with
        | some d => w1.sendMessage k.1 d (.request seat shooter op)
        | none => w1
      else w1.updSeat k.1 fun t => { t with strong := t.strong.map fun o => (if o.op == op then { o with requested := false } else o) }
    | _ => w) st

/-- Whether a seat may grant itself a turn now. -/
def Seat.mayGrant (t : Seat) : Bool := t.st == .live && t.shooter == t.num && decide (t.nextGrant - t.baseTurn ≤ 0xBFFFFF)

/-- HANDOFF: after 1,023 ordinary turns the shooter names the next live seat (15 R358). -/
def execHandoff (chip : Nat) (st : State) : Host.Outcome State Fault Refusal :=
  lift (fun w =>
    let t := w.seat chip
    if !t.mayGrant || !t.handoffDue then w
    else
      let next := (((upTo 16).map fun i => (t.num + 1 + i) % 16).find? t.live.contains).getD t.num
      (w.updSeat chip fun t => { t with handoffDue := false, nextGrant := t.nextGrant + 1 }).ownTurn chip .handoff t.nextGrant next []) st

/-- REBASE: an applied entry of the shooter has reached 2^23 and no rebase is under way (15 R366). -/
def execRebase (chip : Nat) (st : State) : Host.Outcome State Fault Refusal :=
  lift (fun w =>
    let t := w.seat chip
    let under := t.rebasing.isSome || (t.rack.any fun p => p.kind == .rebase) ||
      (w.liveChips chip).any fun c => (w.seat c).rebases != t.rebases || (w.seat c).rebasing.isSome
    if !t.mayGrant || under || !(t.applied.any fun x => decide (2 ^ 23 ≤ x)) then w
    else (w.updSeat chip fun t => { t with nextGrant := t.nextGrant + 1 }).ownTurn chip .rebase t.nextGrant 0 t.stable) st

/-- VECTOR_BROADCAST: a seat sends its applied vector to every other live seat, and forms its own stability vector
(15 R354). -/
def execVectorBroadcast (chip : Nat) (st : State) : Host.Outcome State Fault Refusal :=
  lift (fun w =>
    let t := w.seat chip
    if t.st != .live && t.st != .changing then w
    else (w.each ((w.liveChips chip).filter (· != chip)) fun w d => w.sendMessage chip d (.vector t.num t.applied t.parity)).restabilise chip |>.updSeat chip Seat.exchanged) st

/-- VECTOR_RECEIVE: an applied vector arrives; one of another base is brought to the base in force, or waits (15 R354, R366). -/
def execVectorReceive (chip message : Nat) (st : State) : Host.Outcome State Fault Refusal :=
  lift (fun w =>
    match AList.get? w.s.messages (chip, message) with
    | some (.vector sender v parity) =>
      let t := w.seat chip
      if !w.seatReach chip t.tid sender || !w.arrived message then w
      else
        let w1 := w.dropMessage (chip, message)
        if t.st != .live && t.st != .changing || !t.live.contains sender then w1
        else
          let x := if parity = t.parity then v
            else match t.rebasing with
              | some (b, _, _) => (upTo 17).map fun i => vecGet v i + vecGet b i
              | none => vecSub v t.lastBase
          let old := AList.getD t.vectors sender vecZero
          let best := (upTo 17).map fun i => max (vecGet x i) (vecGet old i)
          (w1.updSeat chip fun t => { t with vectors := AList.put t.vectors sender best }).restabilise chip
    | _ => w) st

/-- LAG: the recent-write table is 75 % full and the stability vector has not advanced over two exchanges; again every 1 ms
(15 R365). -/
def execLag (chip : Nat) (st : State) : Host.Outcome State Fault Refusal :=
  lift (fun w =>
    let t := w.seat chip
    let due := match t.lagAt with
      | some x => decide (x + 1000000 ≤ w.s.now)
      | none => true
    if (t.st != .live && t.st != .changing) || !t.lags || !due then w
    else
      let sum := fun (s : Nat) => vecSum (if s = t.num then t.applied else AList.getD t.vectors s vecZero)
      let lagging := t.live.foldl (fun (b : Option Nat) s => match b with
        | none => some s
        | some x => if sum s < sum x then some s else some x) none
      (w.updSeat chip fun t => { t with lagAt := some w.s.now }).event chip 0x01 t.ctx 0
        (bytesOf 1 (lagging.getD 0) ++ bytesOf 1 (t.rwt.length * 100 / 65536) ++ bytesOf 4 t.view)) st

end Sys2Proof.Machine
end

