-- ==== Sys2Proof/Machine/Region.lean ====
section
/-! DEFINITION. Atomic regions: `ab`, `ac`, `aa`, and the commit (16 R371, R372, R381 to R388). -/
namespace Sys2Proof.Machine

/-- RST of a new run: one more after a discard, saturating at 255 (16 R371). -/
def nextRst (rgn : DWord) : Nat := if rgnOut rgn = 5 ∨ rgnOut rgn = 6 then min 255 (rgnRst rgn + 1) else 0

/-- The checks that `ab` and `ac` share with a switch marker: every V-class result is written, and a late fault goes first
(03 R55; 14 R326; 16 R371, R381). -/
def W.atMarker (w : W) (x : At) (k : W → Did) : Did :=
  if x.g.outstanding then .stall w .dependency
  else match x.g.late with
    | some f => .refuse w { code := f.code, detail := f.detail, tval := f.tval }
    | none => k (w.marker x.r)

/-- ab: opens a region and checkpoints the group (16 R371). -/
def execAb (k : Bool) (o : BitVec 22) (st : State) : Host.Outcome State Fault Refusal :=
  issue
    { i := .ab k o, k := k, chk := fun _ => {}, region := fun _ => { counts := false }
      body := fun w x =>
        if x.g.region.isSome then .refuse w { code := fcREGION, detail := 1 }
        else if 1 < x.g.entries.length ∨ x.g.handler.isSome then .refuse w { code := fcREGION, detail := 12 }
        else w.atMarker x fun w =>
          let after := (((w.group x.r).bind fun g => AList.get? g.entries x.ei).map Entry.modeState).getD x.e.modeState
          let rg : Region := {
            abpc := x.e.pc, fallback := x.target 22 o.toNat, entry := x.ei, v := x.g.v, s := x.g.s, p := x.g.p
            windows := x.g.windows, before := x.e.modeState, after := after }
          .next (w.updGroup x.r fun g => { g with rgn := rgnOf 1 0 0 (nextRst g.rgn) 0, region := some rg }) x } st

/-- Adds the references of every OPAQUE lane to the fragile set (16 R381). -/
def Region.gatherFragile (rg : Region) : Region :=
  rg.addFragile (rg.tags.flatMap fun t => match t.2 with
    | .deps refs => refs
    | .sym _ _ => [])

/-- The accesses of a record. -/
def Region.accs (rg : Region) : List Acc := (rg.loads.map RegionLoad.acc) ++ rg.stores.map RegionStore.acc

/-- Whether a page of a record is being migrated (17 R403). -/
def W.regionMigrating (w : W) (chip ctx : Nat) (rg : Region) : Bool :=
  rg.accs.any fun c => fieldOf c.va.toNat 60 4 == 0 && (match (w.walk chip ctx (c.va.toNat % 2 ^ 56)).2 with
    | .migrating => true
    | _ => false)

/-- ac: after its release the record goes for commit; the group waits for the outcome (16 R381, R386). -/
def execAc (k : Bool) (st : State) : Host.Outcome State Fault Refusal :=
  issue
    { i := .ac k, k := k, chk := fun _ => {}, region := fun _ => { counts := false }
      body := fun w x =>
        if x.g.region.isNone then .refuse w { code := fcREGION, detail := 11 }
        else w.atMarker x fun w =>
          match w.release x.r 5 with
          | (false, w1) => .stall w1 .memOrder
          | (true, w1) =>
            let w2 := (w1.updRegion x.r Region.gatherFragile).issueWrite x
              (((w1.group x.r).bind Group.region).toList.flatMap fun rg => rg.stores.map RegionStore.acc)
            match (w2.group x.r).bind Group.region with
            | none => .next w2 x
            | some rg =>
              if rg.home = some none then
                if (w2.seat x.r.chip).st = .departed then .refuse w2 { code := fcTABLE, detail := 4 }
                else if 65536 ≤ (w2.seat x.r.chip).rwt.length then .stall w2 .memOrder
                else if w2.regionMigrating x.r.chip x.g.ctx rg then .stall w2 .memTranslation
                else
                  let n := w2.s.serial
                  let w3 := w2.updRegion x.r fun rg => { rg with sent := true, turnOp := some n }
                  .next (w3.startStrong x.r.chip (x.g.block, x.g.gid)
                    (.commit rg.loads rg.stores rg.constraints rg.fragile) none none []).2 x
              else .next (w2.updRegion x.r fun rg => { rg with sent := true }) x } st

/-- Ends an aborted region at its fallback, with the acquire (16 R384, R385). -/
def W.abortRegion (w : W) (r : GroupRef) (rg : Region) (cause nchg : Nat) : W :=
  let w1 := w.restoreRegion r rg rg.after rg.fallback
  match w1.group r with
  | none => w1
  | some g => (w1.acquire r g.ctx 5).updGroup r fun g => { g with rgn := rgnOf 4 cause nchg (rgnRst g.rgn) 0 }

/-- aa: aborts the region to its fallback, with cause 1 (16 R372, R385). -/
def execAa (k : Bool) (st : State) : Host.Outcome State Fault Refusal :=
  issue
    { i := .aa k, k := k, chk := fun _ => {}, region := fun _ => { counts := false }
      body := fun w x =>
        match x.g.region with
        | none => .refuse w { code := fcREGION, detail := 11 }
        | some rg => .done (w.abortRegion x.r rg 1 0) none false } st

/-! ## The commit at a home CLD (16 R382) -/

/-- REGION_COMMIT: the commit engine of the home locks the lines, reads again, and commits or aborts (16 R382, R384). A home
that only fenced links reach aborts it as a poisoned read would (DESIGN CHOICE, log 29). -/
def W.commitRegion (w : W) (r : GroupRef) : W :=
  match w.group r with
  | none => w
  | some g =>
    match g.region with
    | none => w
    | some rg =>
      if !rg.sent || rg.result.isSome || rg.turnOp.isSome then w
      else
        let reach := (rg.accs.map fun c => w.reach r.chip c.path)
        let give := fun (w : W) (res : CommitResult) => w.updRegion r fun rg => { rg with result := some res }
        if reach.contains .fenced then give w { out := 4, cause := 4, nchg := 0, fresh := [] }
        else if reach.contains .held || w.regionMigrating r.chip g.ctx rg then w
        else
          let lines := linesOf rg.accs
          let (w1, free) := w.secure lines
          if !free then w1
          else
            let (res, writes) := commitEval (fun l => w1.homeValue l.acc.key l.acc.width) (fun l => w1.accPoisoned l.acc)
              rg.loads rg.stores rg.constraints rg.fragile
            let w2 := w1.raceRecords g.ctx (writes.flatMap fun x => cellsOf x.1.key (w1.homeBytes x.1.key x.1.width))
            give (w2.each writes fun w x => w.writeCells (cellsOf x.1.key (bytesOf x.1.width x.2))) res

/-- REGION_COMMIT (16 R382). -/
def execRegionCommit (r : GroupRef) (st : State) : Host.Outcome State Fault Refusal := lift (fun w => w.commitRegion r) st

/-- Rewrites the SYM lanes of one vector register with the fresh values (16 R381). -/
def fixedUp (rg : Region) (fresh : List (Nat × Nat × Nat)) (n : Nat) (old : VReg) : VReg :=
  vregOf fun l => match rg.tag n l with
    | some (.sym k c) => freshPlus fresh l k c
    | _ => laneOf old l

/-- REGION_OUTCOME: the outcome arrives: the group fixes its registers up, or restores them (16 R381, R388). A stop that was
asked for takes place after it (05 R108). -/
def W.outcomeRegion (w : W) (r : GroupRef) : W :=
  match w.group r with
  | none => w
  | some g =>
    match g.region with
    | none => w
    | some rg =>
      match rg.sent, rg.result with
      | true, some res =>
        let w1 :=
          if res.out = 4 then w.abortRegion r rg res.cause res.nchg
          else
            let regs := ((rg.tags.filter fun t => match t.2 with
              | .sym _ _ => true
              | _ => false).map fun t => t.1.1).eraseDups
            let w2 := w.each regs fun w n => w.setV r n (fixedUp rg res.fresh n (g.vget n))
            (w2.acquire r g.ctx 5).updGroup r fun g =>
              { g with rgn := rgnOf res.out res.cause res.nchg (rgnRst g.rgn) 0, region := none }
        if (w.contextOf r g).st = .draining then w1.stopGroup r none
        else if g.stopping && (w.probe r.chip g.ctx).dump.isSome then w1.stopGroup r (some .dumpHalt) else w1
      | _, _ => w

/-- REGION_OUTCOME (16 R381). -/
def execRegionOutcome (r : GroupRef) (st : State) : Host.Outcome State Fault Refusal := lift (fun w => w.outcomeRegion r) st

end Sys2Proof.Machine
end

