-- ==== Sys2Proof/Machine/Context.lean ====
section
/-! DEFINITION. Contexts: the descriptor, the commands CREATE, BIND, SUSPEND, RESUME and RELEASE, draining and scrubbing
(05 R103 to R109, R119, R120; 20 R443, R447). -/
namespace Sys2Proof.Machine

/-- Answers a context command (05 R107). -/
def W.answer (w : W) (pkg slot : Nat) (st : CmdStatus) : W :=
  w.out (.command pkg slot st (if st = .ok then (w.context pkg slot).versions else (0, 0, 0)))

/-- Appends an audit record of a context command. It is a package's command and the spec does not say which of its CLDs logs
it, nor what register value it carries: both are free (20 R445). -/
def W.auditCommand (w : W) (pkg kind slot : Nat) : W :=
  let (n, w1) := w.draw
  let (w2, payload) := w1.freeBytes 32
  w2.each ((chipsOf pkg).filter fun c => bitOf (1 + n % 15) (c % 4)) fun w c => w.audit c kind slot payload

/-- Whether a command whose record must wait stalls (20 R447). -/
def W.auditStalls (w : W) (pkg : Nat) : Bool := (chipsOf pkg).any w.auditFull

/-- CREATE (05 R107). -/
def execCreate (pkg slot : Nat) (st : State) : Host.Outcome State Fault Refusal :=
  lift (fun w =>
    if !w.packageReady pkg || decide (64 ≤ slot) then w
    else if (w.context pkg slot).st = .free then (w.updContext pkg slot fun c => { c with st := .building }).answer pkg slot .ok
    else w.answer pkg slot .badState) st

/-! ## BIND (05 R104 to R106) -/

/-- A field of a descriptor. -/
def descField (bs : List Byte) (off n : Nat) : Nat := ofBytes ((bs.drop off).take n)

/-- The context that a descriptor describes. -/
def contextOfDesc (bs : List Byte) : Context :=
  { root := descField bs 0x00 8, aptab := descField bs 0x08 8, save := descField bs 0x10 8, savelen := descField bs 0x18 8
    handler := descField bs 0x20 8, scratch := descField bs 0x28 4, queues := descField bs 0x2C 1, pricap := descField bs 0x2D 1
    part := descField bs 0x30 16, resv := descField bs 0x40 16, audit := descField bs 0x50 8 }

/-- BADDESC: a reserved field, an alignment or range, resv, savelen (05 R106). -/
def descBad (addr : Nat) (bs : List Byte) : Bool :=
  let c := contextOfDesc bs
  addr % 64 != 0 || descField bs 0x2E 2 != 0 || (bs.drop 0x5E).any (· != 0) ||
  c.root % 32768 != 0 || c.save % 4096 != 0 || c.handler % 4 != 0 || c.scratch % 2 ^ 21 != 0 || decide (2 ^ 30 < c.scratch) ||
  c.queues == 0 || decide (64 < c.queues) || decide (3 < c.pricap) || c.part / 2 ^ 96 != 0 || c.resv / 2 ^ 96 != 0 ||
  Nat.land c.resv c.part != c.resv || decide (c.savelen < 40 * 2 ^ 20 * popOf 128 c.part)

/-- Whether a range of format versions holds the one the N7 supports (05 R105). -/
def versionOk (range : Nat) : Bool := decide (range % 256 ≤ 1 ∧ 1 ≤ range / 256)

/-- Whether a context is bound. -/
def Context.isBound (c : Context) : Bool :=
  match c.st with
  | .bound | .running | .preempted | .draining | .scrubbing => true
  | _ => false

/-- NORES: a reserved cluster taken, the carve-outs, the queues (05 R106). -/
def W.noResources (w : W) (pkg : Nat) (c : Context) : Bool :=
  let others := (w.s.contexts.filter fun x => x.1.1 == pkg && x.2.isBound).map Prod.snd
  let sum := fun (xs : List Nat) => xs.foldl (· + ·) 0
  (others.any fun x => Nat.land x.resv c.resv != 0) ||
    decide (3 * 2 ^ 30 < c.scratch + sum (others.map Context.scratch)) || decide (256 < c.queues + sum (others.map Context.queues))

/-- BIND: the descriptor is read once and checked; the slot is BOUND, or FREE again with the first failing status
(05 R104 to R107; 17 R404); its probe registers are at their reset values (19 R421). -/
def execBind (pkg slot addr : Nat) (st : State) : Host.Outcome State Fault Refusal :=
  lift (fun w =>
    if !w.packageReady pkg || decide (64 ≤ slot) || w.auditStalls pkg then w
    else if (w.context pkg slot).st ≠ .building then w.answer pkg slot .badState
    else if (anyCell pkg addr).isNone then w.noFrame
    else
      let bs := w.physRead pkg addr 128
      let new := contextOfDesc bs
      let fail := fun (s : CmdStatus) => (w.updContext pkg slot fun c => { c with st := .free }).answer pkg slot s
      if descBad addr bs then fail .badDesc
      else if !(versionOk (descField bs 0x58 2) && versionOk (descField bs 0x5A 2) && versionOk (descField bs 0x5C 2)) then fail .version
      else if w.noResources pkg new then fail .noRes
      else
        let w1 := w.updContext pkg slot fun c =>
          { new with st := .bound, versions := (1, 1, 1), binds := (c.binds + 1) % 1024 }
        let w2 := w1.each (chipsOf pkg) fun w c => w.updChip c fun h => { h with probe := AList.del h.probe slot }
        (w2.answer pkg slot .ok).auditCommand pkg 2 slot) st

/-! ## SUSPEND and RESUME (05 R107, R116) -/

/-- The clusters of a context. -/
def W.clustersOf (w : W) (pkg slot : Nat) : List (Nat × Cluster) :=
  w.s.clusters.filter fun c => pkgOf c.2.chip == pkg && c.2.ctx == slot

/-- SUSPEND: every resident cluster is pre-empted and the queues stop placing (05 R107). A move it meets is abandoned
(07 R151). -/
def execSuspend (pkg slot : Nat) (st : State) : Host.Outcome State Fault Refusal :=
  lift (fun w =>
    if !w.packageReady pkg || decide (64 ≤ slot) then w
    else if (w.context pkg slot).st ≠ .running then w.answer pkg slot .badState
    else
      let w1 := w.updContext pkg slot fun c => { c with st := .preempted }
      (w1.each ((w1.clustersOf pkg slot).map Prod.fst) fun w c => w.stopCluster c none).answer pkg slot .ok) st

/-- RESUME: the queues place again, saved clusters are placed again as room allows, and waits are evaluated (05 R107). -/
def execResume (pkg slot : Nat) (st : State) : Host.Outcome State Fault Refusal :=
  lift (fun w =>
    if !w.packageReady pkg || decide (64 ≤ slot) then w
    else if (w.context pkg slot).st ≠ .preempted then w.answer pkg slot .badState
    else
      let next : ContextState := if (w.clustersOf pkg slot).isEmpty then .bound else .running
      let w1 := w.updContext pkg slot fun c => { c with st := next }
      let mine := w1.s.launches.filter fun l => pkgOf l.2.chip == pkg && l.2.ctx == slot
      ((w1.each (mine.map Prod.fst) fun w l => w.gridDone l).evalWaits fun c => pkgOf c == pkg).answer pkg slot .ok) st

/-! ## RELEASE, draining and scrubbing (05 R107, R108, R119, R120) -/

/-- Discards the launches of a context and disables its queues (05 R107; 06 R125, R130; 07 R153). -/
def W.dropLaunches (w : W) (pkg slot : Nat) : W :=
  let ls := w.s.launches.filter fun l => pkgOf l.2.chip == pkg && l.2.ctx == slot
  let w1 := w.each (ls.map Prod.fst) fun w l => w.endDrain l
  let w2 : W := { w1 with s := { w1.s with launches := w1.s.launches.filter fun l => !(pkgOf l.2.chip == pkg && l.2.ctx == slot) } }
  w2.each (chipsOf pkg) fun w c => w.updChip c fun h => { h with queues := AList.mapVal h.queues fun _ q =>
    let left := q.launches.filter fun i => !(ls.any fun l => l.1 == i)
    { q with cfg := if q.ctx == slot then q.cfg &&& ~~~1 else q.cfg, launches := left } }

/-- Discards the saved clusters of a context, with their blocks and stacks (05 R107). -/
def W.dropSaved (w : W) (pkg slot : Nat) : W :=
  w.each ((w.clustersOf pkg slot).filter fun c => c.2.st == .saved) fun w c =>
    let w1 := w.each c.2.savedGroups fun w g => w.freeStack c.2.chip slot g.block g.gid
    let w2 := w1.each c.2.blocks fun w n =>
      let w' := w.clearBlockCells n
      { w' with s := { w'.s with blocks := AList.del w'.s.blocks n } }
    { w2 with s := { w2.s with clusters := AList.del w2.s.clusters c.1 } }

/-- Ends the saves and moves that a context's clusters were stopping for: a pre-emption request has no effect on a DRAINING
context, and no move starts in one (05 R108; 07 R151). -/
def W.dropStops (w : W) (pkg slot : Nat) : W :=
  let w1 := w.each ((w.clustersOf pkg slot).map Prod.fst) fun w c => w.updCluster c fun k => { k with st := match k.st with
    | .stopping _ => .placed
    | x => x }
  { w1 with s := { w1.s with blocks := AList.mapVal w1.s.blocks fun _ b =>
    (if pkgOf b.chip == pkg && b.ctx == slot then { b with moving := none } else b) } }

/-- The halt broadcast: every group of the context stops at its boundary; one whose region or `turn` has been sent stops after
it (05 R107, R108; 15 R368). -/
def W.drainGroups (w : W) (pkg slot : Nat) : W :=
  w.each (w.s.groups.filter fun g => pkgOf g.1.chip == pkg && g.2.ctx == slot) fun w x =>
    let sent := match x.2.region with
      | some rg => rg.sent
      | none => false
    if sent || x.2.turnWait.isSome then w.updGroup x.1 fun g => { g with stopping := true, fault := none }
    else ((w.discardRegion x.1 6 1 0).updGroup x.1 fun g => { g with fault := none }).stopGroup x.1 none

/-- Ends the copies of a context that can never end by themselves: parked ones, whose tiles have gone, and the open COPYXLATE
requests, refused (11 R237; 13 R301). -/
def W.drainCopies (w : W) (pkg slot : Nat) : W :=
  w.each ((w.s.copies.filter fun c => pkgOf c.2.chip == pkg && c.2.ctx == slot).map Prod.snd) fun w c =>
    match c.st with
    | .held _ _ => w.failCopy c stXLATE
    | .parked => { w with s := { w.s with copies := AList.del w.s.copies c.op } }
    | _ => w

/-- Every seat of a context is OFF, its region zeroed (15 R346, R367). -/
def W.dropSeats (w : W) (pkg slot : Nat) : W :=
  w.each ((chipsOf pkg).filter fun c => (w.seat c).st != .off && (w.seat c).ctx == slot) fun w c =>
    (w.leaveTable c).zeroRegion c |>.updSeat c fun t => { t.blank .off with cfg := t.cfg &&& ~~~1 }

/-- RELEASE (05 R107, R108). -/
def execRelease (pkg slot : Nat) (st : State) : Host.Outcome State Fault Refusal :=
  lift (fun w =>
    if !w.packageReady pkg || decide (64 ≤ slot) then w
    else match (w.context pkg slot).st with
      | .building => (w.updContext pkg slot fun c => { c with st := .free }).answer pkg slot .ok
      | .bound | .running | .preempted =>
        let w1 := w.updContext pkg slot fun c => { c with st := .draining }
        (((((w1.dropLaunches pkg slot).dropSaved pkg slot).dropStops pkg slot).drainGroups pkg slot).drainCopies pkg slot).answer
          pkg slot .ok
      | _ => w.answer pkg slot .badState) st

/-- Whether a DRAINING context's copies, engine operations, sent commits and other operations in flight are complete
(05 R107, R108; 15 R368). -/
def W.drained (w : W) (pkg slot : Nat) : Bool :=
  (w.s.copies.all fun c => !(pkgOf c.2.chip == pkg && c.2.ctx == slot)) &&
  (w.s.units.all fun u => !(pkgOf u.2.grp.chip == pkg && u.2.ctx == slot)) &&
  (w.s.blocks.all fun b => !(pkgOf b.2.chip == pkg && b.2.ctx == slot) || (w.engineOps b.1).isEmpty) &&
  (w.s.groups.all fun g => !(pkgOf g.1.chip == pkg && g.2.ctx == slot) ||
    (g.2.turnWait.isNone && (match g.2.region with
      | some rg => !rg.sent
      | none => true) && !(g.2.ops.any fun o => match o.kind with
        | .external _ _ => true
        | _ => false)))

/-- CONTEXT_DRAIN_END: everything in flight is complete; the stores of the context's groups perform, and its checked-out lines
come home or are lost with the LLC's (05 R107, R108, R119; DESIGN CHOICE, log 30). -/
def execContextDrainEnd (pkg slot : Nat) (st : State) : Host.Outcome State Fault Refusal :=
  lift (fun w =>
    if (w.context pkg slot).st ≠ .draining || !w.drained pkg slot then w
    else
      let refs := (w.s.groups.filter fun g => pkgOf g.1.chip == pkg && g.2.ctx == slot).map Prod.fst
      match w.flushGroups refs with
      | (false, w1) => w1
      | (true, w1) =>
        let w2 := w1.each (w1.s.directory.filter fun c => pkgOf c.writer == pkg && c.ctx == slot) fun w c =>
          let (n, w') := w.draw
          if n % 2 = 0 then w'.checkIn [] c else { w' with s := { w'.s with directory := w'.s.directory.filter (· != c) } }
        (w2.dropSeats pkg slot).updContext pkg slot fun c => { c with st := .scrubbing, scrubbed := [] }) st

/-- Zeroes every store of a chip that a context used, and invalidates its entries (05 R119). -/
def W.scrubChip (w : W) (chip slot : Nat) : W :=
  let gs := w.s.groups.filter fun g => g.1.chip == chip && g.2.ctx == slot
  let bs := w.s.blocks.filter fun b => b.2.chip == chip && b.2.ctx == slot
  let w1 := w.each gs fun w x => (w.unmapAll x.1 x.2).dropGroup x.1
  let w2 := w1.each bs fun w b => (w.releaseEngine b.1).clearBlockCells b.1
  let lo := scratchKey chip slot 0
  let mine := fun (k : Nat × Nat) => k.1 == chip
  let cores := AList.mapVal w2.s.cores fun k c => if !mine k then c else
    { c with
      l1 := c.l1.filter fun x => x.2.2 != slot
      reuse := c.reuse.filter fun e => e.ctx != slot
      names := c.names.filter fun p => p.count != 0 || (p.index.isSome && c.reuse.any fun e => e.ctx != slot && e.names.contains p.bits)
      engines := c.engines.filter fun e => match e.2.block with
        | some b => !(bs.any fun x => x.1 == b)
        | none => true }
  let freed := w2.s.cores.flatMap fun k => if !mine k.1 then [] else
    (upTo 4).filterMap fun e => match AList.get? k.2.engines e with
      | none => some (coefKey chip k.1.2 e 0)
      | some g => match g.block with
        | some b => if bs.any fun x => x.1 == b then some (coefKey chip k.1.2 e 0) else none
        | none => some (coefKey chip k.1.2 e 0)
  let w3 : W := {
    m := w2.m.clear fun a => decide (lo ≤ a ∧ a < lo + 2 ^ 30) || freed.any fun b => decide (b ≤ a ∧ a < b + 262144)
    s := { w2.s with
      cores := cores
      blocks := w2.s.blocks.filter fun b => !(b.2.chip == chip && b.2.ctx == slot)
      clusters := w2.s.clusters.filter fun c => !(c.2.chip == chip && c.2.ctx == slot)
      spillStacks := AList.del w2.s.spillStacks (chip, slot)
      tlb := w2.s.tlb.filter fun t => !(t.chip == chip && t.ctx == slot)
      apertures := w2.s.apertures.filter fun x => !(x.1.1 == chip && x.1.2.1 == slot)
      walks := w2.s.walks.filter fun k => !(k.chip == chip && k.ctx == slot) } }
  w3.updChip chip fun h => { h with llc := h.llc.filter fun x => x.2.ctx != slot }

/-- SCRUB_DONE: a CLD has zeroed its chip's stores; the slot is FREE once all four have (05 R119, R120). -/
def execScrubDone (chip slot : Nat) (st : State) : Host.Outcome State Fault Refusal :=
  lift (fun w =>
    let pkg := pkgOf chip
    let c := w.context pkg slot
    if c.st ≠ .scrubbing || c.scrubbed.contains chip || (c.scrubbed.length == 3 && w.auditStalls pkg) then w
    else
      let w1 := (w.scrubChip chip slot).updContext pkg slot fun c => { c with scrubbed := c.scrubbed ++ [chip] }
      if (w1.context pkg slot).scrubbed.length < 4 then w1
      else (w1.auditCommand pkg 3 slot).updContext pkg slot fun c => { binds := c.binds }) st

end Sys2Proof.Machine
end

