-- ==== Sys2Proof/Machine/Fabric.lean ====
section
/-! DEFINITION. What reaches the memory and the links from outside the cores: invalidation of translations (17 R407, R408),
host accesses (18 R411), flits and the fabric transport (18 R414 to R417), and the states of links (18 R418 to R420). -/
namespace Sys2Proof.Machine

/-! ## Invalidation (17 R407; 16 R388) -/

/-- The groups of a context on a package. -/
def W.groupsOfContext (w : W) (pkg ctx : Nat) : List (GroupRef × Group) :=
  w.s.groups.filter fun g => pkgOf g.1.chip == pkg && g.2.ctx == ctx

/-- While an invalidation's entries have not gone, each serves or not, by free values drawn anew at every cycle (17 R408). -/
def W.veil (w : W) : W :=
  let vs := w.s.chips.filterMap fun h => match h.2.inval with
    | some v => if v.gone.isNone then some (pkgOf h.1, v.value) else none
    | none => none
  if vs.isEmpty then w
  else
    let (ts, w1) := w.s.tlb.foldl (fun (x : List TlbEntry × W) t =>
      if vs.any fun v => pkgOf t.chip == v.1 && t.invalidated v.2 then
        let (n, w') := x.2.draw
        (x.1 ++ [{ t with hidden := n % 2 == 1 }], w')
      else (x.1 ++ [t], x.2)) ([], w)
    { w1 with s := { w1.s with tlb := ts } }

/-- An XINV write with GO whose scope is the row's: the fields are written, and where no invalidation of the register is in
progress one begins; pages that migrate are walked again (17 R403, R407). -/
def W.invalidate (w : W) (chip scope : Nat) (value : DWord) : W :=
  if !bitOf value.toNat 0 || xinvScope value != scope then w
  else
    let w0 := w.updChip chip fun h => { h with xinv := value &&& xinvMask }
    if (w.chip chip).inval.isSome then w0
    else
      let w1 : W := { w0 with s := { w0.s with
        walks := w0.s.walks.map fun k => (if pkgOf k.chip == pkgOf chip && k.ctx == xinvCtx value then { k with mig := none } else k) } }
      (w1.updChip chip fun h => { h with inval := some { value := value } }).veil

/-- The entries that an invalidation names go from the caches of all four chips, and with them the unsent regions and the load
entries of the context (17 R407; 16 R388; 09 R199). -/
def W.dropTranslations (w : W) (chip : Nat) (value : DWord) : W :=
  let pkg := pkgOf chip
  let ctx := xinvCtx value
  let mine := fun (c : Nat) => pkgOf c == pkg
  let w1 : W := { w with s := { w.s with
    tlb := w.s.tlb.filter fun t => !(mine t.chip && t.invalidated value)
    apertures := w.s.apertures.filter fun x => !(mine x.1.1 && apertureInvalidated x.1.2.1 x.1.2.2 value) } }
  let w2 := w1.each (w1.groupsOfContext pkg ctx) fun w g =>
    (w.discardRegion g.1 6 2 0).updGroup g.1 fun g => { g with walks := [] }
  let w3 := w2.each ((w2.s.cores.map Prod.fst).filter fun k => mine k.1) fun w k => w.dropLoads k fun e => e.ctx == ctx
  w3.updChip chip fun h => { h with inval := some { value := value, gone := some w.s.now } }

/-- INVALIDATE_PAGE (17 R407). -/
def execInvalidatePage (chip : Nat) (value : DWord) (st : State) : Host.Outcome State Fault Refusal :=
  liftBar chip (fun w => w.invalidate chip 0 value) st
/-- INVALIDATE_CONTEXT (17 R407). -/
def execInvalidateContext (chip : Nat) (value : DWord) (st : State) : Host.Outcome State Fault Refusal :=
  liftBar chip (fun w => w.invalidate chip 1 value) st
/-- INVALIDATE_APERTURE (17 R407). -/
def execInvalidateAperture (chip : Nat) (value : DWord) (st : State) : Host.Outcome State Fault Refusal :=
  liftBar chip (fun w => w.invalidate chip 2 value) st

/-- Whether an operation of a group is an access that has been translated and not performed. -/
def GroupOp.translated (o : GroupOp) : Bool :=
  match o.kind with
  | .value _ | .pop _ _ => false
  | _ => true

/-- Whether the rest of an invalidation's conditions holds, its entries having gone at a time (17 R407): no walk of the
context from before is in flight, and no access, unit operation, contribution, strong operation or region sent is still to
perform that an old translation may have served. -/
def W.invalidated (w : W) (chip : Nat) (value : DWord) (gone : Nat) : Bool :=
  let pkg := pkgOf chip
  let ctx := xinvCtx value
  (w.s.walks.all fun k => !(pkgOf k.chip == pkg && k.ctx == ctx && k.mig.isNone && decide (k.since ≤ gone))) &&
  (w.groupsOfContext pkg ctx).all (fun g => !(g.2.ops.any fun o => o.translated && decide (o.issued ≤ gone)) &&
    !(w.ownWaiting g.1) && g.2.turnWait.isNone &&
    (match g.2.region with
      | some rg => !rg.sent
      | none => true)) &&
  (w.s.units.all fun u => !(pkgOf u.2.grp.chip == pkg && u.2.ctx == ctx) || u.2.kind.isLaunch) &&
  w.s.windows.all fun x => x.2.parts.all fun p => p.owner != (pkg, ctx)

/-- INVALIDATE_DONE (17 R407, R408): the entries go at one moment, and BUSY clears at a later one. -/
def execInvalidateDone (chip : Nat) (st : State) : Host.Outcome State Fault Refusal :=
  lift (fun w => match (w.chip chip).inval with
    | some v => match v.gone with
      | none => w.dropTranslations chip v.value
      | some t => if w.invalidated chip v.value t then w.updChip chip fun h => { h with inval := none } else w
    | none => w) st

/-! ## Host accesses (18 R411) -/

/-- Whether the host link of a package lets accesses through. -/
def W.hostUp (w : W) (pkg : Nat) : Bool := reachOf (w.linkState pkg 0) == .live

/-- The cell of the first byte of a host access, where every byte lies in the package's HBM. The HDM-DB range shows a frame at
its physical address (DESIGN CHOICE, log 31). -/
def hostCell (pkg addr len : Nat) : Option Nat :=
  match physCell pkg addr, physCell pkg (addr + (len - 1)) with
  | some c, some _ => some c
  | _, _ => none

/-- Whether a cell lies in the replicated region of its chip's enabled seat (15 R345; 18 R411). -/
def W.inTable (w : W) (cell : Nat) : Bool :=
  let t := w.seat (homeOf cell)
  bitOf t.cfg.toNat 0 && (t.offsetOf (cell % 2 ^ 48)).isSome

/-- Back-invalidates a line for the host: it is recalled, and no core or CLD of the package keeps it (18 R411; 14 R323;
09 R199). -/
def W.backInvalidate (w : W) (pkg line : Nat) : W :=
  let w1 := w.recall line none
  let w2 := w1.each ((w1.s.cores.map Prod.fst).filter fun k => pkgOf k.1 == pkg) fun w k =>
    (w.dropLoads k fun e => e.lines.contains line).updCore k fun c => { c with l1 := AList.del c.l1 line }
  w2.each ((w2.s.chips.map Prod.fst).filter fun c => pkgOf c == pkg) fun w c =>
    w.updChip c fun h => { h with llc := AList.del h.llc line }

/-- The way of a host access from CLD 0 to a chip: none answers while either is in RECOVERY, and a SAFE chip is as one behind a
FENCED link (01 R18; 18 R417; 20 R443, R449). -/
def W.hostReach (w : W) (chip : Nat) : Reach :=
  if (w.chip chip).power = .recovery ∨ (w.chip (pkgOf chip * 4)).power = .recovery then .held
  else if (w.chip chip).power = .safe then .fenced
  else w.barReach chip

/-- The way of a host access to the chips of its first and last byte. Behind a FENCED link it has a poisoned completion
(DESIGN CHOICE, log 114). -/
def W.hostWay (w : W) (cell len : Nat) : Reach := (w.hostReach (homeOf cell)).both (w.hostReach (homeOf (cell + (len - 1))))

/-- HOST_MEM_WRITE: the lines are back-invalidated; once their lease horizons have passed the write performs and is answered. A
write inside an enabled table region is not performed, and one that meets a poisoned byte may be; both have a poisoned
completion (18 R411). -/
def execHostMemWrite (pkg addr : Nat) (bytes : List Byte) (st : State) : Host.Outcome State Fault Refusal :=
  lift (fun w =>
    if !w.hostUp pkg || bytes.isEmpty then w
    else match hostCell pkg addr bytes.length with
      | none => w.noFrame
      | some cell =>
        let bs := cellsOf cell bytes
        let way := w.hostWay cell bytes.length
        if way = .held then w
        else if way = .fenced || bs.any (fun b => w.inTable b.1) then w.out (.hostWrite pkg true)
        else
          let lines := (bs.map fun b => lineOf b.1).eraseDups
          let w0 := w.each lines fun w l => w.backInvalidate pkg l
          let (w1, free) := w0.claim (bs.map Prod.fst)
          if !free || lines.any (fun l => !w1.recalled l none) then w1
          else if bs.any fun b => w1.poisoned b.1 then
            let (n, w2) := w1.draw
            (if n % 2 = 0 then w2 else w2.writeCells bs).out (.hostWrite pkg true)
          else (w1.writeCells bs).out (.hostWrite pkg false)) st

/-- HOST_MEM_READ: the bytes at their home, or a poisoned completion (18 R411). -/
def execHostMemRead (pkg addr len : Nat) (st : State) : Host.Outcome State Fault Refusal :=
  lift (fun w =>
    if !w.hostUp pkg || len = 0 then w
    else match hostCell pkg addr len with
      | none => w.noFrame
      | some cell =>
        let way := w.hostWay cell len
        let bad := way == .fenced || (upTo len).any fun i => w.poisoned (cell + i)
        if way = .held then w else w.out (.hostRead pkg (if bad then none else some (w.homeBytes cell len)))) st

/-! ## Links: places and moves (18 R409, R418) -/

/-- A link of a package. -/
def W.link (w : W) (pkg n : Nat) : Link := AList.getD w.s.links (pkg, n) {}
/-- Changes a link of a package. -/
def W.updLink (w : W) (pkg n : Nat) (f : Link → Link) : W :=
  { w with s := { w.s with links := AList.put w.s.links (pkg, n) (f (w.link pkg n)) } }

/-- Whether a number names a link (18 R409). -/
def linkNamed (n : Nat) : Bool :=
  n == 0 || decide (0x10 ≤ n ∧ n ≤ 0x13) || decide (0x20 ≤ n ∧ n ≤ 0x25) || decide (0x30 ≤ n ∧ n ≤ 0x3F)
/-- Whether a number names a fabric port. -/
def isPort (n : Nat) : Bool := decide (0x30 ≤ n ∧ n ≤ 0x3F)
/-- Whether a number names a die-to-die link. -/
def isDieLink (n : Nat) : Bool := decide (0x10 ≤ n ∧ n ≤ 0x13) || decide (0x20 ≤ n ∧ n ≤ 0x25)

/-- The chip whose management processor reports a link: its CLD, and the lower of a pair (18 R409; DESIGN CHOICE, log 32). -/
def linkChip (pkg n : Nat) : Nat :=
  4 * pkg + (if n < 0x10 then 0 else if n < 0x20 then n - 0x10 else if n < 0x30 then
    (if n ≤ 0x22 then 0 else if n ≤ 0x24 then 1 else 2) else (n - 0x30) / 4)

/-- ST of LKSTAT (18 R420). -/
def LinkState.code : LinkState → Nat
  | .down => 0
  | .training => 1
  | .negotiating => 2
  | .up => 3
  | .degraded => 4
  | .fenced => 5

/-- The paths of a package's transports through a port. -/
def W.pathsThrough (w : W) (pkg port : Nat) : List FabricPath :=
  (w.s.transports.filter fun t => pkgOf t.1.1 == pkg).flatMap fun t => t.2.paths.filter fun p => p.port == port

/-- Live paths through a port of the destination that has most: LIVEP (18 R420). -/
def W.busiest (w : W) (pkg port : Nat) : Nat :=
  (w.s.transports.filter fun t => pkgOf t.1.1 == pkg).foldl (fun m t =>
    max m ((t.2.paths.filter fun p => p.port == port && p.live).length)) 0

/-- Kills every path through a port (18 R416). -/
def W.killPaths (w : W) (pkg port : Nat) : W :=
  let cut := fun (k : Nat × Nat) (t : Transport) =>
    if pkgOf k.1 = pkg then { t with paths := t.paths.map fun p => (if p.port == port then { p with live := false } else p) } else t
  { w with s := { w.s with transports := AList.mapVal w.s.transports cut } }

/-- Event LINK of a move from a state to the one a link is in (18 R418). -/
def W.linkEvent (w : W) (pkg n : Nat) (old : LinkState) : W :=
  let l := w.link pkg n
  w.event (linkChip pkg n) 0x06 0xFF 0
    (bytesOf 1 n ++ bytesOf 1 l.st.code ++ bytesOf 1 old.code ++ bytesOf 1 l.reason ++
      bytesOf 2 (if isPort n then w.busiest pkg n else l.width))

/-- A link takes a state, with a reason; a port that leaves UP and DEGRADED takes its paths with it (18 R416, R418). -/
def W.setLink (w : W) (pkg n : Nat) (new : LinkState) (reason : Nat) : W :=
  let w1 := w.updLink pkg n fun l => { l with st := new, reason := reason }
  if isPort n && reachOf new != .live then w1.killPaths pkg n else w1

/-- The event of a loss that none has reported yet (18 R418). -/
def W.reportLoss (w : W) (pkg n : Nat) : W :=
  match (w.link pkg n).lost with
  | some old => (w.linkEvent pkg n old).updLink pkg n fun l => { l with lost := none }
  | none => w

/-- A link moves to a state, with a reason, and event LINK (18 R418). -/
def W.moveLink (w : W) (pkg n : Nat) (new : LinkState) (reason : Nat) : W :=
  let w0 := w.reportLoss pkg n
  (w0.setLink pkg n new reason).linkEvent pkg n (w0.linkState pkg n)

/-- A link is fenced by a command; one event reports it together with a loss of the same cycle (18 R418). -/
def W.fenceLink (w : W) (pkg n : Nat) : W :=
  let l := w.link pkg n
  (((w.setLink pkg n .fenced 5).updLink pkg n fun l => { l with lost := none })).linkEvent pkg n (l.lost.getD l.st)

/-- The losses of the cycle that no command has overtaken are reported (18 R418). -/
def W.reportLosses (w : W) : W :=
  w.each ((w.s.links.filter fun l => l.2.lost.isSome).map Prod.fst) fun w k => w.reportLoss k.1 k.2

/-- The lanes or modules of a link in full: 16 of the host link (18 R410); the spec gives no number for the others. -/
def fullWidth (n : Nat) : Nat := if n = 0 then 16 else Config.linkWidth n

/-- Whether a link runs at its full width and rate (18 R410, R418). -/
def Link.full (l : Link) (n : Nat) : Bool := decide (fullWidth n ≤ l.width) && (n != 0 || l.rate == 64)

/-- A fabric port follows its paths: DEGRADED while every path through it is dead, UP again with one alive (18 R418). -/
def W.followPaths (w : W) (pkg port : Nat) : W :=
  let ps := w.pathsThrough pkg port
  let l := w.link pkg port
  if l.st == .up && !ps.isEmpty && ps.all fun p => !p.live then w.moveLink pkg port .degraded 2
  else if l.st == .degraded && l.full port && ps.any FabricPath.live then w.moveLink pkg port .up 0
  else w

/-! ## Flits (18 R414) -/

/-- A saturating count of replays (18 R420). -/
def Link.replayed (l : Link) : Link := { l with replay := min 65535 (l.replay + 1) }

/-- Whether a flit of 256 bytes is whole: its CRC-64 and its zero tail (18 R414). -/
def flitWhole (bs : List Byte) : Bool :=
  bs.length == 256 && ofBytes ((bs.drop 244).take 8) == (crc64 0 (bs.take 244)).toNat && (bs.drop 252).all (· == 0)

/-- FLIT_RECEIVE: a flit that fails its CRC is replayed; of a class, the one that bears the number expected at the end it
reaches is taken, and returns its credits there. The row does not say which end that is: a free value does (18 R414; DESIGN
CHOICE, log 116). -/
def execFlitReceive (pkg link : Nat) (flit : List Byte) (st : State) : Host.Outcome State Fault Refusal :=
  lift (fun w =>
    if !isDieLink link || reachOf (w.linkState pkg link) != .live then w
    else if !flitWhole flit then w.updLink pkg link Link.replayed
    else
      let header := ofBytes (flit.take 4)
      let cls := fieldOf header 4 4
      let (n, w1) := w.draw
      let side := n % 2
      w1.updLink pkg link fun l =>
        if 4 ≤ cls ∨ fieldOf header 8 12 ≠ AList.getD l.expect (4 * side + cls) 0 then l
        else { l with
          expect := AList.put l.expect (4 * side + cls) ((fieldOf header 8 12 + 1) % 4096)
          credits := AList.put l.credits side (AList.getD l.credits side 0 + fieldOf header 20 12) }) st

/-! ## The multipath transport (18 R416, R417) -/

/-- FABCFG.PATHS in force for a chip (18 R415). -/
def W.maxPaths (w : W) (chip : Nat) : Nat := fieldOf (w.chip chip).fabcfg.toNat 0 7
/-- Whether a chip's fabric is enabled: ETYPE is not 0 (18 R415). -/
def W.fabricOn (w : W) (chip : Nat) : Bool := fieldOf (w.chip chip).fabcfg.toNat 16 16 != 0

/-- FABRIC_PACKET_RECEIVE: a packet on a path arrives; the receiver drops one it has had, and its acknowledgement ends its
sending (18 R416). -/
def execFabricPacketReceive (src dest seq path : Nat) (st : State) : Host.Outcome State Fault Refusal :=
  lift (fun w =>
    let t := w.transport src dest
    if pkgOf src = pkgOf dest || !(t.unacked.any fun u => u.seq == seq && (u.path.map Prod.fst) == some path) then w
    else w.updTransport src dest fun t => { t with
      received := if t.received.contains seq then t.received else t.received ++ [seq]
      unacked := t.unacked.filter fun u => u.seq != seq
      paths := t.paths.modify path fun p => { p with timeouts := 0 } }) st

/-- A packet is sent on the live path whose turn it is, another than the one it was last on where there is one (18 R416). -/
def Transport.resend (t : Transport) (seq now : Nat) (frame : FabricPath → Frame) : Transport :=
  let last := (t.unacked.find? fun u => u.seq == seq).bind fun u => u.path.map Prod.fst
  let live := (upTo t.paths.length).filter fun i => ((t.paths[i]?).map FabricPath.live).getD false
  let others := live.filter fun i => some i != last
  let from' := if others.isEmpty then live else others
  match from'[seq % max 1 from'.length]? with
  | none => { t with unacked := t.unacked.map fun u => (if u.seq == seq then { u with path := none } else u) }
  | some i =>
    let k := ((t.paths[i]?).map FabricPath.next).getD 0
    { t with
      unacked := t.unacked.map fun u => (if u.seq == seq then { u with path := some (i, k), sent := now, frame := (t.paths[i]?).map frame } else u)
      paths := t.paths.modify i fun p => { p with next := p.next + 1 } }

/-- RETRANSMIT_TIMEOUT: a packet has gone 20 µs without an acknowledgement, or is held and a path lives: it is sent again, and a
path with three timeouts in a row dies (18 R416, R417). -/
def execRetransmitTimeout (src dest seq : Nat) (st : State) : Host.Outcome State Fault Refusal :=
  lift (fun w =>
    let t := w.transport src dest
    match t.unacked.find? fun u => u.seq == seq with
    | none => w
    | some u =>
      match u.path with
      | none => if t.paths.any FabricPath.live then w.updTransport src dest fun t => t.resend seq w.s.now (w.frameOn src dest) else w
      | some (i, _) =>
        if w.s.now < u.sent + 20000 then w
        else
          let w1 := w.updTransport src dest fun t => { t with paths := t.paths.modify i fun p =>
            { p with timeouts := p.timeouts + 1, live := p.live && decide (p.timeouts + 1 < 3) } }
          let w2 := w1.updTransport src dest fun t => t.resend seq w.s.now (w.frameOn src dest)
          match t.paths[i]? with
          | some p => (w2.updLink (pkgOf src) p.port Link.replayed).followPaths (pkgOf src) p.port
          | none => w2) st

/-- PATH_PROBE: a dead path that answers lives again, and a path that answers for the first time is formed, up to PATHS; which
ports and flow label it has is unspecified (18 R415, R416; DESIGN CHOICE, log 33). -/
def execPathProbe (src dest path : Nat) (answered : Bool) (st : State) : Host.Outcome State Fault Refusal :=
  lift (fun w =>
    let pkg := pkgOf src
    let t := w.transport src dest
    if pkg = pkgOf dest || !answered || !w.fabricOn src || decide (w.maxPaths src ≤ path) then w
    else match t.paths[path]? with
      | some p =>
        if p.live || reachOf (w.linkState pkg p.port) != .live then w
        else (w.updTransport src dest fun t => { t with paths := t.paths.modify path fun p => { p with live := true, timeouts := 0 } }).followPaths
          pkg p.port
      | none =>
        let ports := ((upTo 16).map (· + 0x30)).filter fun n => reachOf (w.linkState pkg n) == .live
        if path != t.paths.length || ports.isEmpty then w
        else
          let (a, w1) := w.draw
          let (b, w2) := w1.draw
          let (c, w3) := w2.draw
          let port := (ports[a % ports.length]?).getD 0x30
          (w3.updTransport src dest fun t => { t with paths := t.paths ++ [{ port := port, remote := b % 16, flow := c }] }).followPaths
            pkg port) st

/-! ## Link states (18 R418 to R420) -/

/-- PARTNER_DETECT: DOWN to TRAINING. -/
def execPartnerDetect (pkg link : Nat) (st : State) : Host.Outcome State Fault Refusal :=
  lift (fun w =>
    if !linkNamed link || w.linkState pkg link != .down then w
    else (w.moveLink pkg link .training 0).updLink pkg link fun l => { l with since := w.s.now, expect := [] }) st

/-- Whether the host link trains at a width and rate (18 R410). -/
def hostTrains (width rate : Nat) : Bool :=
  (width == 16 || width == 8 || width == 4) && (rate == 64 || rate == 32 || rate == 16)

/-- PHYSICAL_UP: TRAINING to NEGOTIATING; a host partner that cannot train 256-byte flit mode leaves the link FENCED
(18 R410, R418). After 100 ms the link can only go DOWN. -/
def execPhysicalUp (pkg link : Nat) (outcome : Training) (st : State) : Host.Outcome State Fault Refusal :=
  lift (fun w =>
    if !linkNamed link || w.linkState pkg link != .training || decide ((w.link pkg link).since + 100000000 ≤ w.s.now) then w
    else match outcome with
      | .up width rate =>
        if width = 0 || (link == 0 && !hostTrains width rate) then w
        else (w.updLink pkg link fun l => { l with width := width % 512, rate := if link = 0 then rate else 0 }).moveLink pkg link
          .negotiating 0
      | .noFlitMode => if link = 0 then w.moveLink pkg link .fenced 4 else w) st

/-- TRAINING_TIMEOUT: not up within 100 ms. -/
def execTrainingTimeout (pkg link : Nat) (st : State) : Host.Outcome State Fault Refusal :=
  lift (fun w =>
    if w.linkState pkg link != .training || decide (w.s.now < (w.link pkg link).since + 100000000) then w
    else w.moveLink pkg link .down 6) st

/-- The versions of a link's interface that the N7 supports, lowest and highest: version 1 of the die-to-die protocol and the
transport (18 R419). -/
def ownVersions (link : Nat) : Nat × Nat := if link = 0 then Config.cxlVersions else (1, 1)

/-- NEGOTIATE: the highest version both support, or FENCED (18 R418, R419). -/
def execNegotiate (pkg link lowest highest : Nat) (st : State) : Host.Outcome State Fault Refusal :=
  lift (fun w =>
    if !linkNamed link || w.linkState pkg link != .negotiating then w
    else
      let (lo, hi) := ownVersions link
      let v := min hi highest
      if v < max lo lowest then w.moveLink pkg link .fenced 3
      else
        let w1 := w.updLink pkg link fun l => { l with ver := v % 256 }
        w1.moveLink pkg link (if (w1.link pkg link).full link then .up else .degraded) 0) st

/-- A link takes a state for a loss; its event follows at the end of the cycle, unless a FENCE reports both (18 R418). -/
def W.loseLink (w : W) (pkg n : Nat) (new : LinkState) : W :=
  let old := w.link pkg n
  (w.setLink pkg n new 1).updLink pkg n fun l => { l with lost := some (old.lost.getD old.st) }

/-- LANE_LOSS: some lanes, modules or the Ethernet link of a port are lost (18 R418). -/
def execLaneLoss (pkg link remaining : Nat) (st : State) : Host.Outcome State Fault Refusal :=
  lift (fun w =>
    let l := w.link pkg link
    if !linkNamed link || reachOf l.st != .live || decide (l.width ≤ remaining) then w
    else
      let w1 := w.updLink pkg link fun l => { l with width := remaining }
      if remaining = 0 then w1.loseLink pkg link .down
      else if l.st = .up then w1.loseLink pkg link .degraded
      else w1) st

/-- LANE_REGAIN: a DEGRADED link with everything regained is UP (18 R418). -/
def execLaneRegain (pkg link width : Nat) (st : State) : Host.Outcome State Fault Refusal :=
  lift (fun w =>
    let l := w.link pkg link
    if !linkNamed link || l.st != .degraded || decide (width < l.width) || (link == 0 && !hostTrains width 64) then w
    else
      let w1 := w.updLink pkg link fun l => { l with width := width % 512 }
      let ps := w1.pathsThrough pkg link
      let dead := isPort link && !ps.isEmpty && ps.all fun p => !p.live
      if (w1.link pkg link).full link && !dead then w1.moveLink pkg link .up 0 else w1) st

/-- LINK_FENCE: LKCTL.FENCE; a FENCED link stays, and one whose audit record must wait stalls the command (18 R418, R420;
20 R445, R447). The register value recorded has FENCE set and may have RETRAIN set beside it. -/
def execLinkFence (pkg link : Nat) (st : State) : Host.Outcome State Fault Refusal :=
  lift (fun w =>
    let chip := linkChip pkg link
    if !linkNamed link || w.linkState pkg link == LinkState.fenced || w.auditFull chip then w
    else
      let (n, w1) := w.draw
      (w1.fenceLink pkg link).audit chip 5 0xFF (bytesOf 8 (1 + 2 * (n % 2)))) st

/-- LINK_RETRAIN: LKCTL.RETRAIN acts in FENCED and DOWN (18 R418, R420). -/
def execLinkRetrain (pkg link : Nat) (st : State) : Host.Outcome State Fault Refusal :=
  lift (fun w =>
    if !linkNamed link || !(w.linkState pkg link == LinkState.fenced || w.linkState pkg link == LinkState.down) then w
    else (w.moveLink pkg link .training 5).updLink pkg link fun l => { l with since := w.s.now, expect := [] }) st

end Sys2Proof.Machine
end

