-- ==== Sys2Proof/Machine/Probe.lean ====
section
/-! DEFINITION. The probe: what each issue slot is charged, the counters, samples, the trigger, the core dump and resuming
(19 R421 to R437; 24 R457). -/
namespace Sys2Proof.Machine

/-! ## The issue-slot tree (19 R422 to R424) -/

/-- The number of a leaf (19 R422). -/
def Leaf.index : Leaf → Nat
  | .executed => 0
  | .reused => 1
  | .dependency => 2
  | .operand => 3
  | .memQueue => 4
  | .memOrder => 5
  | .memTranslation => 6
  | .engTile => 7
  | .engLatch => 8
  | .engBusy => 9
  | .syncBarrier => 10
  | .syncBatch => 11
  | .syncRegroup => 12
  | .syncTable => 13
  | .frontend => 14
  | .trap => 15
  | .idle => 16

/-- The first ACTIVE group that the rotation would try (08 R162). -/
def W.firstTried (w : W) (chip core sub : Nat) : Option (GroupRef × Group) :=
  leastBy (fun g => after 512 (AList.getD (w.core (chip, core)).lastSlot sub 511) g.1.slot) (w.activeGroups chip core sub)

/-- The first entry of a group that the rotation would try (08 R162). -/
def Group.firstEntry (g : Group) : Option (Nat × Entry) :=
  leastBy (fun e => after 32 g.lastEntry e.1) (g.entries.filter fun e => e.2.st != .hollow)

/-- The leaf that a group's slot is lost to: of its causes the first in the order of 19 R423. -/
def W.lostTo (w : W) (r : GroupRef) (g : Group) (i : Nat) (e : Entry) : Leaf :=
  let dumping := g.stopping && (w.probe r.chip g.ctx).dump.isSome
  let sent := match g.region with
    | some rg => rg.sent
    | none => false
  let stalled := (e.stall.map Prod.fst).filter fun l => decide (2 ≤ l.index ∧ l.index ≤ 13)
  if g.fault.isSome || dumping || (g.handler.isSome && g.handler != some i) then .trap
  else if g.parked then .dependency
  else if stalled == some .operand then .operand
  else if stalled == some .memQueue then .memQueue
  else if sent || stalled == some .memOrder then .memOrder
  else if stalled == some .memTranslation then .memTranslation
  else if w.latched r g then .engLatch
  else if stalled == some .engTile || stalled == some .engLatch || stalled == some .engBusy then stalled.getD .engBusy
  else if g.turnWait.isSome then .syncTable
  else match stalled with
    | some l => l
    | none =>
      if e.st == .joinWait then .syncBarrier
      else match e.wait with
        | some (.barrier _ _ _) | some (.double _) => .syncBarrier
        | some (.batch _ _) => .syncBatch
        | some .regroup => .syncRegroup
        | some (.tsync _) => .syncTable
        | none => .frontend

/-- What a sub-datapath's slot is charged in the current cycle (19 R422, R423). -/
def W.chargeOf (w : W) (chip core sub : Nat) : Option FragRef × Leaf :=
  let c := w.core (chip, core)
  if AList.has c.used sub then AList.getD c.charged sub (none, .executed)
  else match w.firstTried chip core sub with
    | none => (none, .idle)
    | some (r, g) => match g.firstEntry with
      | none => (none, .frontend)
      | some (i, e) => (some ⟨r, i⟩, w.lostTo r g i e)

/-- The 18 counters of a core (19 R422). -/
def W.countersOf (w : W) (k : Nat × Nat) : AList Nat Nat :=
  let c := w.core k
  let cycles := w.s.cycle - max c.cleared (w.chip k.1).cycleBase
  let busy := (upTo 16).foldl (fun n i => n + AList.getD c.counters i 0) 0
  ((upTo 16).map fun i => (i, AList.getD c.counters i 0)) ++ [(16, 4 * cycles - busy), (17, cycles)]

/-- The end of a cycle on a core: each sub-datapath adds 1 to its leaf (19 R422). -/
def W.chargeCore (w : W) (k : Nat × Nat) : W :=
  let ls := ([0, 1, 2, 3] : List Nat).map fun sub => (w.chargeOf k.1 k.2 sub).2.index
  w.updCore k fun c => { c with
    used := []
    counters := ls.foldl (fun t i => if i < 16 then AList.put t i (AList.getD t i 0 + 1) else t) c.counters }

/-- The selected context and core of a chip's probe (19 R421). -/
def W.selCtx (w : W) (chip : Nat) : Nat := fieldOf (w.chip chip).prsel.toNat 8 6
/-- PRSEL.CORE. -/
def W.selCore (w : W) (chip : Nat) : Nat := fieldOf (w.chip chip).prsel.toNat 0 7

/-- PRSEL_WRITE: a CORE beyond 95 is ignored; the counters of the selected core are copied (19 R421, R424; DEDUCED, log
34). -/
def execPrselWrite (chip : Nat) (value : DWord) (st : State) : Host.Outcome State Fault Refusal :=
  liftBar chip (fun w =>
    let core := if fieldOf value.toNat 0 7 < 96 then fieldOf value.toNat 0 7 else w.selCore chip
    w.updChip chip fun h => { h with
      prsel := BitVec.ofNat 64 (fieldOf value.toNat 8 6 * 256 + core), snapshot := w.countersOf (chip, core) }) st

/-- The RW bits of PRCFG. -/
def prcfgMask : DWord := 0xF00E

/-- COUNTER_CLEAR: a PRCFG write with CLR (19 R421, R424). -/
def execCounterClear (chip : Nat) (value : DWord) (st : State) : Host.Outcome State Fault Refusal :=
  liftBar chip (fun w =>
    if !bitOf value.toNat 4 then w
    else (w.updProbe chip (w.selCtx chip) fun p => { p with cfg := value &&& prcfgMask }).updCore (chip, w.selCore chip) fun c =>
      { c with counters := [], cleared := w.s.cycle }) st

/-! ## Samples (19 R426) -/

/-- Whether a context samples in the current cycle on a chip. -/
def W.sampling (w : W) (chip ctx : Nat) : Bool :=
  let n := fieldOf (w.probe chip ctx).cfg.toNat 12 4
  n != 15 && w.s.cycle != 0 && w.s.cycle % 2 ^ (n + 10) == 0

/-- A SAMPLE tick of the current cycle takes its number (19 R426). -/
def W.beginTick (w : W) (chip ctx : Nat) : W :=
  w.updProbe chip ctx fun p =>
    if p.ticks.2 == w.s.cycle then p else { p with ticks := (p.ticks.1 + 1, w.s.cycle), sampled := [] }

/-- The context of the group that a sub-datapath has issued for in the current cycle (19 R426). -/
def W.issuer (w : W) (chip core sub : Nat) : Option (Nat × Nat × Nat) :=
  let c := w.core (chip, core)
  if AList.has c.used sub then AList.get? c.issuedBy sub else none

/-- The fragment of a record where it still stands, as it is after its issue (19 R426). -/
def W.sampled (w : W) (f : FragRef) (by' : Option (Nat × Nat × Nat)) : Option (Group × Entry) :=
  match w.group f.grp with
  | none => none
  | some g =>
    if by'.any fun y => y != (g.ctx, g.block, g.gid) then none
    else (AList.get? g.entries f.entry).map fun e => (g, e)

/-- One core's record of a SAMPLE tick: tick t covers sub-datapath t mod 4. Of a fragment that its own issue has ended the spec
states no PC and no mask: they are free values (19 R426; DESIGN CHOICE, log 117). -/
def W.sample (w : W) (chip core ctx : Nat) : W :=
  if !w.sampling chip ctx || ((w.probe chip ctx).ticks.2 == w.s.cycle && (w.probe chip ctx).sampled.contains core) then w
  else
    let w1 := (w.beginTick chip ctx).updProbe chip ctx fun p => { p with sampled := p.sampled ++ [core] }
    let sub := ((w1.probe chip ctx).ticks.1 - 1) % 4
    match w1.chargeOf chip core sub with
    | (some f, leaf) =>
      let by' := w1.issuer chip core sub
      match w1.sampled f by' with
      | some (g, e) => if g.ctx = ctx then w1.trace f.grp ctx 1 f.entry 0 e.pc.toNat e.lanes.toNat leaf.index else w1
      | none =>
        if by'.any fun y => y.1 == ctx then
          let (pc, w2) := w1.draw
          let (mask, w3) := w2.draw
          w3.trace f.grp ctx 1 f.entry 0 (pc % 2 ^ 64) (mask % 2 ^ 32) leaf.index
        else w1
    | _ => w1

/-- SAMPLE_TICK (19 R426). -/
def execSampleTick (chip core ctx : Nat) (st : State) : Host.Outcome State Fault Refusal :=
  lift (fun w => w.sample chip core ctx) st

/-! ## The trigger (19 R431, R432) -/

/-- The RW bits of TRG. -/
def trgMask : DWord := 0x00FFFFFFFFFF0000

/-- TRIGGER_ARM: a TRG write with ARM; with no start source capture begins at once (19 R431). -/
def execTriggerArm (chip : Nat) (value : DWord) (st : State) : Host.Outcome State Fault Refusal :=
  liftBar chip (fun w =>
    if !bitOf value.toNat 61 then w
    else w.updProbe chip (w.selCtx chip) fun p => { p with
      trg := value &&& trgMask, trgState := if fieldOf value.toNat 52 4 = 0 then 2 else 1 }) st

/-! ## Resuming (19 R437) -/

/-- A STOPPED group is RESIDENT again; the next instruction of each of its fragments meets no comparator and no watchpoint
(08 R157; 19 R428, R430, R437). -/
def W.resumeGroup (w : W) (r : GroupRef) : W :=
  w.updGroup r fun g => { g with
    st := .resident, stopCause := none, stopping := false, readySince := some w.s.cycle
    entries := AList.mapVal g.entries fun _ e => { e with unchecked := true, wait := if e.wait = some .regroup then none else e.wait } }

/-- PRRES (19 R437). -/
def execPrres (chip : Nat) (value : DWord) (st : State) : Host.Outcome State Fault Refusal :=
  liftBar chip (fun w =>
    let v := value.toNat
    let ctx := w.selCtx chip
    let c := (w.context (pkgOf chip) ctx).st
    if !bitOf v 0 || !(c == .running || c == .bound) then w
    else
      let chosen := fun (r : GroupRef) => bitOf v 1 || (r.core == fieldOf v 19 7 && r.slot == fieldOf v 10 9)
      w.each (AList.keysWhere w.s.groups fun r g => r.chip == chip && g.ctx == ctx && g.st == .stopped && chosen r) fun w r =>
        w.resumeGroup r) st

/-! ## The core dump (19 R434 to R436; 24 R457) -/

/-- The groups of a context on a chip, ascending core and slot. -/
def W.dumpGroups (w : W) (chip ctx : Nat) : List (GroupRef × Group) :=
  (w.s.groups.filter fun g => g.1.chip == chip && g.2.ctx == ctx).mergeSort fun a b =>
    decide (a.1.core * 512 + a.1.slot ≤ b.1.core * 512 + b.1.slot)

/-- The blocks of a context that hold cores of a chip, ascending home core and `%bid`. -/
def W.dumpBlocks (w : W) (chip ctx : Nat) : List (Nat × Block) :=
  (w.s.blocks.filter fun b => b.2.chip == chip && b.2.ctx == ctx && !b.2.span.isEmpty).mergeSort fun a b =>
    decide (a.2.span.headD 0 * 2 ^ 32 + a.2.bid ≤ b.2.span.headD 0 * 2 ^ 32 + b.2.bid)

/-- The six sections of a dump (19 R435; 24 R458 to R461). -/
def W.dumpSections (w : W) (chip ctx : Nat) : List (List Byte) :=
  let gs := w.dumpGroups chip ctx
  let bs := w.dumpBlocks chip ctx
  let gsOf := fun (n : Nat) => (gs.filter fun g => g.2.block == n).map Prod.snd
  let clusters := w.s.clusters.filter fun c => c.2.chip == chip && c.2.ctx == ctx && c.2.st != .saved
  [ gs.flatMap fun g => groupIdentity g.1 g.2 (((w.block g.2.block).map Block.bid).getD 0) ++ g.2.recordBytes,
    w.m.bytes (scratchKey chip ctx 0) (w.context (pkgOf chip) ctx).scratch,
    bs.flatMap fun b => b.2.identity ++ w.m.bytes (sharedKey b.1 0) b.2.shared,
    (bs.flatMap fun b => b.2.barrierBytes b.1) ++ clusters.flatMap fun c => w.clusterBarriers c.2,
    bs.flatMap fun b => b.2.identity ++ pad128 b.2.tileBytes ++ pad128 (w.parkedBytes b.2 (gsOf b.1)),
    gs.flatMap fun g => (upTo 4).flatMap fun c => bytesOf 8 (g.2.cls c).status ]

/-- The places of the sections, each at the next multiple of 128 from an offset on (24 R457). -/
def sectionTable : Nat → List (List Byte) → List (Nat × Nat)
  | _, [] => []
  | off, s :: r => (off, s.length) :: sectionTable (ceilDiv (off + s.length) 128 * 128) r

/-- The header (19 R435): a status, a stop section, a time of the end and the bytes written. -/
def W.dumpHeader (w : W) (chip ctx : Nat) (d : Dump) (table : List (Nat × Nat)) (status stop ended written : Nat) : List Byte :=
  let g := (w.group d.grp).getD {}
  [0x57, 0x44, 0x4D, 0x50] ++ bytesOf 2 1 ++ bytesOf 1 status ++ bytesOf 1 stop ++
  bytesOf 1 ctx ++ bytesOf 1 (chip % 4) ++ bytesOf 1 d.grp.core ++ [0] ++ bytesOf 2 d.grp.slot ++ bytesOf 1 d.entry ++
  bytesOf 1 d.code ++ bytesOf 8 g.tpc.toNat ++ bytesOf 4 g.tmask.toNat ++ bytesOf 4 g.tcause.toNat ++ bytesOf 8 g.tval.toNat ++
  bytesOf 8 d.faultTime ++ bytesOf 8 (d.haltTime.getD 0) ++ bytesOf 8 ended ++ bytesOf 4 written ++ bytesOf 2 d.groups ++
  bytesOf 2 d.others ++ zeros 8 ++ table.flatMap fun x => bytesOf 4 x.1 ++ bytesOf 4 x.2

/-- The section that an offset of the image falls in, 0xFF for the header. -/
def sectionAt (table : List (Nat × Nat)) (off : Nat) : Nat :=
  ((upTo 6).filter fun i => match table[i]? with
    | some (o, n) => decide (o ≤ off ∧ 0 < n)
    | none => false).getLast?.getD 0xFF

/-- Writes what is left of the image, 128 bytes at a time, until it ends, waits for a migrating page, or meets the second
fault or the end of PRDLEN (19 R436). -/
def W.dumpRun (w : W) (chip ctx : Nat) (table : List (Nat × Nat)) : Nat → List Byte → Dump → W × Dump
  | 0, _, d => (w, d)
  | n + 1, rest, d =>
    if rest.isEmpty || d.stop.isSome then (w, d)
    else
      let p := w.probe chip ctx
      let room := p.dumpLen.toNat - d.written
      let piece := rest.take 128
      let bs := piece.take room
      let cut := decide (room < piece.length)
      match (if bs.isEmpty then (w, Put.done) else w.unitWrite chip ctx (p.dumpAt + BitVec.ofNat 64 d.written) bs) with
      | (w1, .wait) => (w1, d)
      | (w1, .bad c) => (w1, { d with stop := some (sectionAt table d.written, c) })
      | (w1, .done) =>
        let d1 := { d with written := d.written + bs.length }
        w1.dumpRun chip ctx table n (rest.drop 128) (if cut then { d1 with stop := some (sectionAt table d1.written, 0) } else d1)

/-- The end of a dump: the header is rewritten once with the final status, and event DUMPDONE (19 R434, R436; 24 R457). -/
def W.dumpEnd (w : W) (chip ctx : Nat) (d : Dump) (table : List (Nat × Nat)) : W :=
  let p := w.probe chip ctx
  let (status, stop, code) := match d.stop with
    | none => (1, 0xFF, 0)
    | some (s, c) => (2, s, c)
  let header := w.dumpHeader chip ctx d table status stop (w.time chip) d.written
  match (if p.dumpLen.toNat < 128 then (w, Put.bad 0) else w.unitWrite chip ctx p.dumpAt header) with
  | (w1, .wait) => w1
  | (w1, _) => (w1.updProbe chip ctx fun p => { p with dump := none }).event chip 0x0A ctx 0
      (bytesOf 1 (status - 1) ++ bytesOf 1 stop ++ bytesOf 1 code ++ [0] ++ bytesOf 4 d.written ++ bytesOf 2 d.groups)

/-- Whether every group of a context on a chip has halted. -/
def W.dumpHalted (w : W) (chip ctx : Nat) : Bool :=
  w.s.groups.all fun g => !(g.1.chip == chip && g.2.ctx == ctx) || g.2.st == .stopped || g.2.st == .retiring

/-- Whether the engine operations and copies of a context on a chip are done, and their batches retired (19 R434). A copy
parked on a tile stays parked. -/
def W.dumpDrained (w : W) (chip ctx : Nat) : Bool :=
  (w.s.blocks.all fun b => !(b.2.chip == chip && b.2.ctx == ctx) || (w.engineOps b.1).isEmpty) &&
  (w.s.copies.all fun c => !(c.2.chip == chip && c.2.ctx == ctx) || c.2.st == .parked) &&
  w.s.groups.all fun g => !(g.1.chip == chip && g.2.ctx == ctx) || (upTo 4).all fun c =>
    match (g.2.cls c).sealed with
    | b :: _ => !(b.2.all fun o => o.done.isSome)
    | [] => true

/-- DUMP_WRITE: once the context has halted on the chip and its operations are done, the dump is written as far as it goes now,
and ends (19 R434 to R436). A group placed since the halt is halted too. -/
def W.dumpWrite (w : W) (chip ctx : Nat) : W :=
  match (w.probe chip ctx).dump with
  | none => w
  | some d0 =>
    if !w.dumpHalted chip ctx then w.haltContext chip ctx
    else if !w.dumpDrained chip ctx then w
    else
      let d1 := { d0 with haltTime := some (d0.haltTime.getD (w.time chip)) }
      let (image, table, d2) : List Byte × List (Nat × Nat) × Dump := match d1.image with
        | some (bs, t) => (bs, t, d1)
        | none =>
          let ss := w.dumpSections chip ctx
          let t := sectionTable 128 ss
          let d := { d1 with groups := (w.dumpGroups chip ctx).length }
          let last := t.foldl (fun (m : Nat) x => max m (x.1 + x.2)) 128
          let bs := (w.dumpHeader chip ctx d t 0 0xFF 0 0 ++ (ss.flatMap pad128)).take last
          (bs, t, { d with image := some (bs, t) })
      let (w1, d3) := w.dumpRun chip ctx table (image.length / 128 + 1) (image.drop d2.written) d2
      let w2 := w1.updProbe chip ctx fun p => { p with dump := some d3 }
      if d3.stop.isSome || decide (image.length ≤ d3.written) then w2.dumpEnd chip ctx d3 table else w2

/-- DUMP_WRITE (19 R434). -/
def execDumpWrite (chip ctx : Nat) (st : State) : Host.Outcome State Fault Refusal := lift (fun w => w.dumpWrite chip ctx) st

end Sys2Proof.Machine
end

