-- ==== Sys2Proof/Machine/Trust.lean ====
section
/-! DEFINITION. Trust, monitors and power: power-on and off, boot stages, fuses, attestation, the audit log's reader, sensors,
the clock, droop and the idle state (20 R440 to R450), and the event ring's room (05 R122). -/
namespace Sys2Proof.Machine

/-! ## Power (20 R440, R449, R450) -/

/-- Whether a package is powered. -/
def W.powered (w : W) (pkg : Nat) : Bool := !w.s.off.contains pkg

/-- Whether a cell belongs to a package: HBM, a scratchpad carve-out, a coefficient store, an audit ring. A host's memory keeps
its bytes. -/
def packageCell (pkg a : Nat) : Bool :=
  decide (a < 2 ^ 60 ∧ a / 2 ^ 52 = pkg) ||
  decide (2 ^ 61 ≤ a ∧ a < 2 ^ 62 ∧ (a - 2 ^ 61) / 2 ^ 38 = pkg) ||
  decide (2 ^ 140 ≤ a ∧ a < 2 ^ 150 ∧ (a - 2 ^ 140) / (4 * 96 * 4 * 262144) = pkg) ||
  decide (2 ^ 150 ≤ a ∧ (a - 2 ^ 150) / 2 ^ 24 = pkg)

/-- A package with nothing of what it held: every object of its chips goes back to its power-on state. Fuses stay (20 R440 to
R442, R450); HBM is as at the first power-on (DESIGN CHOICE, log 1). -/
def W.wipe (w : W) (pkg : Nat) : W :=
  let w1 := w.each ((w.s.blocks.filter fun b => pkgOf b.2.chip == pkg).map Prod.fst) fun w n => w.clearBlockCells n
  let mine := fun (chip : Nat) => pkgOf chip == pkg
  let cell := packageCell pkg
  let line := fun (l : Nat) => cell (l * 128)
  let s := w1.s
  let s1 : Sys := { s with
    chips := s.chips.filter fun c => !mine c.1
    cores := s.cores.filter fun c => !mine c.1.1
    contexts := s.contexts.filter fun c => c.1.1 != pkg
    groups := s.groups.filter fun g => !mine g.1.chip
    blocks := s.blocks.filter fun b => !mine b.2.chip
    clusters := s.clusters.filter fun c => !mine c.2.chip
    launches := s.launches.filter fun l => !mine l.2.chip
    spillStacks := s.spillStacks.filter fun x => !mine x.1.1
    copies := s.copies.filter fun c => !mine c.2.chip
    units := s.units.filter fun u => !mine u.2.grp.chip
    waiting := s.waiting.filter fun h => !line h.line
    horizon := s.horizon.filter fun h => !line h.1
    awaited := s.awaited.filter fun l => !line l
    directory := s.directory.filter fun c => !(line c.line || mine c.writer)
    poison := s.poison.filter fun a => !cell a }
  let s2 : Sys := { s1 with
    windows := s.windows.filter fun x => !cell x.1
    tlb := s.tlb.filter fun t => !mine t.chip
    apertures := s.apertures.filter fun x => !mine x.1.1
    walks := s.walks.filter fun k => !mine k.chip
    owners := s.owners.filter fun o => !cell (o.1 * 65536)
    packets := s.packets.filter fun p => !mine p.1.1
    messages := s.messages.filter fun m => !mine m.1.1
    links := s.links.filter fun l => l.1.1 != pkg
    transports := s.transports.filter fun t => !mine t.1.1 }
  { m := w1.m.clear cell, s := s2 }

/-- POWER_ON: the management processors of a package that was off run their ROM; measurements and chain heads are zero, and the
time base starts (20 R440, R441, R445; 19 R439). -/
def execPowerOn (pkg : Nat) (st : State) : Host.Outcome State Fault Refusal :=
  lift (fun w =>
    if w.powered pkg then w
    else
      let w1 := w.wipe pkg
      let w2 : W := { w1 with s := { w1.s with off := w1.s.off.filter (· != pkg), epoch := AList.put w1.s.epoch pkg w1.s.now } }
      w2.each (chipsOf pkg) fun w c => w.updChip c fun h => { h with cycleBase := w.s.cycle, stepAt := (w.s.now, w.s.cycle) }) st

/-- POWER_OFF: every state of the package ends (20 R449, R450). -/
def execPowerOff (pkg : Nat) (st : State) : Host.Outcome State Fault Refusal :=
  lift (fun w =>
    if !w.powered pkg then w
    else
      let w1 := w.wipe pkg
      { w1 with s := { w1.s with off := w1.s.off ++ [pkg] } }) st

/-- IDLE_TIMER: no group resident on a READY chip for 100 µs (20 R450). -/
def execIdleTimer (chip : Nat) (st : State) : Host.Outcome State Fault Refusal :=
  lift (fun w =>
    let h := w.chip chip
    let due := match h.idleSince with
      | some t => decide (t + 100000 ≤ w.s.now)
      | none => false
    if h.power != .ready || !due || w.s.groups.any fun g => g.1.chip == chip then w
    else w.updChip chip fun h => { h with power := .idle }) st

/-! ## Boot, measurement and fuses (20 R440 to R443) -/

/-- A measurement register of a chip (20 R441). -/
def Chip.measure (h : Chip) (i : Nat) : List Byte := AList.getD h.measures i zero32
/-- The extend of a measurement register (20 R441). -/
def Chip.extend (h : Chip) (i : Nat) (d : List Byte) : Chip :=
  { h with measures := AList.put h.measures i (sha256 (h.measure i ++ d)) }

/-- The fuses of a chip: revoked key slots, and the version fuses. -/
def W.fuse (w : W) (chip : Nat) : BitVec 4 × BitVec 32 := AList.getD w.s.fuses chip (0, 0)
/-- The fused minimum version: one fuse a version (DESIGN CHOICE, log 35). -/
def W.minVersion (w : W) (chip : Nat) : Nat := popOf 32 (w.fuse chip).2.toNat

/-- Whether a stage image is accepted (20 R442). -/
def W.accepts (w : W) (chip : Nat) (x : StageImage) : Bool :=
  decide (x.slot < 4) && !((w.fuse chip).1.getLsbD x.slot) && decide (w.minVersion chip ≤ x.version) &&
  x.key.length == 64 && x.signature.length == 29792 &&
  sha256 x.key == Config.keyHash chip x.slot && Config.verifies x.key x.bytes x.signature

/-- BOOT_STAGE: the next stage's image is measured, then verified: it runs, or the chip is in RECOVERY; with stage 3 the chip is
READY (20 R440 to R443, R450). A refused image has been measured too (DEDUCED, log 36). -/
def execBootStage (chip : Nat) (image : StageImage) (st : State) : Host.Outcome State Fault Refusal :=
  lift (fun w =>
    let h := w.chip chip
    if !w.powered (pkgOf chip) || h.power != .boot || image.stage != h.stages + 1 || decide (3 < image.stage) || w.auditFull chip then w
    else
      let d := sha256 image.bytes
      let w1 := w.updChip chip fun h => h.extend h.stages d
      if !w.accepts chip image then w1.updChip chip fun h => { h with power := .recovery }
      else
        (w1.updChip chip fun h => { h with
          stages := h.stages + 1, power := if h.stages + 1 = 3 then .ready else h.power }).audit chip 1 0xFF d) st

/-- Whether stage 1 runs on a chip's management processor. -/
def W.firmware (w : W) (chip : Nat) : Bool := w.powered (pkgOf chip) && decide (1 ≤ (w.chip chip).stages)

/-- Stage 1 extends one of M4 to M7 with a digest of 32 bytes (20 R441). -/
def W.stageExtend (w : W) (chip register : Nat) (digest : List Byte) : W :=
  if w.firmware chip && decide (4 ≤ register) && decide (register < 8) && digest.length == 32 then
    w.updChip chip fun h => h.extend register digest
  else w

/-- FUSE_WRITE: stage 1 blows fuses on a signed command, only from 0 to 1 (20 R442, R445). The bytes of the command in its audit
record are free. -/
def execFuseWrite (chip : Nat) (command : FuseCommand) (st : State) : Host.Outcome State Fault Refusal :=
  lift (fun w =>
    let message := bytesOf 1 command.revoke.toNat ++ bytesOf 4 command.version.toNat
    if !w.firmware chip || !Config.commandSigned chip message command.signature || w.auditFull chip then w
    else
      let (a, b) := w.fuse chip
      let w1 : W := { w with s := { w.s with fuses := AList.put w.s.fuses chip (a ||| command.revoke, b ||| command.version) } }
      let (w2, payload) := w1.freeBytes 32
      w2.audit chip 6 0xFF payload) st

/-! ## Attestation (20 R444) -/

/-- Whether CLD 0 of a package answers SPDM: its firmware runs, the chip is not in RECOVERY, and the host link carries the
mailbox (20 R443, R444). -/
def W.spdmReady (w : W) (pkg : Nat) : Bool :=
  w.firmware (4 * pkg) && (w.chip (4 * pkg)).power != .recovery && w.hostUp pkg

/-- An answer's header: version, response code and two parameters (PRESUMED from the DMTF's own specification, log 37). -/
def spdmHeader (version code p1 p2 : Nat) : List Byte := bytesOf 1 version ++ bytesOf 1 code ++ bytesOf 1 p1 ++ bytesOf 1 p2
/-- Whether a version is supported: 1.2 or 1.3, as a byte (20 R444). -/
def spdmVersion (v : Nat) : Bool := v == 0x12 || v == 0x13

/-- Answers a request in a version: an error answer for one that is not supported. -/
def W.spdm (w : W) (pkg version : Nat) (answer : W → W × List Byte) : W :=
  if !w.spdmReady pkg then w
  else if !spdmVersion version then w.out (.spdm pkg (spdmHeader 0x12 0x7F 0x41 0))
  else
    let (w1, bs) := answer w
    w1.out (.spdm pkg bs)

/-- GET_VERSION: the versions 1.2 and 1.3 (20 R444). -/
def execGetVersion (pkg : Nat) (st : State) : Host.Outcome State Fault Refusal :=
  lift (fun w => if !w.spdmReady pkg then w
    else w.out (.spdm pkg (spdmHeader 0x10 0x04 0 0 ++ [0, 2, 0x00, 0x12, 0x00, 0x13]))) st

/-- GET_CAPABILITIES: the capability fields are free (20 R444). -/
def execGetCapabilities (pkg version : Nat) (st : State) : Host.Outcome State Fault Refusal :=
  lift (fun w => w.spdm pkg version fun w =>
    let (w1, bs) := w.freeBytes 16
    (w1, spdmHeader version 0x61 0 0 ++ bs)) st

/-- NEGOTIATE_ALGORITHMS: ECDSA over P-384 for signatures and SHA-256 for measurements; the other fields are free (20 R444). -/
def execNegotiateAlgorithms (pkg version : Nat) (st : State) : Host.Outcome State Fault Refusal :=
  lift (fun w => w.spdm pkg version fun w =>
    let (w1, rest) := w.freeBytes 20
    (w1, spdmHeader version 0x63 0 0 ++ bytesOf 4 36 ++ bytesOf 4 0x02 ++ bytesOf 4 0x80 ++ rest)) st

/-- GET_DIGESTS: the digest of the certificate chain (20 R444). -/
def execGetDigests (pkg version : Nat) (st : State) : Host.Outcome State Fault Refusal :=
  lift (fun w => w.spdm pkg version fun w => (w, spdmHeader version 0x01 0 1 ++ sha256 (Config.certificates pkg))) st

/-- GET_CERTIFICATE: a portion of the certificate chain, which ends in the device identity key (20 R444). -/
def execGetCertificate (pkg version offset len : Nat) (st : State) : Host.Outcome State Fault Refusal :=
  lift (fun w => w.spdm pkg version fun w =>
    let chain := Config.certificates pkg
    let part := (chain.drop offset).take len
    (w, spdmHeader version 0x02 0 0 ++ bytesOf 2 part.length ++ bytesOf 2 (chain.length - offset - part.length) ++ part)) st

/-- CHALLENGE: a signature with the device identity key over the nonce and the chain's digest (20 R444). -/
def execChallenge (pkg version : Nat) (nonce : List Byte) (st : State) : Host.Outcome State Fault Refusal :=
  lift (fun w => w.spdm pkg version fun w =>
    let digest := sha256 (Config.certificates pkg)
    (w, spdmHeader version 0x03 0 1 ++ digest ++ Config.signature pkg (nonce ++ digest))) st

/-- The value of a measurement index: 8c + i + 1 is Mi of chip c (20 R444). -/
def W.measurement (w : W) (pkg index : Nat) : List Byte := (w.chip (4 * pkg + (index - 1) / 8)).measure ((index - 1) % 8)

/-- GET_MEASUREMENTS: index 0 asks how many there are, 1 to 32 for one, 255 for all; with a nonce the answer is signed
(20 R444; the counting and the all form PRESUMED, log 37). -/
def execGetMeasurements (pkg version index : Nat) (nonce : List Byte) (st : State) : Host.Outcome State Fault Refusal :=
  lift (fun w => w.spdm pkg version fun w =>
    let asked : List Nat := if index = 255 then (upTo 32).map (· + 1) else if 1 ≤ index ∧ index ≤ 32 then [index] else []
    if index ≠ 0 ∧ asked.isEmpty then (w, spdmHeader version 0x7F 0x01 0)
    else
      let body := spdmHeader version 0x60 (if index = 0 then 32 else 0) 0 ++
        asked.flatMap fun i => bytesOf 1 i ++ w.measurement pkg i
      (w, body ++ (if nonce.isEmpty then [] else Config.signature pkg (nonce ++ body)))) st

/-! ## The audit log (20 R445 to R447) -/

/-- FIRMWARE_RECORD: stage 1 submits a record, which is appended after the cycle's records of hardware; with the ring full the
submission stalls (20 R445, R447). -/
def execFirmwareRecord (chip ctx : Nat) (payload : List Byte) (st : State) : Host.Outcome State Fault Refusal :=
  lift (fun w =>
    if !w.firmware chip || w.auditFull chip || !(ctx == 0xFF || decide (ctx < 64)) then w
    else w.updChip chip fun h => { h with submitted := h.submitted ++ [(ctx, payload)] }) st

/-- AUDIT_CONSUME: a write of AUDCTL.RD; one beyond WR is ignored (20 R446, R447). -/
def execAuditConsume (chip : Nat) (value : DWord) (st : State) : Host.Outcome State Fault Refusal :=
  liftBar chip (fun w =>
    let h := w.chip chip
    let rd : BitVec 32 := value.setWidth 32
    if w.auditFill chip < (rd - h.consumed).toNat then w
    else w.updChip chip fun h => { h with consumed := rd }) st

/-! ## Monitors (20 R448, R449) -/

/-- A THERMAL event: its level, a sensor and the reading; which sensor is highest is not known. -/
def W.thermal (w : W) (chip level : Nat) : W :=
  let (n, w1) := w.draw
  w1.event chip 0x07 0xFF 0 (bytesOf 1 level ++ bytesOf 1 (n % 49) ++ bytesOf 1 (w1.chip chip).temp)

/-- The range of a temperature: 0 below 90 °C, 2 above 95 °C, 1 between (20 R448). -/
def heatRange (temp : Nat) : Nat := if 95 < temp then 2 else if temp < 90 then 0 else 1

/-- SENSOR_READ: the highest sensor and the ring-oscillator count; above 110 °C a READY or IDLE chip is SAFE (20 R448 to
R450). -/
def execSensorRead (chip temp ring : Nat) (st : State) : Host.Outcome State Fault Refusal :=
  lift (fun w =>
    if !w.powered (pkgOf chip) then w
    else
      let w1 := w.updChip chip fun h => { h with
        temp := min temp 255, ring := min ring 255
        rangeAt := if heatRange temp = heatRange h.temp then h.rangeAt else w.s.now }
      let p := (w1.chip chip).power
      if 110 < temp ∧ (p = .ready ∨ p = .idle) then (w1.updChip chip fun h => { h with power := .safe }).thermal chip 3 else w1) st

/-- CLOCK_STEP: every 1 ms the clock is lowered a step where the chip has been above 95 °C for a millisecond, and after a
millisecond with more than 1 % of its cycles stretched; it is raised a step where the chip has been below 90 °C for a
millisecond and neither holds (20 R448, R450; DEDUCED, log 95). -/
def execClockStep (chip : Nat) (st : State) : Host.Outcome State Fault Refusal :=
  lift (fun w =>
    let h := w.chip chip
    if !w.powered (pkgOf chip) || h.power == .safe || decide (w.s.now < h.stepAt.1 + 1000000) then w
    else
      let cycles := w.s.cycle - h.stepAt.2
      let lasting := decide (h.rangeAt + 1000000 ≤ w.s.now)
      let hot := lasting && decide (95 < h.temp)
      let droopy := decide (cycles < 100 * h.stretched.1)
      let lower := fun (w : W) => w.updChip chip fun h => { h with mhz := max 500 (h.mhz - 100) }
      let w1 := w.updChip chip fun h => { h with stepAt := (w.s.now, w.s.cycle), stretched := (0, 0) }
      let w2 := if hot && decide (500 < h.mhz) then (lower w1).thermal chip 1 else w1
      let w3 := if droopy && decide (500 < (w2.chip chip).mhz) then
          let (n, w') := w2.draw
          (lower w').event chip 0x08 0xFF 0 (bytesOf 1 n ++ bytesOf 1 h.stretched.2)
        else w2
      if hot || droopy || !lasting || decide (90 ≤ h.temp) || decide (1000 ≤ h.mhz) then w3
      else
        let w4 := w3.updChip chip fun h => { h with mhz := min 1000 (h.mhz + 100) }
        if (w4.chip chip).mhz = 1000 then w4.thermal chip 0 else w4) st

/-- DROOP: beyond 8 % for 4 cycles the clock is stretched (20 R448). -/
def execDroop (chip hwcl percent cycles : Nat) (st : State) : Host.Outcome State Fault Refusal :=
  lift (fun w =>
    if percent ≤ 8 ∨ cycles < 4 ∨ 24 ≤ hwcl then w
    else w.updChip chip fun h => { h with
      droop := if h.droop.contains hwcl then h.droop else h.droop ++ [hwcl]
      stretched := (h.stretched.1, max h.stretched.2 percent) }) st

/-- DROOP_END (20 R448). -/
def execDroopEnd (chip hwcl : Nat) (st : State) : Host.Outcome State Fault Refusal :=
  lift (fun w => w.updChip chip fun h => { h with droop := h.droop.filter (· != hwcl) }) st

/-! ## The event ring (05 R122, R467) -/

/-- Writes held records in order while there is room. -/
def W.drainEvents (w : W) (chip : Nat) : W :=
  let h := w.chip chip
  let n := min h.eventRoom h.eventHeld.length
  (w.updChip chip fun h => { h with eventRoom := h.eventRoom - n, eventHeld := h.eventHeld.drop n }).each (h.eventHeld.take n)
    fun w bs => w.out (.event chip bs)

/-- EVENT_SPACE_FREED: the host has consumed records (05 R122, R467). -/
def execEventSpaceFreed (chip records : Nat) (st : State) : Host.Outcome State Fault Refusal :=
  lift (fun w => (w.updChip chip fun h => { h with eventRoom := min 256 (h.eventRoom + records) }).drainEvents chip) st

end Sys2Proof.Machine
end

