-- ==== Sys2Proof/Machine/Registers.lean ====
section
/-! DEFINITION. The registers of BAR0 as system software reads and writes them: the queue windows, the CLD register blocks and
their access codes (00 R4; 06 R124; 14 R318; 15 R345; 17 R407; 18 R412 to R415, R420; 19 R421; 20 R446, R450). -/
namespace Sys2Proof.Machine

/-! ## Values -/

/-- ST of PWRSTAT (20 R450). -/
def PowerState.code : PowerState → Nat
  | .boot => 0
  | .ready => 1
  | .idle => 2
  | .recovery => 3
  | .safe => 4

/-- A queue block's register at an offset (06 R124). -/
def Queue.read (q : Queue) (off : Nat) : Nat :=
  if off = 0x00 then q.cfg.toNat
  else if off = 0x08 then q.tail.toNat
  else if off = 0x10 then q.head.toNat
  else if off = 0x18 then
    (if q.en then 1 else 0) + (if q.stop then 2 else 0) + (if q.hd then 4 else 0) + q.code * 2 ^ 8
  else if off = 0x20 then q.misc.toNat
  else if off = 0x28 then q.note.toNat
  else 0

/-- LKSTAT of a link (18 R420). -/
def W.lkstat (w : W) (pkg n : Nat) : Nat :=
  let l := w.link pkg n
  l.st.code + l.reason * 2 ^ 8 + l.rate % 256 * 2 ^ 16 + l.width % 512 * 2 ^ 24 +
    (if isPort n then w.busiest pkg n % 128 else 0) * 2 ^ 33 + l.ver % 256 * 2 ^ 40 + l.replay % 65536 * 2 ^ 48

/-- PWRSTAT of a chip (20 R450). -/
def Chip.pwrstat (h : Chip) : Nat :=
  h.power.code + h.ring % 256 * 2 ^ 8 + h.mhz % 4096 * 2 ^ 20 + h.temp % 256 * 2 ^ 32

/-- A probe register of a chip at an offset from 0x1800 (19 R421). -/
def W.probeRead (w : W) (chip off : Nat) : Nat :=
  let h := w.chip chip
  let p := w.probe chip (w.selCtx chip)
  let c := w.core (chip, w.selCore chip)
  let cmp := fun (i : Nat) => AList.getD c.comparators i {}
  let wat := fun (i : Nat) => AList.getD p.watch i {}
  if off = 0x1800 then h.prsel.toNat
  else if off = 0x1808 then p.cfg.toNat
  else if off = 0x1810 then p.tbase.toNat
  else if off = 0x1818 then p.thead.toNat
  else if off = 0x1820 then p.tread.toNat
  else if off = 0x1828 then p.dumpAt.toNat
  else if off = 0x1830 then p.dumpLen.toNat
  else if off = 0x1838 then p.trg.toNat + p.trgState * 2 ^ 62
  else if 0x1840 ≤ off ∧ off < 0x1880 then (cmp ((off - 0x1840) / 8)).addr.toNat
  else if 0x1880 ≤ off ∧ off < 0x18C0 then (cmp ((off - 0x1880) / 8)).mode.toNat
  else if 0x18C0 ≤ off ∧ off < 0x1900 then (cmp ((off - 0x18C0) / 8)).value.toNat
  else if 0x1900 ≤ off ∧ off < 0x1920 then (wat ((off - 0x1900) / 8)).addr.toNat
  else if 0x1920 ≤ off ∧ off < 0x1940 then (wat ((off - 0x1920) / 8)).mode.toNat
  else if 0x1A00 ≤ off ∧ off < 0x1A90 then AList.getD h.snapshot ((off - 0x1A00) / 8) 0
  else 0

/-- A register of a chip's CLD block at an offset (18 R413). The audit window shows one record (DESIGN CHOICE, log 38). -/
def W.blockRead (w : W) (chip off : Nat) : Nat :=
  let h := w.chip chip
  if off = 0x0000 then h.leaseL1.toNat
  else if off = 0x0008 then h.leaseLLC.toNat
  else if off = 0x0100 then h.seat.cfg.toNat + h.seat.st.code * 2
  else if off = 0x0108 then h.seat.base.toNat
  else if off = 0x0200 then h.xinv.toNat + (if h.inval.isSome then 2 else 0)
  else if off = 0x0300 then h.fabcfg.toNat
  else if 0x0320 ≤ off ∧ off < 0x0340 then (AList.getD h.mac ((off - 0x0320) / 8) 0).toNat
  else if off = 0x0400 then h.consumed.toNat + h.appended % 2 ^ 32 * 2 ^ 32
  else if off = 0x0410 then h.pwrstat
  else if 0x0440 ≤ off ∧ off < 0x0460 then ofBytes ((h.head.drop (off - 0x0440)).take 8)
  else if 0x0800 ≤ off ∧ off < 0x0840 then
    ofBytes (w.m.bytes (auditKey chip (h.consumed.toNat % 65536 * 64 + (off - 0x0800))) 8)
  else if 0x1000 ≤ off ∧ off < 0x1800 then
    if off % 16 = 0 ∧ linkNamed ((off - 0x1000) / 16) then w.lkstat (pkgOf chip) ((off - 0x1000) / 16) else 0
  else if 0x1800 ≤ off then w.probeRead chip off
  else 0

/-- The register at an offset of a chip's part of BAR0 (18 R412). -/
def W.registerAt (w : W) (chip off : Nat) : Nat :=
  if off % 8 ≠ 0 then 0
  else if off < 0x4000 then (w.queue chip (off / 0x40)).read (off % 0x40)
  else if 0x100000 ≤ off ∧ off < 0x102000 then w.blockRead chip (off - 0x100000)
  else 0

/-- The link whose LKSTAT stands at an offset of a chip's part of BAR0. -/
def lkstatAt (off : Nat) : Option Nat :=
  if 0x101000 ≤ off ∧ off < 0x101800 ∧ off % 16 = 0 ∧ linkNamed ((off - 0x101000) / 16) then some ((off - 0x101000) / 16) else none

/-- REGISTER_READ: the value of the register; LKSTAT.REPLAY clears in the same access (00 R4; 18 R420). -/
def execRegisterRead (chip offset : Nat) (st : State) : Host.Outcome State Fault Refusal :=
  liftBar chip (fun w =>
    if !w.powered (pkgOf chip) then w
    else
      let w1 := w.out (.register chip offset (BitVec.ofNat 64 (w.registerAt chip offset)))
      match lkstatAt offset with
      | some n => w1.updLink (pkgOf chip) n fun l => { l with replay := 0 }
      | none => w1) st

/-! ## Writes of registers with no behaviour of their own -/

/-- A write of QMISC or QNOTE of a disabled queue (06 R124). -/
def Queue.write (q : Queue) (off : Nat) (v : DWord) : Queue :=
  if q.en then q
  else if off = 0x20 then
    let wgt := if v &&& 0xF = 0 then q.misc &&& 0xF else v &&& 0xF
    { q with misc := (v &&& 0x7FF7FF00) ||| wgt }
  else if off = 0x28 then { q with note := v &&& 0x00FFFFFFFFFFF03D }
  else q

/-- FABCFG: PATHS takes 1 to 64; with ETYPE 0 every path of the chip is dead, and paths beyond PATHS go (18 R415, R416). -/
def W.writeFabcfg (w : W) (chip : Nat) (v : DWord) : W :=
  let n := fieldOf v.toNat 0 7
  let paths := if 1 ≤ n ∧ n ≤ 64 then n else w.maxPaths chip
  let etype := fieldOf v.toNat 16 16
  let w1 := w.updChip chip fun h => { h with fabcfg := BitVec.ofNat 64 (paths + fieldOf v.toNat 14 2 * 2 ^ 14 + etype * 2 ^ 16) }
  let cut := fun (k : Nat × Nat) (t : Transport) =>
    if k.1 = chip then { t with paths := (t.paths.take paths).map fun p => (if etype = 0 then { p with live := false } else p) } else t
  let w2 : W := { w1 with s := { w1.s with transports := AList.mapVal w1.s.transports cut } }
  w2.each ((upTo 16).map (· + 0x30)) fun w n => w.followPaths (pkgOf chip) n

/-- A write of a probe register that neither clears nor arms (19 R421, R427, R429, R431). -/
def W.probeWrite (w : W) (chip off : Nat) (v : DWord) : W :=
  let onCtx := fun (f : ProbeCtx → ProbeCtx) => w.updProbe chip (w.selCtx chip) f
  let onCmp := fun (i : Nat) (f : Comparator → Comparator) => w.updCore (chip, w.selCore chip) fun c =>
    { c with comparators := AList.put c.comparators i (f (AList.getD c.comparators i {})) }
  let onWatch := fun (i : Nat) (f : Watchpoint → Watchpoint) => onCtx fun p =>
    { p with watch := AList.put p.watch i (f (AList.getD p.watch i {})) }
  if off = 0x1808 then (if bitOf v.toNat 4 then w else onCtx fun p => { p with cfg := v &&& prcfgMask })
  else if off = 0x1810 then onCtx fun p => { p with tbase := v &&& 0x000FFFFFFFFFF00F }
  else if off = 0x1820 then onCtx fun p => { p with tread := v.setWidth 32 }
  else if off = 0x1828 then onCtx fun p => { p with dumpAt := v &&& 0x00FFFFFFFFFFFF80 }
  else if off = 0x1830 then onCtx fun p => { p with dumpLen := v &&& 0xFFFFFFFF }
  else if off = 0x1838 then (if bitOf v.toNat 61 then w else onCtx fun p => { p with trg := v &&& trgMask })
  else if 0x1840 ≤ off ∧ off < 0x1880 then onCmp ((off - 0x1840) / 8) fun c => { c with addr := v &&& 0x00FFFFFFFFFFFFFC }
  else if 0x1880 ≤ off ∧ off < 0x18C0 then onCmp ((off - 0x1880) / 8) fun c => { c with mode := v &&& 0xFFFFBF }
  else if 0x18C0 ≤ off ∧ off < 0x1900 then onCmp ((off - 0x18C0) / 8) fun c => { c with value := v }
  else if 0x1900 ≤ off ∧ off < 0x1920 then onWatch ((off - 0x1900) / 8) fun c => { c with addr := v }
  else if 0x1920 ≤ off ∧ off < 0x1940 then onWatch ((off - 0x1920) / 8) fun c => { c with mode := v &&& 0xF81F }
  else w

/-- A write of a register of a chip's CLD block that has no behaviour of its own (18 R413). -/
def W.blockWrite (w : W) (chip off : Nat) (v : DWord) : W :=
  if off = 0x0000 then w.updChip chip fun h => { h with leaseL1 := v.setWidth 16 }
  else if off = 0x0008 then w.updChip chip fun h => { h with leaseLLC := v.setWidth 16 }
  else if off = 0x0108 then
    (if bitOf (w.seat chip).cfg.toNat 0 then w else w.updSeat chip fun t => { t with base := v &&& 0x000FFFFFC0000000 })
  else if off = 0x0200 then
    (if bitOf v.toNat 0 && xinvScope v != 3 then w else w.updChip chip fun h => { h with xinv := v &&& xinvMask })
  else if off = 0x0300 then w.writeFabcfg chip v
  else if 0x0320 ≤ off ∧ off < 0x0340 then w.updChip chip fun h =>
    { h with mac := AList.put h.mac ((off - 0x0320) / 8) (v &&& 0x0000FFFFFFFFFFFF) }
  else if 0x1800 ≤ off then w.probeWrite chip off v
  else w

/-- REGISTER_WRITE: a register with no behaviour of its own takes its RW fields. A write that starts something is its own row:
queues, seats, XINV.GO, AUDCTL, LKCTL, PRSEL, PRCFG.CLR, TRG.ARM and PRRES (00 R4). -/
def execRegisterWrite (chip offset : Nat) (value : DWord) (st : State) : Host.Outcome State Fault Refusal :=
  liftBar chip (fun w =>
    if !w.powered (pkgOf chip) || offset % 8 != 0 then w
    else if offset < 0x4000 then w.updQueue chip (offset / 0x40) fun q => q.write (offset % 0x40) value
    else if 0x100000 ≤ offset ∧ offset < 0x102000 then w.blockWrite chip (offset - 0x100000) value
    else w) st

end Sys2Proof.Machine
end

