-- ==== Sys2Proof/Machine/Fetch.lean ====
section
/-! DEFINITION. Which fragment a sub-datapath issues from, and the bytes of its next instruction (08 R158, R162; 17 R396;
03 R54). -/
namespace Sys2Proof.Machine

/-- The fragment of a reference with its group. -/
def W.at' (w : W) (f : FragRef) : Option At :=
  match w.group f.grp with
  | none => none
  | some g => (AList.get? g.entries f.entry).map fun e => { r := f.grp, ei := f.entry, g := g, e := e }

/-! ## Fetch (03 R54; 17 R396) -/

/-- What a fetch gives. -/
inductive Fetched
  | bytes (bs : List Byte)
  | flt (f : Flt)
  /-- It waits for the walk of a page (17 R405). -/
  | walk (page : Nat)
  /-- It waits for a link (18 R417). -/
  | held
  /-- Its frame does not exist. -/
  | gone

/-- The 4 bytes at a fragment's pc, or why there are none (14 R303; 17 R396, R402; 18 R417). A byte with an uncorrectable error
raises POISON at the instruction (DESIGN CHOICE, log 39). -/
def W.fetch (w : W) (a : At) : Fetched :=
  let pc := a.e.pc
  let flt := fun (code detail : Nat) => Fetched.flt { code := code, detail := detail, tval := some pc }
  if fieldOf pc.toNat 56 8 ≠ 0 then flt fcWINDOW 1
  else match w.groupLookup a pc.toNat with
    | none => .walk (pc.toNat / 65536)
    | some .migrating => .walk (pc.toNat / 65536)
    | some (.nomap c) => flt fcNOMAP (c * 32)
    | some (.leaf e bits ap) =>
      match w.checkLeaf a.r.chip a.g.ctx .fetch false 0 4 pc e bits ap with
      | .flt f => .flt f
      | .walk p => .walk p
      | .gone => .gone
      | .ok acc =>
        match w.reach a.r.chip acc.path with
        | .fenced => flt fcPOISON 0xC0
        | .held => .held
        | .live => if w.accPoisoned acc then flt fcPOISON 0x80 else .bytes (bytesOf 4 (w.loadValue a.r acc))

/-- A fetch that gives no bytes: its fault is raised at the instruction, or the slot is lost to the frontend (17 R396, R405;
19 R422). -/
def W.fetchFailed (w : W) (a : At) : Fetched → W
  | .flt f => (w.useWalks a [(0, 4, a.e.pc)]).raise a.r
      { code := f.code, detail := f.detail, tval := f.tval, tpc := a.e.pc, entry := a.ei }
  | .walk p => (w.joinWalk a.r a.g.ctx p).stalled a.r a.ei .memTranslation
  | .held => w.stalled a.r a.ei .memTranslation
  | .gone => w.noFrame
  | .bytes _ => w

/-- Whether the fragment's pending restore is due before its next issue (03 R78). -/
def Entry.restoreDue (e : Entry) : Bool :=
  match e.pending with
  | some p => p.count == 0
  | none => false

end Sys2Proof.Machine
end

