-- ==== Sys2Proof/Machine/Clock.lean ====
section
/-! DEFINITION. The passing of time: the end of a cycle, and the moments the model gives the units that run beside issue when
nothing else says what acts next (00 R8; 08 R159 to R161; 14 R313; 19 R422 to R426). -/
namespace Sys2Proof.Machine

/-! ## The end of a cycle -/

/-- The cores that hold a group or have been used. -/
def W.coresInUse (w : W) : List (Nat × Nat) :=
  ((w.s.cores.map Prod.fst) ++ w.s.groups.map fun g => coreKey g.1).eraseDups

/-- The SAMPLE records of the cycle (19 R426). -/
def W.sampleAll (w : W) : W :=
  w.each w.s.chips fun w c => w.each (c.2.probe.map Prod.fst) fun w ctx =>
    if w.sampling c.1 ctx then
      (w.beginTick c.1 ctx).each ((w.coresInUse.filter fun k => k.1 == c.1).map Prod.snd) fun w core => w.sample c.1 core ctx
    else w

/-- Stores that must perform before a time do, each as soon as it can, whatever stands before it (14 R313). -/
def W.dueStores (w : W) (time : Nat) : W :=
  let due := w.s.groups.flatMap fun g =>
    (g.2.ops.filter fun o => !o.isV && decide (o.issued + 4000 ≤ time)).map fun o => (g.1, o.id)
  w.each due fun w x => (w.performOp x.1 x.2).2

/-- The updates that stand in racks apply as far as they can (15 R351, R352). -/
def W.drainRacks (w : W) : W :=
  w.each ((w.s.chips.filter fun c => !c.2.seat.rack.isEmpty).map Prod.fst) fun w c => w.drainRack c

/-- Walks that found MIG = 1 are made again 1 µs later at the latest (17 R403). -/
def W.rewalks (w : W) : W :=
  w.each (w.s.walks.filter fun k => k.mig.any fun t => decide (t + 1000 ≤ w.s.now)) fun w k => w.completeWalk { k with mig := none }

/-- What the end of a cycle tells of a chip: how long it has been without groups, and a stretched cycle (20 R448, R450). -/
def W.ageChip (w : W) (chip : Nat) (h : Chip) : Chip :=
  { h with
    idleSince := if w.s.groups.any fun g => g.1.chip == chip then none else some (h.idleSince.getD w.s.now)
    stretched := if h.droop.isEmpty then h.stretched else (h.stretched.1 + 1, h.stretched.2) }

/-- A cycle ends: members depart from barriers, overdue stores perform, racks drain, walks are made again, operations whose
links are back go on, every slot is charged, samples and trace records are written, firmware's audit records are appended, waits
are counted, and the time base advances (10 R227; 14 R313; 19 R422 to R426; 20 R445; 08 R159, R160). -/
def W.tick (w : W) (ns : Nat) : W :=
  let w0 := w.each (w.s.chips.map Prod.fst) W.departures
  let w1 := ((w0.dueStores (w.s.now + ns)).drainRacks.rewalks.lookAgain.lookLaunches.reportLosses).sampleAll
  let w2 := w1.each w1.coresInUse fun w k => w.chargeCore k
  let w3 := w2.each w2.s.chips fun w c => w.each (c.2.probe.map Prod.fst) fun w ctx =>
    let w' := w.endTraceCycle c.1 ctx
    w'.ringFlush c.1 ctx (w'.probe c.1 ctx).queued.length
  let w3 := w3.veil.firmwareRecords
  { w3 with s := { w3.s with
      groups := AList.mapVal w3.s.groups fun r g => w3.ageGroup r g
      launches := AList.mapVal w3.s.launches fun _ l => w3.ageLaunch l
      chips := AList.mapVal w3.s.chips fun c h => w3.ageChip c h
      cycle := w3.s.cycle + 1
      now := w3.s.now + ns } }

/-- The periodic steps that fall due at a time: vectors every 2 µs, waits every 1 µs, sensors left to the outside (15 R354;
06 R131). -/
def Sys.periodic (s : Sys) : List Move :=
  (if s.now % 2000 = 0 then (s.chips.filter fun c => c.2.seat.st == .live || c.2.seat.st == .changing).map fun c =>
    Move.duty (.vectorBroadcast c.1) else []) ++
  (if s.now % 1000 = 0 then (s.chips.filter fun c => s.launches.any fun l => l.2.chip == c.1 && l.2.st == .pending).map fun c =>
    Move.duty (.waitEvaluate c.1) else [])

/-- An uncorrectable error strikes a byte (14 R325). -/
def W.corrupt (w : W) (cell : Nat) : W :=
  if w.poisoned cell then w else { w with s := { w.s with poison := w.s.poison ++ [cell] } }

/-! ## The units beside issue -/

/-- The steps that groups and their operations may have due. -/
def Sys.groupDuties (s : Sys) : List Duty :=
  s.groups.flatMap fun x =>
    let r := x.1
    let g := x.2
    [.trapDeliver r] ++ (g.ops.map fun o => if o.isV then Duty.resultWriteback r o.id else Duty.storePerform r o.id) ++
    ((upTo 4).map fun c => Duty.batchRetire r c) ++ [.regionCommit r, .regionOutcome r] ++
    (match g.releasing with
      | some x => x.waiting.map fun d => Duty.flushAck r d
      | none => []) ++
    [.promotion r, .demotion r, .forcedRotation r]

/-- The steps that copies, engines, blocks and unit operations may have due. -/
def Sys.unitDuties (s : Sys) : List Duty :=
  (s.cores.flatMap fun c => (if c.2.copyQueue.isEmpty then [] else [Duty.copyStart c.1.1 c.1.2]) ++
    c.2.engines.map fun e => Duty.engineOpComplete c.1.1 c.1.2 e.1) ++
  (s.copies.flatMap fun c => [Duty.copyComplete c.1, .copyWalkFault c.1, .copyLinkTimeout c.1] ++
    c.2.dests.map fun d => Duty.mcastArrival c.1 d.1) ++
  (s.blocks.flatMap fun b => (b.2.table.map fun t => Duty.vtotLand b.1 t.1) ++
    [Duty.rendezvousComplete b.1, .latchTimeout b.1]) ++
  (s.waiting.map fun h => Duty.writeVisible h.line) ++ (s.windows.map fun x => Duty.windowCombine x.1) ++
  (s.units.flatMap fun u => [Duty.reductionComplete u.1, .collectiveComplete u.1, .launchAppend u.1]) ++
  (s.walks.flatMap fun k => [Duty.walkComplete k.chip k.ctx k.page, .migRewalk k.chip k.ctx k.page])

/-- The steps that seats may have due. -/
def Sys.tableDuties (s : Sys) : List Duty :=
  (s.chips.flatMap fun c => if c.2.seat.st == .off then [] else
    ((upTo 16).map fun n => Duty.hello c.1 n) ++
      [Duty.handoff c.1, .rebase c.1, .lag c.1, .memberCollect c.1, .viewInstall c.1]) ++
  (s.packets.map fun p => Duty.tablePacketReceive p.1.1 p.1.2) ++
  s.messages.map fun m => match m.2 with
    | .request _ _ _ => Duty.turnRequest m.1.2
    | .grant _ _ _ _ => .turnGrant m.1.2
    | .redirect _ _ _ _ => .turnRedirect m.1.2
    | .vector _ _ _ => .vectorReceive m.1.1 m.1.2

/-- Moves of the clusters on hardware clusters in drain mode (07 R153). -/
def Sys.drainMoves (s : Sys) : List Duty :=
  s.clusters.flatMap fun c =>
    if c.2.st == .placed && AList.has (AList.getD s.chips c.2.chip {}).drain c.2.hwcl then
      (upTo 24).map fun h => Duty.move (.cluster c.1 h)
    else []

/-- The steps that queues, contexts and chips may have due. -/
def Sys.chipDuties (s : Sys) : List Duty :=
  (s.chips.flatMap fun c => (c.2.queues.map fun q => Duty.recordRead c.1 q.1) ++
    (if c.2.inval.isSome then [Duty.invalidateDone c.1] else []) ++
    (c.2.probe.filterMap fun p => if p.2.dump.isSome then some (Duty.dumpWrite c.1 p.1) else none) ++
    [Duty.idleTimer c.1, .clockStep c.1]) ++
  (s.launches.flatMap fun l => [Duty.argsRead l.1, .launchDone l.1, .gangstarve l.1] ++
    ((upTo 24).map fun h => Duty.clusterPlace l.1 h) ++ s.clusters.map fun c => Duty.preempt l.1 c.1) ++
  (s.clusters.map fun c => Duty.clusterSave c.1) ++ s.drainMoves ++
  (s.contexts.flatMap fun c =>
    if c.2.st == .draining then [Duty.contextDrainEnd c.1.1 c.1.2]
    else if c.2.st == .scrubbing then (upTo 4).map fun i => Duty.scrubDone (4 * c.1.1 + i) c.1.2 else []) ++
  s.transports.flatMap fun t => t.2.unacked.flatMap fun u =>
    (match u.path with
      | some (i, _) => [Duty.fabricPacketReceive t.1.1 t.1.2 u.seq i]
      | none => []) ++ [Duty.retransmitTimeout t.1.1 t.1.2 u.seq]

/-- Every step that may be due beside issue, in the order in which the model's own policy tries them (DESIGN CHOICE,
log 40). -/
def Sys.duties (s : Sys) : List Duty := s.groupDuties ++ s.unitDuties ++ s.tableDuties ++ s.chipDuties

/-- The step that a duty names: its meaning. -/
def Duty.run (s : State) : Duty → Host.Outcome State Fault Refusal
  | .trapDeliver g => execTrapDeliver g s
  | .resultWriteback g id => execResultWriteback g id s
  | .storePerform g id => execStorePerform g id s
  | .batchRetire g cls => execBatchRetire g cls s
  | .regionCommit g => execRegionCommit g s
  | .regionOutcome g => execRegionOutcome g s
  | .flushAck g dest => execFlushAck g dest s
  | .promotion g => execPromotion g s
  | .demotion g => execDemotion g s
  | .forcedRotation g => execForcedRotation g s
  | .copyStart chip core => execCopyStart chip core s
  | .engineOpComplete chip core engine => execEngineOpComplete chip core engine s
  | .copyComplete op => execCopyComplete op s
  | .copyWalkFault op => execCopyWalkFault op s
  | .copyLinkTimeout op => execCopyLinkTimeout op s
  | .mcastArrival op dest => execMcastArrival op dest s
  | .vtotLand block tile => execVtotLand block tile s
  | .rendezvousComplete block => execRendezvousComplete block s
  | .latchTimeout block => execLatchTimeout block s
  | .writeVisible line => execWriteVisible line s
  | .windowCombine base => execWindowCombine base s
  | .reductionComplete op => execReductionComplete op s
  | .collectiveComplete op => execCollectiveComplete op s
  | .launchAppend op => execLaunchAppend op s
  | .walkComplete chip ctx page => execWalkComplete chip ctx page s
  | .migRewalk chip ctx page => execMigRewalk chip ctx page s
  | .hello chip sender => execHello chip sender s
  | .handoff chip => execHandoff chip s
  | .rebase chip => execRebase chip s
  | .lag chip => execLag chip s
  | .memberCollect chip => execMemberCollect chip s
  | .viewInstall chip => execViewInstall chip s
  | .tablePacketReceive chip packet => execTablePacketReceive chip packet s
  | .turnRequest message => execTurnRequest message s
  | .turnGrant message => execTurnGrant message s
  | .turnRedirect message => execTurnRedirect message s
  | .vectorBroadcast chip => execVectorBroadcast chip s
  | .vectorReceive chip message => execVectorReceive chip message s
  | .recordRead chip queue => execRecordRead chip queue s
  | .waitEvaluate chip => execWaitEvaluate chip s
  | .invalidateDone chip => execInvalidateDone chip s
  | .dumpWrite chip ctx => execDumpWrite chip ctx s
  | .idleTimer chip => execIdleTimer chip s
  | .clockStep chip => execClockStep chip s
  | .argsRead launch => execArgsRead launch s
  | .launchDone launch => execLaunchDone launch s
  | .gangstarve launch => execGangstarve launch s
  | .clusterPlace launch hwcl => execClusterPlace launch hwcl s
  | .preempt launch cluster => execPreempt launch cluster s
  | .clusterSave cluster => execClusterSave cluster s
  | .move unit => execMove unit s
  | .contextDrainEnd pkg slot => execContextDrainEnd pkg slot s
  | .scrubDone chip slot => execScrubDone chip slot s
  | .fabricPacketReceive src dest seq path => execFabricPacketReceive src dest seq path s
  | .retransmitTimeout src dest seq => execRetransmitTimeout src dest seq s

end Sys2Proof.Machine
end

