-- ==== Sys2Proof/Machine/Dispatch.lean ====
section
/-! DEFINITION. What each step does: one arm for each constructor of Instr, each a direct call of its meaning. -/
namespace Sys2Proof.Machine

/-- The meaning of a step. -/
def exec (i : Instr) (s : State) : Host.Outcome State Fault Refusal :=
  match i with
  | .vadd k d a b => Sys2Proof.Machine.execVadd k d a b s
  | .vsub k d a b => Sys2Proof.Machine.execVsub k d a b s
  | .vmul k d a b => Sys2Proof.Machine.execVmul k d a b s
  | .vmulh k d a b => Sys2Proof.Machine.execVmulh k d a b s
  | .vdiv k d a b => Sys2Proof.Machine.execVdiv k d a b s
  | .vrem k d a b => Sys2Proof.Machine.execVrem k d a b s
  | .vmin k d a b => Sys2Proof.Machine.execVmin k d a b s
  | .vmax k d a b => Sys2Proof.Machine.execVmax k d a b s
  | .vand k d a b => Sys2Proof.Machine.execVand k d a b s
  | .vor k d a b => Sys2Proof.Machine.execVor k d a b s
  | .vxor k d a b => Sys2Proof.Machine.execVxor k d a b s
  | .vshl k d a b => Sys2Proof.Machine.execVshl k d a b s
  | .vshr k d a b => Sys2Proof.Machine.execVshr k d a b s
  | .vsra k d a b => Sys2Proof.Machine.execVsra k d a b s
  | .vrot k d a b => Sys2Proof.Machine.execVrot k d a b s
  | .vsel k d a b => Sys2Proof.Machine.execVsel k d a b s
  | .vabsd k d a b => Sys2Proof.Machine.execVabsd k d a b s
  | .vcsgn k d a b => Sys2Proof.Machine.execVcsgn k d a b s
  | .vpk k d a b => Sys2Proof.Machine.execVpk k d a b s
  | .vmad k d a b => Sys2Proof.Machine.execVmad k d a b s
  | .vmsb k d a b => Sys2Proof.Machine.execVmsb k d a b s
  | .vclmp k d a b => Sys2Proof.Machine.execVclmp k d a b s
  | .vdot4 k d a b => Sys2Proof.Machine.execVdot4 k d a b s
  | .vmov k d a => Sys2Proof.Machine.execVmov k d a s
  | .vneg k d a => Sys2Proof.Machine.execVneg k d a s
  | .vabs k d a => Sys2Proof.Machine.execVabs k d a s
  | .vnot k d a => Sys2Proof.Machine.execVnot k d a s
  | .vclz k d a => Sys2Proof.Machine.execVclz k d a s
  | .vpop k d a => Sys2Proof.Machine.execVpop k d a s
  | .vbrev k d a => Sys2Proof.Machine.execVbrev k d a s
  | .vcvt k d a => Sys2Proof.Machine.execVcvt k d a s
  | .vrcp k d a => Sys2Proof.Machine.execVrcp k d a s
  | .vrsq k d a => Sys2Proof.Machine.execVrsq k d a s
  | .vsqrt k d a => Sys2Proof.Machine.execVsqrt k d a s
  | .vexp2 k d a => Sys2Proof.Machine.execVexp2 k d a s
  | .vlog2 k d a => Sys2Proof.Machine.execVlog2 k d a s
  | .vsin k d a => Sys2Proof.Machine.execVsin k d a s
  | .vcos k d a => Sys2Proof.Machine.execVcos k d a s
  | .vfloor k d a => Sys2Proof.Machine.execVfloor k d a s
  | .vceil k d a => Sys2Proof.Machine.execVceil k d a s
  | .vtrunc k d a => Sys2Proof.Machine.execVtrunc k d a s
  | .vrint k d a => Sys2Proof.Machine.execVrint k d a s
  | .vfrac k d a => Sys2Proof.Machine.execVfrac k d a s
  | .vclass k d a => Sys2Proof.Machine.execVclass k d a s
  | .vfree k d => Sys2Proof.Machine.execVfree k d s
  | .vadds k s1 d a => Sys2Proof.Machine.execVadds k s1 d a s
  | .vsubs k s1 d a => Sys2Proof.Machine.execVsubs k s1 d a s
  | .vrsubs k s1 d a => Sys2Proof.Machine.execVrsubs k s1 d a s
  | .vmuls k s1 d a => Sys2Proof.Machine.execVmuls k s1 d a s
  | .vmads k s1 d a => Sys2Proof.Machine.execVmads k s1 d a s
  | .vmins k s1 d a => Sys2Proof.Machine.execVmins k s1 d a s
  | .vmaxs k s1 d a => Sys2Proof.Machine.execVmaxs k s1 d a s
  | .vands k s1 d a => Sys2Proof.Machine.execVands k s1 d a s
  | .vors k s1 d a => Sys2Proof.Machine.execVors k s1 d a s
  | .vxors k s1 d a => Sys2Proof.Machine.execVxors k s1 d a s
  | .vshls k s1 d a => Sys2Proof.Machine.execVshls k s1 d a s
  | .vshrs k s1 d a => Sys2Proof.Machine.execVshrs k s1 d a s
  | .vsras k s1 d a => Sys2Proof.Machine.execVsras k s1 d a s
  | .vbcs k s1 d => Sys2Proof.Machine.execVbcs k s1 d s
  | .vaddi k d a imm => Sys2Proof.Machine.execVaddi k d a imm s
  | .vmuli k d a imm => Sys2Proof.Machine.execVmuli k d a imm s
  | .vandi k d a imm => Sys2Proof.Machine.execVandi k d a imm s
  | .vori k d a imm => Sys2Proof.Machine.execVori k d a imm s
  | .vxori k d a imm => Sys2Proof.Machine.execVxori k d a imm s
  | .vshli k d a imm => Sys2Proof.Machine.execVshli k d a imm s
  | .vshri k d a imm => Sys2Proof.Machine.execVshri k d a imm s
  | .vsrai k d a imm => Sys2Proof.Machine.execVsrai k d a imm s
  | .sadd k d a b => Sys2Proof.Machine.execSadd k d a b s
  | .ssub k d a b => Sys2Proof.Machine.execSsub k d a b s
  | .smul k d a b => Sys2Proof.Machine.execSmul k d a b s
  | .smulh k d a b => Sys2Proof.Machine.execSmulh k d a b s
  | .sdiv k d a b => Sys2Proof.Machine.execSdiv k d a b s
  | .srem k d a b => Sys2Proof.Machine.execSrem k d a b s
  | .smin k d a b => Sys2Proof.Machine.execSmin k d a b s
  | .smax k d a b => Sys2Proof.Machine.execSmax k d a b s
  | .sand k d a b => Sys2Proof.Machine.execSand k d a b s
  | .sor k d a b => Sys2Proof.Machine.execSor k d a b s
  | .sxor k d a b => Sys2Proof.Machine.execSxor k d a b s
  | .sshl k d a b => Sys2Proof.Machine.execSshl k d a b s
  | .sshr k d a b => Sys2Proof.Machine.execSshr k d a b s
  | .ssra k d a b => Sys2Proof.Machine.execSsra k d a b s
  | .sslt k d a b => Sys2Proof.Machine.execSslt k d a b s
  | .ssln k d a b => Sys2Proof.Machine.execSsln k d a b s
  | .saddi k d a imm => Sys2Proof.Machine.execSaddi k d a imm s
  | .sandi k d a imm => Sys2Proof.Machine.execSandi k d a imm s
  | .sori k d a imm => Sys2Proof.Machine.execSori k d a imm s
  | .sxori k d a imm => Sys2Proof.Machine.execSxori k d a imm s
  | .sshli k d a imm => Sys2Proof.Machine.execSshli k d a imm s
  | .sshri k d a imm => Sys2Proof.Machine.execSshri k d a imm s
  | .ssrai k d a imm => Sys2Proof.Machine.execSsrai k d a imm s
  | .sslti k d a imm => Sys2Proof.Machine.execSslti k d a imm s
  | .sli k d imm => Sys2Proof.Machine.execSli k d imm s
  | .slu k d imm => Sys2Proof.Machine.execSlu k d imm s
  | .br k o => Sys2Proof.Machine.execBr k o s
  | .call k o => Sys2Proof.Machine.execCall k o s
  | .jmp k s1 => Sys2Proof.Machine.execJmp k s1 s
  | .ret k => Sys2Proof.Machine.execRet k s
  | .bp k p e o => Sys2Proof.Machine.execBp k p e o s
  | .brd k p e o => Sys2Proof.Machine.execBrd k p e o s
  | .rcv k o => Sys2Proof.Machine.execRcv k o s
  | .join k => Sys2Proof.Machine.execJoin k s
  | .bz k s1 o => Sys2Proof.Machine.execBz k s1 o s
  | .bnz k s1 o => Sys2Proof.Machine.execBnz k s1 o s
  | .loop k s1 o => Sys2Proof.Machine.execLoop k s1 o s
  | .exit k => Sys2Proof.Machine.execExit k s
  | .vceq k d a b => Sys2Proof.Machine.execVceq k d a b s
  | .vcne k d a b => Sys2Proof.Machine.execVcne k d a b s
  | .vclt k d a b => Sys2Proof.Machine.execVclt k d a b s
  | .vcle k d a b => Sys2Proof.Machine.execVcle k d a b s
  | .vcun k d a b => Sys2Proof.Machine.execVcun k d a b s
  | .pand k d a b => Sys2Proof.Machine.execPand k d a b s
  | .por k d a b => Sys2Proof.Machine.execPor k d a b s
  | .pxor k d a b => Sys2Proof.Machine.execPxor k d a b s
  | .pandn k d a b => Sys2Proof.Machine.execPandn k d a b s
  | .pnot k d a => Sys2Proof.Machine.execPnot k d a s
  | .pmov k d a => Sys2Proof.Machine.execPmov k d a s
  | .pset k d e => Sys2Proof.Machine.execPset k d e s
  | .pfromv k d a => Sys2Proof.Machine.execPfromv k d a s
  | .ptov k a d => Sys2Proof.Machine.execPtov k a d s
  | .vbfly k d a m => Sys2Proof.Machine.execVbfly k d a m s
  | .vshfl k d a imm => Sys2Proof.Machine.execVshfl k d a imm s
  | .vbcast k d a l => Sys2Proof.Machine.execVbcast k d a l s
  | .vrotl k d a r => Sys2Proof.Machine.execVrotl k d a r s
  | .vtos k d a l => Sys2Proof.Machine.execVtos k d a l s
  | .stov k d s1 l => Sys2Proof.Machine.execStov k d s1 l s
  | .vballot k d p => Sys2Proof.Machine.execVballot k d p s
  | .vfind k d p => Sys2Proof.Machine.execVfind k d p s
  | .vscan k d a => Sys2Proof.Machine.execVscan k d a s
  | .vred k d a => Sys2Proof.Machine.execVred k d a s
  | .vlane k d => Sys2Proof.Machine.execVlane k d s
  | .vtid k d => Sys2Proof.Machine.execVtid k d s
  | .regrp k => Sys2Proof.Machine.execRegrp k s
  | .vld k s1 d o => Sys2Proof.Machine.execVld k s1 d o s
  | .vst k s1 v o => Sys2Proof.Machine.execVst k s1 v o s
  | .prf k s1 o => Sys2Proof.Machine.execPrf k s1 o s
  | .vaadd k s1 d o => Sys2Proof.Machine.execVaadd k s1 d o s
  | .vamin k s1 d o => Sys2Proof.Machine.execVamin k s1 d o s
  | .vamax k s1 d o => Sys2Proof.Machine.execVamax k s1 d o s
  | .vaand k s1 d o => Sys2Proof.Machine.execVaand k s1 d o s
  | .vaor k s1 d o => Sys2Proof.Machine.execVaor k s1 d o s
  | .vaxor k s1 d o => Sys2Proof.Machine.execVaxor k s1 d o s
  | .vaxch k s1 d o => Sys2Proof.Machine.execVaxch k s1 d o s
  | .vacas k s1 d o => Sys2Proof.Machine.execVacas k s1 d o s
  | .vredadd k s1 d o => Sys2Proof.Machine.execVredadd k s1 d o s
  | .vredmin k s1 d o => Sys2Proof.Machine.execVredmin k s1 d o s
  | .vredmax k s1 d o => Sys2Proof.Machine.execVredmax k s1 d o s
  | .vldx k w d imm => Sys2Proof.Machine.execVldx k w d imm s
  | .vstx k w v imm => Sys2Proof.Machine.execVstx k w v imm s
  | .vpush k v => Sys2Proof.Machine.execVpush k v s
  | .vpopSpill k v => Sys2Proof.Machine.execVpopSpill k v s
  | .sld k d a imm => Sys2Proof.Machine.execSld k d a imm s
  | .sst k d a imm => Sys2Proof.Machine.execSst k d a imm s
  | .saadd k d a imm => Sys2Proof.Machine.execSaadd k d a imm s
  | .macq k p => Sys2Proof.Machine.execMacq k p s
  | .mrel k => Sys2Proof.Machine.execMrel k s
  | .mquor k s1 => Sys2Proof.Machine.execMquor k s1 s
  | .mma k d a b => Sys2Proof.Machine.execMma k d a b s
  | .mmas k d a b c => Sys2Proof.Machine.execMmas k d a b c s
  | .mzero k d => Sys2Proof.Machine.execMzero k d s
  | .mdrain k d a => Sys2Proof.Machine.execMdrain k d a s
  | .tcfg k t s1 => Sys2Proof.Machine.execTcfg k t s1 s
  | .tfree k t => Sys2Proof.Machine.execTfree k t s
  | .tstate k t d => Sys2Proof.Machine.execTstate k t d s
  | .vtot k t s1 v => Sys2Proof.Machine.execVtot k t s1 v s
  | .ttov k t s1 v => Sys2Proof.Machine.execTtov k t s1 v s
  | .kset k s1 => Sys2Proof.Machine.execKset k s1 s
  | .spld k a g => Sys2Proof.Machine.execSpld k a g s
  | .spst k d g => Sys2Proof.Machine.execSpst k d g s
  | .spev k d a => Sys2Proof.Machine.execSpev k d a s
  | .spbwd k d a b => Sys2Proof.Machine.execSpbwd k d a b s
  | .spgrd k d a b g => Sys2Proof.Machine.execSpgrd k d a b g s
  | .sprf k => Sys2Proof.Machine.execSprf k s
  | .spoog k d => Sys2Proof.Machine.execSpoog k d s
  | .cpy k t x y r => Sys2Proof.Machine.execCpy k t x y r s
  | .cpyt k t s1 => Sys2Proof.Machine.execCpyt k t s1 s
  | .mcast k t s1 m => Sys2Proof.Machine.execMcast k t s1 m s
  | .seal k c => Sys2Proof.Machine.execSeal k c s
  | .waitb k c n => Sys2Proof.Machine.execWaitb k c n s
  | .bstat k c d => Sys2Proof.Machine.execBstat k c d s
  | .bar k l imm => Sys2Proof.Machine.execBar k l imm s
  | .bara k l imm => Sys2Proof.Machine.execBara k l imm s
  | .barw k l imm => Sys2Proof.Machine.execBarw k l imm s
  | .barq k l imm d => Sys2Proof.Machine.execBarq k l imm d s
  | .cput k d p a => Sys2Proof.Machine.execCput k d p a s
  | .cget k d p a => Sys2Proof.Machine.execCget k d p a s
  | .cred k d p a => Sys2Proof.Machine.execCred k d p a s
  | .osig k d => Sys2Proof.Machine.execOsig k d s
  | .rwin k s1 => Sys2Proof.Machine.execRwin k s1 s
  | .rwcl k => Sys2Proof.Machine.execRwcl k s
  | .bset k b s1 => Sys2Proof.Machine.execBset k b s1 s
  | .bget k b d => Sys2Proof.Machine.execBget k b d s
  | .nop k => Sys2Proof.Machine.execNop k s
  | .mode k imm => Sys2Proof.Machine.execMode k imm s
  | .fmt k imm => Sys2Proof.Machine.execFmt k imm s
  | .srd k d s1 => Sys2Proof.Machine.execSrd k d s1 s
  | .swr k a s1 => Sys2Proof.Machine.execSwr k a s1 s
  | .fence k => Sys2Proof.Machine.execFence k s
  | .trap k imm => Sys2Proof.Machine.execTrap k imm s
  | .eret k => Sys2Proof.Machine.execEret k s
  | .brk k imm => Sys2Proof.Machine.execBrk k imm s
  | .halt k => Sys2Proof.Machine.execHalt k s
  | .yield k => Sys2Proof.Machine.execYield k s
  | .opf k b m => Sys2Proof.Machine.execOpf k b m s
  | .ixw k w b l => Sys2Proof.Machine.execIxw k w b l s
  | .ab k o => Sys2Proof.Machine.execAb k o s
  | .ac k => Sys2Proof.Machine.execAc k s
  | .aa k => Sys2Proof.Machine.execAa k s
  | .turn k => Sys2Proof.Machine.execTurn k s
  | .tsync k => Sys2Proof.Machine.execTsync k s
  | .tblq k d imm => Sys2Proof.Machine.execTblq k d imm s
  | .launch k s1 => Sys2Proof.Machine.execLaunch k s1 s
  | .probe k imm => Sys2Proof.Machine.execProbe k imm s
  | .rdtime k d => Sys2Proof.Machine.execRdtime k d s
  | .modeRestore f => Sys2Proof.Machine.execModeRestore f s
  | .resultWriteback g id => Sys2Proof.Machine.execResultWriteback g id s
  | .trapDeliver g => Sys2Proof.Machine.execTrapDeliver g s
  | .create pkg slot => Sys2Proof.Machine.execCreate pkg slot s
  | .bind pkg slot addr => Sys2Proof.Machine.execBind pkg slot addr s
  | .suspend pkg slot => Sys2Proof.Machine.execSuspend pkg slot s
  | .resume pkg slot => Sys2Proof.Machine.execResume pkg slot s
  | .release pkg slot => Sys2Proof.Machine.execRelease pkg slot s
  | .contextDrainEnd pkg slot => Sys2Proof.Machine.execContextDrainEnd pkg slot s
  | .scrubDone chip slot => Sys2Proof.Machine.execScrubDone chip slot s
  | .queueEnable chip queue value => Sys2Proof.Machine.execQueueEnable chip queue value s
  | .queueDisable chip queue value => Sys2Proof.Machine.execQueueDisable chip queue value s
  | .doorbell chip queue value => Sys2Proof.Machine.execDoorbell chip queue value s
  | .queueStopClear chip queue => Sys2Proof.Machine.execQueueStopClear chip queue s
  | .recordRead chip queue => Sys2Proof.Machine.execRecordRead chip queue s
  | .waitEvaluate chip => Sys2Proof.Machine.execWaitEvaluate chip s
  | .clusterPlace launch hwcl => Sys2Proof.Machine.execClusterPlace launch hwcl s
  | .argsRead launch => Sys2Proof.Machine.execArgsRead launch s
  | .preempt launch cluster => Sys2Proof.Machine.execPreempt launch cluster s
  | .clusterSave cluster => Sys2Proof.Machine.execClusterSave cluster s
  | .move unit => Sys2Proof.Machine.execMove unit s
  | .gangstarve launch => Sys2Proof.Machine.execGangstarve launch s
  | .promotion g => Sys2Proof.Machine.execPromotion g s
  | .demotion g => Sys2Proof.Machine.execDemotion g s
  | .forcedRotation g => Sys2Proof.Machine.execForcedRotation g s
  | .batchRetire g cls => Sys2Proof.Machine.execBatchRetire g cls s
  | .launchDone launch => Sys2Proof.Machine.execLaunchDone launch s
  | .launchAppend op => Sys2Proof.Machine.execLaunchAppend op s
  | .copyStart chip core => Sys2Proof.Machine.execCopyStart chip core s
  | .copyComplete op => Sys2Proof.Machine.execCopyComplete op s
  | .copyWalkFault op => Sys2Proof.Machine.execCopyWalkFault op s
  | .copyxlateResume chip request => Sys2Proof.Machine.execCopyxlateResume chip request s
  | .copyxlateRefuse chip request => Sys2Proof.Machine.execCopyxlateRefuse chip request s
  | .copyLinkTimeout op => Sys2Proof.Machine.execCopyLinkTimeout op s
  | .mcastArrival op dest => Sys2Proof.Machine.execMcastArrival op dest s
  | .engineOpComplete chip core engine => Sys2Proof.Machine.execEngineOpComplete chip core engine s
  | .vtotLand block tile => Sys2Proof.Machine.execVtotLand block tile s
  | .rendezvousComplete block => Sys2Proof.Machine.execRendezvousComplete block s
  | .latchTimeout block => Sys2Proof.Machine.execLatchTimeout block s
  | .storePerform g id => Sys2Proof.Machine.execStorePerform g id s
  | .writeVisible line => Sys2Proof.Machine.execWriteVisible line s
  | .flushAck g dest => Sys2Proof.Machine.execFlushAck g dest s
  | .windowCombine base => Sys2Proof.Machine.execWindowCombine base s
  | .regionCommit g => Sys2Proof.Machine.execRegionCommit g s
  | .regionOutcome g => Sys2Proof.Machine.execRegionOutcome g s
  | .seatEnable chip value => Sys2Proof.Machine.execSeatEnable chip value s
  | .seatDisable chip value => Sys2Proof.Machine.execSeatDisable chip value s
  | .seatRelease chip value => Sys2Proof.Machine.execSeatRelease chip value s
  | .tbevict chip value => Sys2Proof.Machine.execTbevict chip value s
  | .hello chip sender => Sys2Proof.Machine.execHello chip sender s
  | .tablePacketReceive chip packet => Sys2Proof.Machine.execTablePacketReceive chip packet s
  | .turnRequest message => Sys2Proof.Machine.execTurnRequest message s
  | .turnGrant message => Sys2Proof.Machine.execTurnGrant message s
  | .turnRedirect message => Sys2Proof.Machine.execTurnRedirect message s
  | .handoff chip => Sys2Proof.Machine.execHandoff chip s
  | .rebase chip => Sys2Proof.Machine.execRebase chip s
  | .vectorBroadcast chip => Sys2Proof.Machine.execVectorBroadcast chip s
  | .vectorReceive chip message => Sys2Proof.Machine.execVectorReceive chip message s
  | .lag chip => Sys2Proof.Machine.execLag chip s
  | .memberCollect chip => Sys2Proof.Machine.execMemberCollect chip s
  | .viewInstall chip => Sys2Proof.Machine.execViewInstall chip s
  | .walkComplete chip ctx page => Sys2Proof.Machine.execWalkComplete chip ctx page s
  | .migRewalk chip ctx page => Sys2Proof.Machine.execMigRewalk chip ctx page s
  | .invalidatePage chip value => Sys2Proof.Machine.execInvalidatePage chip value s
  | .invalidateContext chip value => Sys2Proof.Machine.execInvalidateContext chip value s
  | .invalidateAperture chip value => Sys2Proof.Machine.execInvalidateAperture chip value s
  | .invalidateDone chip => Sys2Proof.Machine.execInvalidateDone chip s
  | .hostMemWrite pkg addr bytes => Sys2Proof.Machine.execHostMemWrite pkg addr bytes s
  | .hostMemRead pkg addr len => Sys2Proof.Machine.execHostMemRead pkg addr len s
  | .flitReceive pkg link flit => Sys2Proof.Machine.execFlitReceive pkg link flit s
  | .fabricPacketReceive src dest seq path => Sys2Proof.Machine.execFabricPacketReceive src dest seq path s
  | .retransmitTimeout src dest seq => Sys2Proof.Machine.execRetransmitTimeout src dest seq s
  | .pathProbe src dest path answered => Sys2Proof.Machine.execPathProbe src dest path answered s
  | .partnerDetect pkg link => Sys2Proof.Machine.execPartnerDetect pkg link s
  | .physicalUp pkg link outcome => Sys2Proof.Machine.execPhysicalUp pkg link outcome s
  | .trainingTimeout pkg link => Sys2Proof.Machine.execTrainingTimeout pkg link s
  | .negotiate pkg link lowest highest => Sys2Proof.Machine.execNegotiate pkg link lowest highest s
  | .laneLoss pkg link remaining => Sys2Proof.Machine.execLaneLoss pkg link remaining s
  | .laneRegain pkg link width => Sys2Proof.Machine.execLaneRegain pkg link width s
  | .linkFence pkg link => Sys2Proof.Machine.execLinkFence pkg link s
  | .linkRetrain pkg link => Sys2Proof.Machine.execLinkRetrain pkg link s
  | .prselWrite chip value => Sys2Proof.Machine.execPrselWrite chip value s
  | .counterClear chip value => Sys2Proof.Machine.execCounterClear chip value s
  | .triggerArm chip value => Sys2Proof.Machine.execTriggerArm chip value s
  | .prres chip value => Sys2Proof.Machine.execPrres chip value s
  | .sampleTick chip core ctx => Sys2Proof.Machine.execSampleTick chip core ctx s
  | .dumpWrite chip ctx => Sys2Proof.Machine.execDumpWrite chip ctx s
  | .powerOn pkg => Sys2Proof.Machine.execPowerOn pkg s
  | .bootStage chip image => Sys2Proof.Machine.execBootStage chip image s
  | .fuseWrite chip command => Sys2Proof.Machine.execFuseWrite chip command s
  | .getVersion pkg => Sys2Proof.Machine.execGetVersion pkg s
  | .getCapabilities pkg version => Sys2Proof.Machine.execGetCapabilities pkg version s
  | .negotiateAlgorithms pkg version => Sys2Proof.Machine.execNegotiateAlgorithms pkg version s
  | .getDigests pkg version => Sys2Proof.Machine.execGetDigests pkg version s
  | .getCertificate pkg version offset len => Sys2Proof.Machine.execGetCertificate pkg version offset len s
  | .challenge pkg version nonce => Sys2Proof.Machine.execChallenge pkg version nonce s
  | .getMeasurements pkg version index nonce => Sys2Proof.Machine.execGetMeasurements pkg version index nonce s
  | .firmwareRecord chip ctx payload => Sys2Proof.Machine.execFirmwareRecord chip ctx payload s
  | .auditConsume chip value => Sys2Proof.Machine.execAuditConsume chip value s
  | .sensorRead chip temp ring => Sys2Proof.Machine.execSensorRead chip temp ring s
  | .clockStep chip => Sys2Proof.Machine.execClockStep chip s
  | .droop chip hwcl percent cycles => Sys2Proof.Machine.execDroop chip hwcl percent cycles s
  | .idleTimer chip => Sys2Proof.Machine.execIdleTimer chip s
  | .registerWrite chip offset value => Sys2Proof.Machine.execRegisterWrite chip offset value s
  | .illegalWord w => Sys2Proof.Machine.execIllegalWord w s
  | .reductionComplete op => Sys2Proof.Machine.execReductionComplete op s
  | .collectiveComplete op => Sys2Proof.Machine.execCollectiveComplete op s
  | .droopEnd chip hwcl => Sys2Proof.Machine.execDroopEnd chip hwcl s
  | .powerOff pkg => Sys2Proof.Machine.execPowerOff pkg s
  | .eventSpaceFreed chip records => Sys2Proof.Machine.execEventSpaceFreed chip records s
  | .registerRead chip offset => Sys2Proof.Machine.execRegisterRead chip offset s

end Sys2Proof.Machine
end

