-- ==== Sys2Proof/Machine/Step.lean ====
section
/-! DEFINITION. One step of the machine: what the agenda names next, or, with an empty agenda, an issue, a step that is due
beside issue, or the end of the cycle. -/
namespace Sys2Proof.Machine

/-- A state as the named operations see it, for questions that read no byte. -/
def Sys.view (s : Sys) : W := ⟨s, ⟨[], rfl⟩⟩

/-- The fragment that issues next, where one may (08 R162). -/
def State.nextFragment (s : State) : Option FragRef := s.toSys.view.pickAny

/-- What the fetch of a fragment's next instruction gives. -/
def State.fetch (s : State) (a : At) : Fetched :=
  if h : memoryWf s.mem = true then W.fetch ⟨s.toSys, ⟨s.mem, h⟩⟩ a else .gone

/-- A fragment's attempt: a due restore of its mode, or the instruction at its pc; a word that no instruction has raises
ILLEGAL (03 R59, R78). -/
def State.issueFrom (s : State) (f : FragRef) : Host.Outcome State Fault Refusal :=
  match s.toSys.view.at' f with
  | none => .next s
  | some a =>
    if a.e.restoreDue then exec (.modeRestore f) s
    else match s.fetch a with
      | .bytes bs =>
        match decodeBytes bs with
        | .ok (i, _) => exec i { s with issuer := some f }
        | .error _ => execIllegalWord (BitVec.ofNat 32 (ofBytes bs)) { s with issuer := some f }
      | x => lift (fun w => w.fetchFailed a x) s

/-- The first of some steps that changes the state. -/
def State.firstDue (s : State) : List Duty → Option (Host.Outcome State Fault Refusal)
  | [] => none
  | d :: r => match d.run s with
    | .next t => if t = s then s.firstDue r else some (.next t)
    | x => some x

/-- The end of a cycle of 1 ns, and the periodic steps it makes due. -/
def State.endCycle (s : State) : Host.Outcome State Fault Refusal :=
  match lift (fun w => w.tick 1) s with
  | .next t => .next { t with agenda := t.toSys.periodic }
  | x => x

/-- What an entry of the agenda does. -/
def State.perform (s : State) : Move → Host.Outcome State Fault Refusal
  | .event i => exec i s
  | .duty d => d.run s
  | .slot chip core sub => match s.toSys.view.pick chip core sub with
    | some f => s.issueFrom f
    | none => .next s
  | .tick ns => lift (fun w => w.tick ns) s
  | .corrupt cell => lift (fun w => w.corrupt cell) s
  | .walk op n => lift (fun w => w.walkSome op n) s
  | .evict chip line => lift (fun w => w.evictLine chip line) s
  | .extend chip register digest => lift (fun w => w.stageExtend chip register digest) s

/-- One step. -/
def step (s : State) : Host.Outcome State Fault Refusal :=
  match s.agenda with
  | m :: rest => { s with agenda := rest }.perform m
  | [] =>
    match s.nextFragment with
    | some f => s.issueFrom f
    | none => (s.firstDue s.toSys.duties).getD s.endCycle

/-! ## A state whose next step runs a word -/

/-- The context that `withFetchWord` runs in: RUNNING in slot 0 of package 0. -/
def fetchContext : Context := { st := .running }
/-- Its block. -/
def fetchBlock : Block := { span := [0], slots := [(0, { chip := 0, core := 0, slot := 0 })], live := [0] }
/-- Its group, ACTIVE with the whole register file declared and one fragment at address 0x1_0000. -/
def fetchGroup (block : Nat) : Group :=
  { st := .active, block := block, entries := [(0, { pc := 0x10000, refill := some 0 })] }
/-- The translation of the page at 0x1_0000: frame 1 of chip 0, with every permission. -/
def fetchLeaf : TlbEntry := { chip := 0, core := 0, ctx := 0, base := 0x10000, bits := 16, leaf := 0x1001F, aperture := none }

/-- The state with a word where its next step fetches: a RUNNING context with a block of one ACTIVE group on core 0 of chip 0,
as a launch of a program would leave it, its page translated, the die's link UP, and the word at its pc. -/
def State.withFetchWord (s : State) (nbits w : Nat) : State :=
  let r : GroupRef := { chip := 0, core := 0, slot := 0 }
  let bs := wordBytes (w % 2 ^ min nbits 32)
  let mem := (bs.foldl (fun (acc : Memory × Nat) b => (writeCell acc.1 acc.2 b, acc.2 + 1)) (s.mem, 0x10000)).1
  { s with
    agenda := []
    mem := mem
    chips := AList.put s.chips 0 { AList.getD s.chips 0 {} with power := .ready }
    contexts := AList.put s.contexts (0, 0) fetchContext
    blocks := AList.put s.blocks 0 fetchBlock
    groups := AList.put s.groups r (fetchGroup 0)
    tlb := [fetchLeaf] ++ s.tlb
    links := AList.put s.links (0, 0x10) { st := .up } }

end Sys2Proof.Machine
end

