-- ==== Sys2Proof/Certificates/Slice0/Vocabulary.lean ====
section
/-! DEFINITION. The words the statements are made of: when a word issues with nothing in its way, and what it leaves alone. -/
namespace Sys2Proof.Statement
open Sys2Proof.Machine

/-! ## Before the word -/

/-- No breakpoint comparator hits at the instruction (19 R427, R428). -/
def Unwatched (s : State) (a : At) : Prop :=
  a.e.unchecked = true ∨
    ∀ n c, AList.get? (AList.getD s.cores (coreKey a.r) {}).comparators n = some c → comparatorHits a c = false

/-- The vector operands are at hand: in the operand buffer, or refilled (09 R189). -/
def AtHand (s : State) (a : At) (vr : List Nat) : Prop :=
  match a.e.refill with
  | some c => c ≤ s.cycle
  | none => ∀ n ∈ vr, n ∈ a.g.buffer

/-- Fragment a of a sound state is the one that issues, and nothing watches it (08 R162). -/
structure Here (s : State) (a : At) : Prop where
  wf : s.memWf
  whole : s.missing = false
  here : issuing s = some a
  unwatched : Unwatched s a

/-- A word i with switch marker k that names the registers u issues now: its encoding is formed, its vector registers are
declared, run-checking finds no hazard, its operands are at hand, and no late fault waits for its marker (03 R62). -/
structure Free (s : State) (a : At) (i : Instr) (k : Bool) (u : Use) : Prop extends Here s a where
  formed : rejectOf i = none
  declared : ∀ n ∈ u.vr ++ u.vw, n < a.g.vregs
  calm : a.g.runCheck = true → hazardOf a.g u = none
  atHand : AtHand s a u.vr
  early : k = true → a.g.late = none

/-- An open atomic region has room for a word that makes this use of it (16 R373, R374). -/
def HasRoom (a : At) (u : RegionUse) : Prop := ∀ rg, a.g.region = some rg → regionDetail rg u = none

/-- The use of a region by a word that only writes these vector registers, in these lanes. -/
def writing (m : LaneMask) (vw : List Nat) : RegionUse := { writes := fun l => if laneAt m l then vw else [] }

/-! ## After the word -/

/-- The special registers of a group that no word of registers writes: `%quor`, `%rgn`, `%osig`, `%ssp`, the index windows,
the opf set (03 R84, R85). -/
def specials (g : Group) : DWord × DWord × DWord × DWord × AList Nat (Nat × Nat) × List Nat :=
  (g.quor, g.rgn, g.osig, g.ssp, g.windows, g.opf)

/-- The trap registers and handler mode (05 R111, R112). -/
def traps (g : Group) : Word × DWord × Word × DWord × Word × Word × DWord × Option Nat :=
  (g.tcause, g.tpc, g.tmask, g.tval, g.tmode, g.tfmt, g.tscr, g.handler)

/-- What a group is: context, block, `%gid`, state, declared registers, live lanes, lane identities (07 R140, R141). -/
def identity (g : Group) : Nat × Nat × Nat × GroupState × Nat × LaneMask × AList Nat Nat :=
  (g.ctx, g.block, g.gid, g.st, g.vregs, g.live, g.tid)

/-- A fragment's place in the split table, its address and mode state apart (08 R165). -/
def placing (e : Entry) : EntryState × LaneMask × Option DWord × Option DWord × Word × Word × Option Nat × Nat :=
  (e.st, e.lanes, e.rcv, e.rejoin, e.retMode, e.retFmt, e.partner, e.order)

/-- The group g and the fragment e that a step leaves where fragment a stood: the group's special and trap registers,
identity and other fragments are as they were, and so are the fragment's place and its mode state, of which a pending
restore has counted one issue (03 R78). -/
structure Kept (t : State) (a : At) (g : Group) (e : Entry) : Prop where
  group : AList.get? t.groups a.r = some g
  entry : AList.get? g.entries a.ei = some e
  place : placing e = placing a.e
  mode : e.mode = a.e.mode
  fmt : e.fmt = a.e.fmt
  pending : e.pending = a.e.pending.map PendingRestore.counted
  others : ∀ j, j ≠ a.ei → AList.get? g.entries j = AList.get? a.g.entries j
  special : specials g = specials a.g
  trap : traps g = traps a.g
  same : identity g = identity a.g

/-! ## Register writes -/

/-- The value a list of register writes leaves in a vector register. -/
def lastV (ws : List RegWrite) (n : Nat) (old : VReg) : VReg := ws.foldl (fun x w => match w with
  | .v m y => if m = n then y else x
  | _ => x) old
/-- The value a list of register writes leaves in a scalar register. -/
def lastS (ws : List RegWrite) (n : Nat) (old : DWord) : DWord := ws.foldl (fun x w => match w with
  | .s m y => if m = n then y else x
  | _ => x) old
/-- The value a list of register writes leaves in a predicate register. -/
def lastP (ws : List RegWrite) (n : Nat) (old : LaneMask) : LaneMask := ws.foldl (fun x w => match w with
  | .p m y => if m = n then y else x
  | _ => x) old

/-- The group's registers but the listed ones are as they were. -/
structure RegsBut (a : At) (g : Group) (vw sw pw : List Nat) : Prop where
  v : ∀ n, n ∉ vw → g.vget n = a.g.vget n
  s : ∀ n, n ∉ sw → g.sget n = a.g.sget n
  p : ∀ n, n ∉ pw → g.pget n = a.g.pget n

/-- Nothing outside the issuing group and its core's tables has changed: every byte of memory, every other group, every
block with its tiles, barriers and templates, every other part of the machine. -/
structure Alone (s t : State) (a : At) : Prop where
  memory : ∀ c, readCell t.mem c = readCell s.mem c
  groups : ∀ r, r ≠ a.r → AList.get? t.groups r = AList.get? s.groups r
  rest : t.toSys = { s.toSys with groups := t.groups, cores := t.cores }

/-! ## A group that a step has moved -/

/-- The group g that a step leaves where fragment a's stood: its special and trap registers and its identity are as they
were. -/
structure KeptGroup (t : State) (a : At) (g : Group) : Prop where
  group : AList.get? t.groups a.r = some g
  special : specials g = specials a.g
  trap : traps g = traps a.g
  same : identity g = identity a.g

/-- As `Alone`, the group's block apart: the block itself keeps everything but what a statement names. -/
structure AloneInBlock (s t : State) (a : At) (b : Block) : Prop where
  memory : ∀ c, readCell t.mem c = readCell s.mem c
  groups : ∀ r, r ≠ a.r → AList.get? t.groups r = AList.get? s.groups r
  block : AList.get? t.blocks a.g.block = some b
  blocks : ∀ k, k ≠ a.g.block → AList.get? t.blocks k = AList.get? s.blocks k
  rest : t.toSys = { s.toSys with groups := t.groups, cores := t.cores, blocks := t.blocks }

/-! ## Faults and traps -/

/-- Nothing delays the delivery of a fault: no V-class result is outstanding, no late fault waits, no region is open, and the
context is not draining (05 R108, R110). -/
structure Calm (s : State) (a : At) : Prop where
  settled : a.g.outstanding = false
  late : a.g.late = none
  plain : a.g.region = none
  staying : (AList.getD s.contexts (pkgOf a.r.chip, a.g.ctx) {}).st ≠ .draining

/-- The handler address of the group's context (05 R103). -/
def handlerOf (s : State) (a : At) : Nat := (AList.getD s.contexts (pkgOf a.r.chip, a.g.ctx) {}).handler

/-- A fault or trap has been taken: the trap registers hold its cause, detail and value, the address tpc, and the fragment's
lanes and mode state; the registers, the special registers, the other fragments and every byte of memory are as they were.
With a handler, outside handler mode, the fragment continues at the handler's address under the reset `%mode`, and the
group's other fragments wait; else the group stops (05 R110 to R112). -/
structure Taken (s t : State) (a : At) (code detail : Nat) (value : Option DWord) (tpc : DWord) (g : Group) (e : Entry) :
    Prop where
  group : AList.get? t.groups a.r = some g
  entry : AList.get? g.entries a.ei = some e
  cause : g.tcause = tcauseOf code detail value.isSome
  address : g.tpc = tpc
  lanes : g.tmask = a.e.lanes
  value : g.tval = value.getD 0
  mode : g.tmode = applied a.e.mode a.e.pending
  fmt : g.tfmt = a.e.fmt
  special : specials g = specials a.g
  regs : RegsBut a g [] [] []
  others : ∀ j, j ≠ a.ei → AList.get? g.entries j = AList.get? a.g.entries j
  kept : e.lanes = a.e.lanes
  memory : ∀ c, readCell t.mem c = readCell s.mem c
  enters : handlerOf s a ≠ 0 → a.g.handler = none →
    g.handler = some a.ei ∧ e.pc = BitVec.ofNat 64 (handlerOf s a) ∧ e.mode = 0x0000014F ∧ e.pending = none ∧ g.st = a.g.st
  stops : handlerOf s a = 0 ∨ a.g.handler ≠ none →
    g.handler = a.g.handler ∧ e.pc = tpc ∧ g.st = .stopped ∧ g.stopCause = some .fault

/-! ## Events -/

/-- A chip as a state holds it. -/
def chipAt (s : State) (chip : Nat) : Chip := AList.getD s.chips chip {}

/-- An event record has been made: on the ring where it has room, and held in order where it has not (05 R122, R467). -/
def Tells (s t : State) (chip code ctx : Nat) : Prop :=
  let named := fun (bs : List Byte) => bs.take 2 = bytesOf 1 code ++ bytesOf 1 ctx
  ((chipAt s chip).eventRoom ≠ 0 → (chipAt s chip).eventHeld = [] → ∃ bs, .event chip bs ∈ t.outputs ∧ named bs) ∧
  ((chipAt s chip).eventRoom = 0 ∨ (chipAt s chip).eventHeld ≠ [] → ∃ bs ∈ (chipAt t chip).eventHeld, named bs)

/-! ## The machine's operations, as statements name them -/

/-- A sound state as the named operations see it. -/
def machine (s : State) (h : s.memWf) : W := ⟨s.toSys, ⟨s.mem, h⟩⟩

/-- The slot of a group by its block and `%gid`. -/
def slotOf (s : State) (block gid : Nat) : Option GroupRef :=
  (s.groups.find? fun g => g.2.block == block && g.2.gid == gid).map Prod.fst

/-- The live lanes of a group by its block and `%gid`: none for a group that is gone (10 R224). -/
def liveOf (s : State) (block gid : Nat) : LaneMask :=
  (((slotOf s block gid).bind fun r => AList.get? s.groups r).map Group.live).getD 0

end Sys2Proof.Statement
end

