-- ==== Sys2Proof/Certificates/Slice0/Obligations.lean ====
section
/-! DEFINITION. The statements for the provers. -/
open Sys2Proof Sys2Proof.Machine Sys2Proof.Statement

namespace Sys2Proof.Statement

/-! ## Scalar words -/

/-- What the spec says of a scalar word: its switch marker, the registers it reads, its destination and its result. -/
structure ScalarWord where
  k : Bool
  reads : List Nat
  dest : Nat
  result : DWord

/-- A shift amount of the SB class: bits [5:0] of the second operand. -/
def amount (x : DWord) : Nat := x.toNat % 64

/-- 1 where a condition holds, else 0. -/
def oneIf (c : Bool) : DWord := if c then 1 else 0

/-- The table of 09 R220 and the two rows of R221, with the immediates of 03 R61. -/
def scalarWord (x : At) : Instr → Option ScalarWord
  | .sadd k d a b => some ⟨k, [a.toNat, b.toNat], d.toNat, x.sval a.toNat + x.sval b.toNat⟩
  | .ssub k d a b => some ⟨k, [a.toNat, b.toNat], d.toNat, x.sval a.toNat - x.sval b.toNat⟩
  | .smul k d a b => some ⟨k, [a.toNat, b.toNat], d.toNat, x.sval a.toNat * x.sval b.toNat⟩
  | .smulh k d a b => some ⟨k, [a.toNat, b.toNat], d.toNat,
      BitVec.ofInt 64 ((x.sval a.toNat).toInt * (x.sval b.toNat).toInt / 18446744073709551616)⟩
  | .sdiv k d a b => some ⟨k, [a.toNat, b.toNat], d.toNat,
      if x.sval b.toNat = 0 then -1 else BitVec.ofInt 64 ((x.sval a.toNat).toInt.tdiv (x.sval b.toNat).toInt)⟩
  | .srem k d a b => some ⟨k, [a.toNat, b.toNat], d.toNat,
      if x.sval b.toNat = 0 then x.sval a.toNat
      else BitVec.ofInt 64 ((x.sval a.toNat).toInt.tmod (x.sval b.toNat).toInt)⟩
  | .smin k d a b => some ⟨k, [a.toNat, b.toNat], d.toNat,
      if (x.sval b.toNat).slt (x.sval a.toNat) then x.sval b.toNat else x.sval a.toNat⟩
  | .smax k d a b => some ⟨k, [a.toNat, b.toNat], d.toNat,
      if (x.sval a.toNat).slt (x.sval b.toNat) then x.sval b.toNat else x.sval a.toNat⟩
  | .sand k d a b => some ⟨k, [a.toNat, b.toNat], d.toNat, x.sval a.toNat &&& x.sval b.toNat⟩
  | .sor k d a b => some ⟨k, [a.toNat, b.toNat], d.toNat, x.sval a.toNat ||| x.sval b.toNat⟩
  | .sxor k d a b => some ⟨k, [a.toNat, b.toNat], d.toNat, x.sval a.toNat ^^^ x.sval b.toNat⟩
  | .sshl k d a b => some ⟨k, [a.toNat, b.toNat], d.toNat, x.sval a.toNat <<< amount (x.sval b.toNat)⟩
  | .sshr k d a b => some ⟨k, [a.toNat, b.toNat], d.toNat, x.sval a.toNat >>> amount (x.sval b.toNat)⟩
  | .ssra k d a b => some ⟨k, [a.toNat, b.toNat], d.toNat, (x.sval a.toNat).sshiftRight (amount (x.sval b.toNat))⟩
  | .sslt k d a b => some ⟨k, [a.toNat, b.toNat], d.toNat, oneIf ((x.sval a.toNat).slt (x.sval b.toNat))⟩
  | .ssln k d a b => some ⟨k, [a.toNat, b.toNat], d.toNat, oneIf ((x.sval a.toNat).ult (x.sval b.toNat))⟩
  | .saddi k d a i => some ⟨k, [a.toNat], d.toNat, x.sval a.toNat + i.signExtend 64⟩
  | .sandi k d a i => some ⟨k, [a.toNat], d.toNat, x.sval a.toNat &&& i.signExtend 64⟩
  | .sori k d a i => some ⟨k, [a.toNat], d.toNat, x.sval a.toNat ||| i.signExtend 64⟩
  | .sxori k d a i => some ⟨k, [a.toNat], d.toNat, x.sval a.toNat ^^^ i.signExtend 64⟩
  | .sshli k d a i => some ⟨k, [a.toNat], d.toNat, x.sval a.toNat <<< i.toNat⟩
  | .sshri k d a i => some ⟨k, [a.toNat], d.toNat, x.sval a.toNat >>> i.toNat⟩
  | .ssrai k d a i => some ⟨k, [a.toNat], d.toNat, (x.sval a.toNat).sshiftRight i.toNat⟩
  | .sslti k d a i => some ⟨k, [a.toNat], d.toNat, oneIf ((x.sval a.toNat).slt (i.signExtend 64))⟩
  | .sli k d i => some ⟨k, [], d.toNat, i.signExtend 64⟩
  | .slu k d i => some ⟨k, [d.toNat], d.toNat, x.sval d.toNat * 262144 + i.setWidth 64⟩
  | _ => none

end Sys2Proof.Statement

/-- Every scalar word of classes SA, SB, SI and SL completes: it writes its one destination with the result of its row,
whatever the guard and the lanes, sets no flag, and changes no other register, no special register, no memory (09 R204,
R220, R221). -/
def Obligations.ScalarWords : Prop :=
  ∀ (s : State) (a : At) (i : Instr) (z : ScalarWord), scalarWord a i = some z →
    Free s a i z.k { sr := z.reads, sw := [z.dest] } → HasRoom a {} →
    ∃ t g e, exec i s = .next t ∧ Kept t a g e ∧ e.pc = a.e.pc + 4 ∧ Alone s t a ∧ RegsBut a g [] [z.dest] [] ∧
      g.sget z.dest = z.result ∧ g.fflags = a.g.fflags

namespace Sys2Proof.Statement

/-! ## Vector words of classes VR, VU, VS and VI -/

/-- What the spec says of a vector word: its switch marker, the registers it reads, its destination and the type whose form it
writes there, whether it accepts the types in force, whether its register pairs are even, the lanes it writes, and the result
of a lane in lane form with its flags. -/
structure VectorWord where
  k : Bool
  reads : List Nat
  scalars : List Nat := []
  dest : Nat
  form : EType
  accepts : Bool
  even : Bool
  lanes : LaneMask
  result : Nat → LaneRes
  flags : Flags := lanesFlags lanes result

/-- The destination registers: one, or the pair of a 64-bit type (02 R27). -/
def VectorWord.dests (z : VectorWord) : List Nat := regsOf z.form z.dest

/-- A word whose vector operands are all of `%mode.E`: sources, destination, and the result of a lane (09 R207). -/
def ofE (x : At) (k : Bool) (accept : EType → Bool) (src : List Nat) (d : Nat) (f : Nat → LaneRes) : VectorWord :=
  { k := k, reads := src.flatMap (regsOf x.ty), dest := d, form := x.ty
    accepts := x.etype.isSome && accept x.ty
    even := !is64 x.ty || (src ++ [d]).all fun n => n % 2 == 0
    lanes := x.enabled, result := f }

/-- Two vector operands (09 R208). -/
def two (x : At) (k : Bool) (accept : EType → Bool) (d a b : BitVec 7) (f : EType → NumMode → Nat → Nat → LaneRes) :
    VectorWord :=
  ofE x k accept [a.toNat, b.toNat] d.toNat fun l => f x.ty x.num (x.elem x.ty a.toNat l) (x.elem x.ty b.toNat l)

/-- A shift by the low register of the second operand (09 R209). -/
def shift (x : At) (k : Bool) (d a b : BitVec 7) (f : EType → Nat → Nat → LaneRes) : VectorWord :=
  ofE x k isInteger [a.toNat, b.toNat] d.toNat fun l => f x.ty (x.elem x.ty a.toNat l) (x.lane b.toNat l)

/-- One vector operand (09 R213). -/
def one (x : At) (k : Bool) (accept : EType → Bool) (d a : BitVec 7) (f : EType → NumMode → Nat → LaneRes) : VectorWord :=
  ofE x k accept [a.toNat] d.toNat fun l => f x.ty x.num (x.elem x.ty a.toNat l)

/-- Two vector operands and the destination as third (09 R213). -/
def three (x : At) (k : Bool) (accept : EType → Bool) (d a b : BitVec 7)
    (f : EType → NumMode → Nat → Nat → Nat → LaneRes) : VectorWord :=
  ofE x k accept [a.toNat, b.toNat, d.toNat] d.toNat fun l =>
    f x.ty x.num (x.elem x.ty a.toNat l) (x.elem x.ty b.toNat l) (x.elem x.ty d.toNat l)

/-- A vector operand and the low bits of a scalar (09 R218). -/
def withScalar (x : At) (k : Bool) (accept : EType → Bool) (c : BitVec 8) (d a : BitVec 7)
    (f : EType → NumMode → Nat → Nat → LaneRes) : VectorWord :=
  { ofE x k accept [a.toNat] d.toNat fun l =>
      f x.ty x.num (x.elem x.ty a.toNat l) ((x.sval c.toNat).toNat % 2 ^ widthOf x.ty) with scalars := [c.toNat] }

/-- A shift by a scalar's bits [31:0] (09 R218). -/
def shiftScalar (x : At) (k : Bool) (c : BitVec 8) (d a : BitVec 7) (f : EType → Nat → Nat → LaneRes) : VectorWord :=
  { ofE x k isInteger [a.toNat] d.toNat fun l => f x.ty (x.elem x.ty a.toNat l) ((x.sval c.toNat).toNat % 2 ^ 32) with
    scalars := [c.toNat] }

/-- A vector operand and an immediate sign-extended to the element's width (09 R219). -/
def withImm (x : At) (k : Bool) (d a : BitVec 7) (i : BitVec 10) (f : EType → NumMode → Nat → Nat → LaneRes) : VectorWord :=
  ofE x k isInteger [a.toNat] d.toNat fun l =>
    f x.ty x.num (x.elem x.ty a.toNat l) (unsignedOf (widthOf x.ty) (signedOf 10 i.toNat))

/-- A shift by an immediate (09 R219). -/
def shiftImm (x : At) (k : Bool) (d a : BitVec 7) (i : BitVec 6) (f : EType → Nat → Nat → LaneRes) : VectorWord :=
  ofE x k isInteger [a.toNat] d.toNat fun l => f x.ty (x.elem x.ty a.toNat l) i.toNat

/-- Raw logic of the width. -/
def logic (f : Nat → Nat → Nat) (t : EType) (_ : NumMode) (p q : Nat) : LaneRes := plainLane t (f p q)

/-- The fixed-latency rows of 09 R208 to R219. -/
def vectorWord (x : At) : Instr → Option VectorWord
  | .vadd k d a b => some (two x k notE4m3 d a b lnAdd)
  | .vsub k d a b => some (two x k notE4m3 d a b lnSub)
  | .vmul k d a b => some (two x k notE4m3 d a b lnMul)
  | .vmulh k d a b => some (two x k isInteger d a b fun t _ => lnMulh t)
  | .vmin k d a b => some (two x k anyType d a b fun t m => lnMinMax t m false)
  | .vmax k d a b => some (two x k anyType d a b fun t m => lnMinMax t m true)
  | .vand k d a b => some (two x k anyType d a b (logic Nat.land))
  | .vor k d a b => some (two x k anyType d a b (logic Nat.lor))
  | .vxor k d a b => some (two x k anyType d a b (logic Nat.xor))
  | .vshl k d a b => some (shift x k d a b lnShl)
  | .vshr k d a b => some (shift x k d a b lnShr)
  | .vsra k d a b => some (shift x k d a b lnSra)
  | .vrot k d a b => some (shift x k d a b lnRot)
  | .vsel k d a b => some { ofE x k anyType [a.toNat, b.toNat] d.toNat fun l =>
      plainLane x.ty (x.elem x.ty (if laneAt x.guard l then a.toNat else b.toNat) l) with lanes := x.e.lanes, flags := 0 }
  | .vabsd k d a b => some (two x k notE4m3 d a b lnAbsd)
  | .vcsgn k d a b => some (two x k signedOrFloat d a b lnCsgn)
  | .vpk k d a b => some { ofE x k narrowType [a.toNat, b.toNat] d.toNat fun l =>
        lnPk x.xty x.ty x.num (x.elem x.xty a.toNat l) (x.elem x.xty b.toNat l) with
      form := .i32
      accepts := x.etype.isSome && narrowType x.ty && (etypeOf (modeX x.e.mode)).isSome && !is64 x.xty }
  | .vmad k d a b => some (three x k notE4m3 d a b fun t m => lnMad t m false)
  | .vmsb k d a b => some (three x k notE4m3 d a b fun t m => lnMad t m true)
  | .vclmp k d a b => some (three x k anyType d a b lnClmp)
  | .vdot4 k d a b => some { ofE x k dotType [a.toNat, b.toNat, d.toNat] d.toNat fun l =>
      lnDot4 x.ty x.num (x.lane a.toNat l) (x.lane b.toNat l) (x.lane d.toNat l) with form := .i32 }
  | .vmov k d a => some (one x k anyType d a fun t _ => plainLane t)
  | .vneg k d a => some (one x k signedOrFloat d a lnNeg)
  | .vabs k d a => some (one x k signedOrFloat d a lnAbs)
  | .vnot k d a => some (one x k anyType d a fun t _ => lnNot t)
  | .vclz k d a => some (one x k anyType d a fun t _ => lnClz t)
  | .vpop k d a => some (one x k anyType d a fun t _ => lnPop t)
  | .vbrev k d a => some (one x k anyType d a fun t _ => lnBrev t)
  | .vcvt k d a => some { ofE x k anyType [] d.toNat fun l => lnCvt x.xty x.ty x.num (x.elem x.xty a.toNat l) with
      reads := regsOf x.xty a.toNat
      accepts := x.etype.isSome && (etypeOf (modeX x.e.mode)).isSome
      even := (!is64 x.xty || a.toNat % 2 == 0) && (!is64 x.ty || d.toNat % 2 == 0) }
  | .vfloor k d a => some (one x k isArithFloat d a (lnUnary .floor))
  | .vceil k d a => some (one x k isArithFloat d a (lnUnary .ceil))
  | .vtrunc k d a => some (one x k isArithFloat d a (lnUnary .trunc))
  | .vrint k d a => some (one x k isArithFloat d a (lnUnary .rint))
  | .vfrac k d a => some (one x k isArithFloat d a (lnUnary .frac))
  | .vclass k d a => some { one x k anyFloat d a (fun t _ => lnClass t) with form := .n32, flags := 0 }
  | .vfree k d => some { k := k, reads := [], dest := d.toNat, form := .n32, accepts := true, even := true,
                         lanes := 0xFFFFFFFF, result := fun _ => (0, 0), flags := 0 }
  | .vadds k c d a => some (withScalar x k notE4m3 c d a lnAdd)
  | .vsubs k c d a => some (withScalar x k notE4m3 c d a lnSub)
  | .vrsubs k c d a => some (withScalar x k notE4m3 c d a fun t m p q => lnSub t m q p)
  | .vmuls k c d a => some (withScalar x k notE4m3 c d a lnMul)
  | .vmads k c d a => some { ofE x k notE4m3 [a.toNat, d.toNat] d.toNat fun l =>
        lnMad x.ty x.num false (x.elem x.ty a.toNat l) ((x.sval c.toNat).toNat % 2 ^ widthOf x.ty)
          (x.elem x.ty d.toNat l) with scalars := [c.toNat] }
  | .vmins k c d a => some (withScalar x k anyType c d a fun t m => lnMinMax t m false)
  | .vmaxs k c d a => some (withScalar x k anyType c d a fun t m => lnMinMax t m true)
  | .vands k c d a => some (withScalar x k anyType c d a (logic Nat.land))
  | .vors k c d a => some (withScalar x k anyType c d a (logic Nat.lor))
  | .vxors k c d a => some (withScalar x k anyType c d a (logic Nat.xor))
  | .vshls k c d a => some (shiftScalar x k c d a lnShl)
  | .vshrs k c d a => some (shiftScalar x k c d a lnShr)
  | .vsras k c d a => some (shiftScalar x k c d a lnSra)
  | .vbcs k c d => some { ofE x k anyType [] d.toNat fun _ =>
      plainLane x.ty ((x.sval c.toNat).toNat % 2 ^ widthOf x.ty) with scalars := [c.toNat] }
  | .vaddi k d a i => some (withImm x k d a i lnAdd)
  | .vmuli k d a i => some (withImm x k d a i lnMul)
  | .vandi k d a i => some (withImm x k d a i (logic Nat.land))
  | .vori k d a i => some (withImm x k d a i (logic Nat.lor))
  | .vxori k d a i => some (withImm x k d a i (logic Nat.xor))
  | .vshli k d a i => some (shiftImm x k d a i lnShl)
  | .vshri k d a i => some (shiftImm x k d a i lnShr)
  | .vsrai k d a i => some (shiftImm x k d a i lnSra)
  | _ => none

/-- The variable-latency rows of 09 R208 and R213 (03 R56). -/
def lateVectorWord (x : At) : Instr → Option VectorWord
  | .vdiv k d a b => some (two x k notE4m3 d a b lnDiv)
  | .vrem k d a b => some (two x k isInteger d a b fun t _ => lnRem t)
  | .vrcp k d a => some (one x k isArithFloat d a (lnUnary .rcp))
  | .vrsq k d a => some (one x k isArithFloat d a (lnUnary .rsq))
  | .vsqrt k d a => some (one x k isArithFloat d a (lnUnary .sqrt))
  | .vexp2 k d a => some (one x k isArithFloat d a (lnUnary .exp2))
  | .vlog2 k d a => some (one x k isArithFloat d a (lnUnary .log2))
  | .vsin k d a => some (one x k isArithFloat d a (lnUnary .sin))
  | .vcos k d a => some (one x k isArithFloat d a (lnUnary .cos))
  | _ => none

/-- The destination registers of a vector word, lane by lane: results in the written lanes, the old bits in the others
(02 R25, R27; 09 R207). -/
def Holds (v : Nat → VReg) (a : At) (z : VectorWord) : Prop :=
  (∀ l, l < 32 → laneOf (v z.dest) l =
    if laneAt z.lanes l then BitVec.ofNat 32 (z.result l).1 else laneOf (a.g.vget z.dest) l) ∧
  (is64 z.form = true → ∀ l, l < 32 → laneOf (v (z.dest + 1)) l =
    if laneAt z.lanes l then BitVec.ofNat 32 ((z.result l).1 / 2 ^ 32) else laneOf (a.g.vget (z.dest + 1)) l)

end Sys2Proof.Statement

/-- Every fixed-latency word of classes VR, VU, VS and VI completes on the types its row accepts: each written lane of its
destination holds the row's result, every other lane keeps its bits, the lanes' flags are set, and no other register, no
special register, no memory changes (09 R207 to R219). -/
def Obligations.VectorWords : Prop :=
  ∀ (s : State) (a : At) (i : Instr) (z : VectorWord), vectorWord a i = some z → z.accepts = true → z.even = true →
    Free s a i z.k { vr := z.reads, vw := z.dests, sr := z.scalars } → HasRoom a (writing z.lanes z.dests) →
    ∃ t g e, exec i s = .next t ∧ Kept t a g e ∧ e.pc = a.e.pc + 4 ∧ Alone s t a ∧ RegsBut a g z.dests [] [] ∧
      Holds g.vget a z ∧ g.fflags = a.g.fflags ||| z.flags ∧ g.ops = a.g.ops

/-- Every variable-latency word of classes VR and VU completes: its result is computed from the operands at issue and waits
as the group's youngest operation, and no register and no flag changes yet (03 R56; 09 R208, R213). -/
def Obligations.LateVectorWords : Prop :=
  ∀ (s : State) (a : At) (i : Instr) (z : VectorWord), lateVectorWord a i = some z → z.accepts = true → z.even = true →
    Free s a i z.k { vr := z.reads, vw := z.dests } → HasRoom a (writing z.lanes z.dests) →
    ∃ t g e o ws, exec i s = .next t ∧ Kept t a g e ∧ e.pc = a.e.pc + 4 ∧ Alone s t a ∧ RegsBut a g [] [] [] ∧
      g.fflags = a.g.fflags ∧ g.ops = a.g.ops ++ [o] ∧ o.id = a.g.nextOp ∧ o.isV = true ∧ o.kind = .value ws ∧
      o.flags = z.flags ∧ Holds (fun n => lastV ws n (a.g.vget n)) a z

namespace Sys2Proof.Statement

/-! ## Lane exchange, votes, scans and predicates -/

/-- A word that moves 32-bit lanes whatever `%mode.E` holds (08 R176). -/
def moving (x : At) (k : Bool) (reads : List Nat) (d : BitVec 7) (f : Nat → Word) : VectorWord :=
  { k := k, reads := reads, dest := d.toNat, form := .n32, accepts := true, even := true, lanes := x.enabled
    result := fun l => ((f l).toNat, 0), flags := 0 }

/-- The sum of some lanes in order, as the loop of 08 R180 keeps it: none before the first lane, and the flags. -/
def sumLanes (t : EType) (nm : NumMode) (elem : Nat → Nat) (ls : List Nat) : Option Nat × Flags :=
  ls.foldl (fun acc l => match acc.1 with
    | none => (some (lnRead t nm (elem l)).1, acc.2 ||| (lnRead t nm (elem l)).2)
    | some y => (some ((lnAdd t nm y (elem l)).1 % 2 ^ widthOf t), acc.2 ||| (lnAdd t nm y (elem l)).2)) (none, 0)

/-- The rows of 08 R177, `stov` of R178, `vscan` of R180 and `ptov` of R175. -/
def exchangeWord (x : At) : Instr → Option VectorWord
  | .vbfly k d a m => some (moving x k [a.toNat] d fun l => laneOf (x.g.vget a.toNat) (Nat.xor l m.toNat))
  | .vshfl k d a i => some (moving x k [a.toNat, i.toNat] d fun l =>
      laneOf (x.g.vget a.toNat) ((laneOf (x.g.vget i.toNat) l).toNat % 32))
  | .vbcast k d a b => some (moving x k [a.toNat] d fun _ => laneOf (x.g.vget a.toNat) b.toNat)
  | .vrotl k d a r => some (moving x k [a.toNat] d fun l => laneOf (x.g.vget a.toNat) ((l + r.toNat) % 32))
  | .vlane k d => some (moving x k [] d fun l => BitVec.ofNat 32 l)
  | .vtid k d => some { moving x k [] d (fun _ => 0) with result := fun l => (x.g.tidOf l, 0) }
  | .stov k d c b => some { ofE x k anyType [] d.toNat (fun _ => ((x.sval c.toNat).toNat, 0)) with
      scalars := [c.toNat], lanes := x.enabled &&& (1 <<< b.toNat), flags := 0 }
  | .vscan k d a => some { ofE x k scanType [a.toNat] d.toNat (fun l =>
        plainLane x.ty (((sumLanes x.ty x.num (x.elem x.ty a.toNat)
          ((lanesIn x.enabled).filter fun j => decide (j ≤ l))).1).getD 0)) with
      flags := (sumLanes x.ty x.num (x.elem x.ty a.toNat) (lanesIn x.enabled)).2 }
  | .ptov k p d => some (moving x k [] d fun l => if laneAt (x.g.pget p.toNat) l then 1 else 0)
  | _ => none

/-- What the spec says of a word that takes its result to a scalar register. -/
structure VoteWord where
  k : Bool
  reads : List Nat
  dest : Nat
  accepts : Bool := true
  even : Bool := true
  result : DWord
  flags : Flags := 0

/-- The votes of 08 R179 and `vred` of R180. -/
def voteWord (x : At) : Instr → Option VoteWord
  | .vballot k d p => some { k := k, reads := [], dest := d.toNat, result := (x.g.pget p.toNat &&& x.enabled).setWidth 64 }
  | .vfind k d p => some { k := k, reads := [], dest := d.toNat
                           result := match lanes.find? fun l => laneAt x.enabled l && laneAt (x.g.pget p.toNat) l with
                             | some l => BitVec.ofNat 64 l
                             | none => 32 }
  | .vred k d a => some
      { k := k, reads := regsOf x.ty a.toNat, dest := d.toNat
        accepts := x.etype.isSome && scanType x.ty
        even := !is64 x.ty || a.toNat % 2 == 0
        result := widen64 x.ty (((sumLanes x.ty x.num (x.elem x.ty a.toNat) (lanesIn x.enabled)).1).getD 0)
        flags := (sumLanes x.ty x.num (x.elem x.ty a.toNat) (lanesIn x.enabled)).2 }
  | _ => none

/-- What the spec says of a word that writes a predicate. -/
structure PredicateWord where
  k : Bool
  reads : List Nat := []
  dest : Nat
  accepts : Bool := true
  even : Bool := true
  records : LaneMask := 0
  result : Nat → Bool
  flags : Flags := 0

/-- The lanes for which a compare in an open region records a constraint (16 R379). -/
def recorded (x : At) (op : Cmp) (a b : Nat) : LaneMask :=
  match x.g.region with
  | none => 0
  | some rg => lanesWhere x.enabled fun l => (constraintOf x rg op a b l false).isSome

/-- A compare of two vector operands of `%mode.E` (08 R174). -/
def comparing (x : At) (k : Bool) (accept : EType → Bool) (d : BitVec 4) (a b : BitVec 7) (op : Cmp) : PredicateWord :=
  let f := fun l => lnCmp op x.ty x.num (x.elem x.ty a.toNat l) (x.elem x.ty b.toNat l)
  { k := k, reads := regsOf x.ty a.toNat ++ regsOf x.ty b.toNat, dest := d.toNat
    accepts := x.etype.isSome && accept x.ty
    even := !is64 x.ty || (a.toNat % 2 == 0 && b.toNat % 2 == 0)
    records := recorded x op a.toNat b.toNat
    result := fun l => (f l).1
    flags := (lanesIn x.enabled).foldl (fun acc l => acc ||| (f l).2) 0 }

/-- The rows of 08 R174 and R175 that write a predicate. -/
def predicateWord (x : At) : Instr → Option PredicateWord
  | .vceq k d a b => some (comparing x k anyType d a b .eq)
  | .vcne k d a b => some (comparing x k anyType d a b .ne)
  | .vclt k d a b => some (comparing x k anyType d a b .lt)
  | .vcle k d a b => some (comparing x k anyType d a b .le)
  | .vcun k d a b => some (comparing x k anyFloat d a b .un)
  | .pand k d a b => some { k := k, dest := d.toNat, result := fun l => laneAt (x.g.pget a.toNat &&& x.g.pget b.toNat) l }
  | .por k d a b => some { k := k, dest := d.toNat, result := fun l => laneAt (x.g.pget a.toNat ||| x.g.pget b.toNat) l }
  | .pxor k d a b => some { k := k, dest := d.toNat, result := fun l => laneAt (x.g.pget a.toNat ^^^ x.g.pget b.toNat) l }
  | .pandn k d a b => some { k := k, dest := d.toNat, result := fun l => laneAt (x.g.pget a.toNat &&& ~~~x.g.pget b.toNat) l }
  | .pnot k d a => some { k := k, dest := d.toNat, result := fun l => laneAt (~~~x.g.pget a.toNat) l }
  | .pmov k d a => some { k := k, dest := d.toNat, result := fun l => laneAt (x.g.pget a.toNat) l }
  | .pset k d e => some { k := k, dest := d.toNat, result := fun _ => e == 1 }
  | .pfromv k d a => some { k := k, reads := [a.toNat], dest := d.toNat
                            result := fun l => laneOf (x.g.vget a.toNat) l != 0 }
  | _ => none

end Sys2Proof.Statement

/-- `vbfly`, `vshfl`, `vbcast`, `vrotl`, `vlane`, `vtid`, `stov`, `vscan` and `ptov` complete: each written lane of the
destination holds the row's result, read from any lane whatever its state, every other lane keeps its bits, and no other
register, no special register, no memory changes (08 R175 to R178, R180). -/
def Obligations.ExchangeWords : Prop :=
  ∀ (s : State) (a : At) (i : Instr) (z : VectorWord), exchangeWord a i = some z → z.accepts = true → z.even = true →
    Free s a i z.k { vr := z.reads, vw := z.dests, sr := z.scalars } → HasRoom a (writing z.lanes z.dests) →
    ∃ t g e, exec i s = .next t ∧ Kept t a g e ∧ e.pc = a.e.pc + 4 ∧ Alone s t a ∧ RegsBut a g z.dests [] [] ∧
      Holds g.vget a z ∧ g.fflags = a.g.fflags ||| z.flags

/-- `vballot`, `vfind` and `vred` complete: the scalar holds the vote or the sum, and no other register, no special register,
no memory changes (08 R179, R180). -/
def Sys2Proof.Statement.VoteWords : Prop :=
  ∀ (s : State) (a : At) (i : Instr) (z : VoteWord), voteWord a i = some z → z.accepts = true → z.even = true →
    Free s a i z.k { vr := z.reads, sw := [z.dest] } → HasRoom a {} →
    ∃ t g e, exec i s = .next t ∧ Kept t a g e ∧ e.pc = a.e.pc + 4 ∧ Alone s t a ∧ RegsBut a g [] [z.dest] [] ∧
      g.sget z.dest = z.result ∧ g.fflags = a.g.fflags ||| z.flags

/-- The compares and the predicate operations complete: each enabled lane's bit of the predicate holds the row's result, every
other bit keeps its value, and no other register, no special register, no memory changes (08 R173 to R175). -/
def Sys2Proof.Statement.PredicateWords : Prop :=
  ∀ (s : State) (a : At) (i : Instr) (z : PredicateWord), predicateWord a i = some z → z.accepts = true → z.even = true →
    Free s a i z.k { vr := z.reads } → HasRoom a { constraints := z.records } →
    ∃ t g e, exec i s = .next t ∧ Kept t a g e ∧ e.pc = a.e.pc + 4 ∧ Alone s t a ∧ RegsBut a g [] [] [z.dest] ∧
      (∀ l, l < 32 → laneAt (g.pget z.dest) l = if laneAt a.enabled l then z.result l else laneAt (a.g.pget z.dest) l) ∧
      g.fflags = a.g.fflags ||| z.flags

/-- `vldx` completes where every enabled lane's index lies in the window: each enabled lane of vd holds that lane of the
register its index names, every other lane keeps its bits, and nothing else changes (09 R202). -/
def Sys2Proof.Statement.WindowLoad : Prop :=
  ∀ (s : State) (a : At) (k : Bool) (w : BitVec 2) (d i : BitVec 7),
    (∀ l, l < 32 → laneAt a.enabled l = true → a.lane i.toNat l < (a.g.windowOf w.toNat).2) →
    Free s a (.vldx k w d i) k { vr := i.toNat :: windowRegs a w.toNat i.toNat, vw := [d.toNat] } →
    HasRoom a (writing a.enabled [d.toNat]) →
    ∃ t g e, exec (.vldx k w d i) s = .next t ∧ Kept t a g e ∧ e.pc = a.e.pc + 4 ∧ Alone s t a ∧
      RegsBut a g [d.toNat] [] [] ∧ g.fflags = a.g.fflags ∧
      ∀ l, l < 32 → laneOf (g.vget d.toNat) l =
        if laneAt a.enabled l then laneOf (a.g.vget ((a.g.windowOf w.toNat).1 + a.lane i.toNat l)) l
        else laneOf (a.g.vget d.toNat) l

/-- `vstx` completes where every enabled lane's index lies in the window: a lane of a register holds that lane of v where the
lane is enabled and its index names the register, and its old bits everywhere else; nothing else changes (09 R203). -/
def Sys2Proof.Statement.WindowStore : Prop :=
  ∀ (s : State) (a : At) (k : Bool) (w : BitVec 2) (v i : BitVec 7),
    (∀ l, l < 32 → laneAt a.enabled l = true → a.lane i.toNat l < (a.g.windowOf w.toNat).2) →
    Free s a (.vstx k w v i) k { vr := [v.toNat, i.toNat], vw := windowRegs a w.toNat i.toNat } →
    HasRoom a { writes := fun l => if laneAt a.enabled l then [(a.g.windowOf w.toNat).1 + a.lane i.toNat l] else [] } →
    ∃ t g e, exec (.vstx k w v i) s = .next t ∧ Kept t a g e ∧ e.pc = a.e.pc + 4 ∧ Alone s t a ∧
      (∀ n, g.sget n = a.g.sget n) ∧ (∀ n, g.pget n = a.g.pget n) ∧ g.fflags = a.g.fflags ∧
      ∀ n l, l < 32 → laneOf (g.vget n) l =
        if laneAt a.enabled l && ((a.g.windowOf w.toNat).1 + a.lane i.toNat l == n) then laneOf (a.g.vget v.toNat) l
        else laneOf (a.g.vget n) l

/-- An index outside the window raises INDEX with the lowest-numbered such lane and its index, in `vldx` and `vstx`
alike: nothing else of the word happens (09 R202, R203; 05 R110). -/
def Sys2Proof.Statement.WindowIndex : Prop :=
  ∀ (s : State) (a : At) (k : Bool) (w : BitVec 2) (v i : BitVec 7) (j : Instr) (u : Use) (l : Nat),
    j = .vldx k w v i ∧ u = { vr := [i.toNat], vw := [v.toNat] } ∨
      j = .vstx k w v i ∧ u = { vr := [v.toNat, i.toNat] } →
    l < 32 → laneAt a.enabled l = true → (a.g.windowOf w.toNat).2 ≤ a.lane i.toNat l →
    (∀ m, m < l → laneAt a.enabled m = true → a.lane i.toNat m < (a.g.windowOf w.toNat).2) →
    Free s a j k u → a.g.region = none → a.g.late = none → a.g.outstanding = false →
    (AList.getD s.contexts (pkgOf a.r.chip, a.g.ctx) {}).st ≠ .draining →
    (AList.getD s.contexts (pkgOf a.r.chip, a.g.ctx) {}).handler ≠ 0 → a.g.handler = none →
    ∃ t g e, exec j s = .next t ∧ AList.get? t.groups a.r = some g ∧ AList.get? g.entries a.ei = some e ∧
      g.tcause = tcauseOf 0x0B l true ∧ g.tval = BitVec.ofNat 64 (a.lane i.toNat l) ∧ g.tpc = a.e.pc ∧
      e.pc = BitVec.ofNat 64 (AList.getD s.contexts (pkgOf a.r.chip, a.g.ctx) {}).handler ∧ RegsBut a g [] [] [] ∧
      ∀ c, readCell t.mem c = readCell s.mem c

namespace Sys2Proof.Statement

/-! ## Control flow -/

/-- What the spec says of a word that goes to one address: its switch marker, the scalars it reads, the scalar it writes with
its value, and the address. -/
structure Jump where
  k : Bool
  reads : List Nat := []
  link : Option (Nat × DWord) := none
  pc : DWord

/-- A PC-relative target: the word's address and four times the signed offset (03 R61). -/
def relative (x : At) {n : Nat} (o : BitVec n) : DWord := x.e.pc + 4 * o.signExtend 64

/-- The active lanes whose bit of a predicate has a branch's sense (08 R172). -/
def agreeing (x : At) (p : BitVec 4) (n : BitVec 1) : LaneMask :=
  x.e.lanes &&& (if n = 1 then x.g.pget p.toNat else ~~~x.g.pget p.toNat)

/-- The rows of 08 R172 that go to one address. -/
def jump (x : At) : Instr → Option Jump
  | .br k o => some { k := k, pc := relative x o }
  | .call k o => some { k := k, link := some (191, x.e.pc + 4), pc := relative x o }
  | .jmp k s => some { k := k, reads := [s.toNat], pc := x.sval s.toNat }
  | .ret k => some { k := k, reads := [191], pc := x.sval 191 }
  | .bp k p n o => some { k := k, pc := if agreeing x p n = x.e.lanes then relative x o else x.e.pc + 4 }
  | .bz k s o => some { k := k, reads := [s.toNat], pc := if x.sval s.toNat = 0 then relative x o else x.e.pc + 4 }
  | .bnz k s o => some { k := k, reads := [s.toNat], pc := if x.sval s.toNat = 0 then x.e.pc + 4 else relative x o }
  | .loop k s o => some { k := k, reads := [s.toNat], link := some (s.toNat, x.sval s.toNat - 1)
                          pc := if x.sval s.toNat = 1 then x.e.pc + 4 else relative x o }
  | _ => none

/-- The scalar registers a jump writes. -/
def Jump.writes (z : Jump) : List Nat := (z.link.map Prod.fst).toList

/-- Whether a jump takes its address from a scalar register. -/
def indirect : Instr → Bool
  | .jmp .. | .ret .. => true
  | _ => false

end Sys2Proof.Statement

/-- `br`, `call`, `jmp`, `ret`, `bp`, `bz`, `bnz` and `loop` complete: the fragment goes on at the row's address, `call`
writes s191 and `loop` its counter, and no other register, no flag, no special register, no memory changes (08 R172; 03 R61).
An address from a scalar register is a multiple of 4. -/
def Sys2Proof.Statement.JumpWords : Prop :=
  ∀ (s : State) (a : At) (i : Instr) (z : Jump), jump a i = some z → (indirect i = true → z.pc.toNat % 4 = 0) →
    Free s a i z.k { sr := z.reads, sw := z.writes } → HasRoom a {} →
    ∃ t g e, exec i s = .next t ∧ Kept t a g e ∧ e.pc = z.pc ∧ Alone s t a ∧ RegsBut a g [] z.writes [] ∧
      (∀ n v, z.link = some (n, v) → g.sget n = v) ∧ g.fflags = a.g.fflags

/-- `jmp` and `ret` to an address that is no multiple of 4 raise ALIGN with the address, before any effect (08 R172;
05 R110). -/
def Sys2Proof.Statement.MisalignedJump : Prop :=
  ∀ (s : State) (a : At) (i : Instr) (z : Jump), jump a i = some z → indirect i = true → z.pc.toNat % 4 ≠ 0 →
    Free s a i z.k { sr := z.reads } → Calm s a →
    ∃ t g e, exec i s = .next t ∧ Taken s t a 0x05 0 (some z.pc) a.e.pc g e

/-- `brd` completes where its lanes agree, as a branch, and where they do not, with a free entry, by a split: the taken lanes
go on at the target in the lowest free entry, with the fragment's mode state and its recorded rejoin address, and the others
at the next address; no register, no other fragment, no memory changes (08 R166, R172). -/
def Sys2Proof.Statement.DivergentBranch : Prop :=
  ∀ (s : State) (a : At) (k : Bool) (p : BitVec 4) (n : BitVec 1) (o : BitVec 18) (c : Nat), c < 32 →
    AList.get? a.g.entries c = none → (∀ j, j < c → AList.get? a.g.entries j ≠ none) →
    Free s a (.brd k p n o) k {} →
    HasRoom a { allowed := agreeing a p n == a.e.lanes || agreeing a p n == 0 } →
    ∃ t g, exec (.brd k p n o) s = .next t ∧ KeptGroup t a g ∧ Alone s t a ∧ RegsBut a g [] [] [] ∧
      g.fflags = a.g.fflags ∧
      (agreeing a p n = a.e.lanes → ∃ e, Kept t a g e ∧ e.pc = relative a o) ∧
      (agreeing a p n = 0 → a.e.lanes ≠ 0 → ∃ e, Kept t a g e ∧ e.pc = a.e.pc + 4) ∧
      (agreeing a p n ≠ a.e.lanes → agreeing a p n ≠ 0 →
        ∃ e d, AList.get? g.entries a.ei = some e ∧ AList.get? g.entries c = some d ∧
          (∀ j, j ≠ a.ei → j ≠ c → AList.get? g.entries j = AList.get? a.g.entries j) ∧
          e.st = a.e.st ∧ e.lanes = a.e.lanes &&& ~~~agreeing a p n ∧ e.pc = a.e.pc + 4 ∧ e.rcv = none ∧
          e.mode = a.e.mode ∧ e.fmt = a.e.fmt ∧ e.pending = a.e.pending.map PendingRestore.counted ∧
          e.rejoin = a.e.rejoin ∧ e.partner = a.e.partner ∧
          d.st = .run ∧ d.lanes = agreeing a p n ∧ d.pc = relative a o ∧ d.rcv = none ∧ d.mode = a.e.mode ∧
          d.fmt = a.e.fmt ∧ d.pending = e.pending ∧ d.rejoin = a.e.rcv ∧ d.partner = some a.ei ∧
          d.retMode = applied a.e.mode a.e.pending ∧ d.retFmt = a.e.fmt)

/-- `rcv` completes: it records the rejoin address of the fragment's next split and nothing else (08 R172). -/
def Sys2Proof.Statement.RejoinAddress : Prop :=
  ∀ (s : State) (a : At) (k : Bool) (o : BitVec 23), Free s a (.rcv k o) k {} → HasRoom a {} →
    ∃ t g e, exec (.rcv k o) s = .next t ∧ KeptGroup t a g ∧ AList.get? g.entries a.ei = some e ∧
      placing e = placing { a.e with rcv := some (relative a o) } ∧ e.mode = a.e.mode ∧ e.fmt = a.e.fmt ∧
      e.pc = a.e.pc + 4 ∧ (∀ j, j ≠ a.ei → AList.get? g.entries j = AList.get? a.g.entries j) ∧ Alone s t a ∧
      RegsBut a g [] [] [] ∧ g.fflags = a.g.fflags

/-- `join` completes: away from the fragment's target it only goes on; at the target of a lone pair whose other half waits
there, the two fuse: the child's entry is free, the partner holds both masks under the mode state from before the split, and
goes on past the join; no register, no memory changes (08 R168, R172). -/
def Sys2Proof.Statement.Fusion : Prop :=
  ∀ (s : State) (a : At) (k : Bool), Free s a (.join k) k {} → HasRoom a {} →
    (a.g.joinTarget a.ei ≠ some a.e.pc →
      ∃ t g e, exec (.join k) s = .next t ∧ Kept t a g e ∧ e.pc = a.e.pc + 4 ∧ Alone s t a ∧ RegsBut a g [] [] []) ∧
    ∀ (p c : Nat) (x y : Entry), p ≠ c → a.g.entries = [(p, x), (c, y)] → a.ei = p ∨ a.ei = c →
      y.partner = some p → x.partner = none → y.rejoin = some a.e.pc →
      (a.ei = p → y.st = .joinWait ∧ y.pc = a.e.pc) → (a.ei = c → x.st = .joinWait ∧ x.pc = a.e.pc) →
      ∃ t g e, exec (.join k) s = .next t ∧ KeptGroup t a g ∧ AList.get? g.entries c = none ∧
        AList.get? g.entries p = some e ∧ e.st = .run ∧ e.lanes = x.lanes ||| y.lanes ∧ e.mode = y.retMode ∧
        e.fmt = y.retFmt ∧ e.pending = none ∧ e.pc = a.e.pc + 4 ∧ Alone s t a ∧ RegsBut a g [] [] []

/-- `exit` completes outside a region, in a block no group of which waits at `regrp`: the fragment's lanes leave its group.
While others live the group goes on without them, the fragment's entry free unless it has unfused children; with the last lane
the group is RETIRING, its split table empty and every batch class sealed once more. No register, no byte of memory changes
(08 R169, R172; 06 R136). -/
def Sys2Proof.Statement.ExitWord : Prop :=
  ∀ (s : State) (a : At) (k : Bool), Free s a (.exit k) k {} → a.g.region = none → a.g.st = .active →
    (∀ b, AList.get? s.blocks a.g.block = some b → b.arrived = []) →
    ∃ t g, exec (.exit k) s = .next t ∧ AList.get? t.groups a.r = some g ∧ g.live = a.g.live &&& ~~~a.e.lanes ∧
      RegsBut a g [] [] [] ∧ g.fflags = a.g.fflags ∧ (∀ c, readCell t.mem c = readCell s.mem c) ∧
      (a.g.live &&& ~~~a.e.lanes ≠ 0 → g.st = .active ∧
        (a.g.children a.ei = [] → AList.get? g.entries a.ei = none)) ∧
      (a.g.live &&& ~~~a.e.lanes = 0 → g.st = .retiring ∧ g.entries = [] ∧ g.exitAt.1 = a.e.pc ∧
        ∀ c, c < 4 → (g.cls c).opened = [] ∨ 15 ≤ (a.g.cls c).sealed.length)

namespace Sys2Proof.Statement

/-! ## System words -/

/-- The `%mode` a `mode` immediate makes: bit 18 chooses the half that its value replaces (03 R78). -/
def newMode (old : Word) (i : BitVec 22) : Word :=
  if i.getLsbD 18 then (0 : BitVec 7) ++ i.extractLsb' 0 7 ++ old.extractLsb' 0 18
  else (0 : BitVec 7) ++ old.extractLsb' 18 7 ++ i.extractLsb' 0 18

/-- The pending restore a `mode` leaves: one of its own where its count n is not 0; else an earlier one of the other half
stays (03 R78, R79). -/
def newPending (old : Word) (i : BitVec 22) (p : Option PendingRestore) : Option PendingRestore :=
  let h := i.getLsbD 18
  let n := (i.extractLsb' 19 3).toNat
  if n = 0 then p.filter fun q => q.high != h
  else some { high := h, saved := if h then (old.extractLsb' 18 7).setWidth 18 else old.extractLsb' 0 18, count := n }

/-- The system registers that `srd` reads at once, `%fflags` apart (03 R84, R85). -/
def systemRegister (s : State) (x : At) : Nat → Option DWord
  | 0x000 => some (x.e.mode.setWidth 64)
  | 0x001 => some (x.e.fmt.setWidth 64)
  | 0x003 => some x.g.quor
  | 0x004 => (AList.get? s.blocks x.g.block).map fun b =>
      if b.engineHeld then BitVec.ofNat 64 (4 + b.engine.getD 0) else 0
  | 0x005 => some x.g.rgn
  | 0x007 => some x.g.ssp
  | 0x010 => some (BitVec.ofNat 64 (((lanesIn x.e.lanes).head?).getD 0))
  | 0x011 => some (BitVec.ofNat 64 (x.g.tidOf (((lanesIn x.e.lanes).head?).getD 0)))
  | 0x012 => some (BitVec.ofNat 64 x.g.gid)
  | 0x013 => (AList.get? s.blocks x.g.block).map fun b => BitVec.ofNat 64 b.bid
  | 0x014 => (AList.get? s.blocks x.g.block).bind fun b =>
      (AList.get? s.clusters b.cluster).map fun c => BitVec.ofNat 64 c.clid
  | 0x015 => (AList.get? s.blocks x.g.block).bind fun b => (AList.get? s.launches b.launch).map fun l =>
      BitVec.ofNat 64 (l.index % 2 ^ 32 + l.chip % 4 * 2 ^ 38 + l.qix * 2 ^ 32)
  | 0x016 => some (BitVec.ofNat 64 (x.r.chip % 4))
  | 0x017 => some (BitVec.ofNat 64 x.r.core)
  | 0x100 => some (x.g.tcause.setWidth 64)
  | 0x101 => some x.g.tpc
  | 0x102 => some (x.g.tmask.setWidth 64)
  | 0x103 => some x.g.tval
  | 0x104 => some (x.g.tmode.setWidth 64)
  | 0x105 => some (x.g.tfmt.setWidth 64)
  | 0x106 => some x.g.tscr
  | _ => none

/-- The trap registers after a write of one of them; `%tcause` keeps its reserved bits at zero (03 R84, R85; 05 R111). -/
def trapWrite (x : At) (n : Nat) (v : DWord) :
    Option (Word × DWord × Word × DWord × Word × Word × DWord × Option Nat) :=
  let g := x.g
  match n with
  | 0x100 => some (v.setWidth 32 &&& 0x00FF01FF, g.tpc, g.tmask, g.tval, g.tmode, g.tfmt, g.tscr, g.handler)
  | 0x101 => some (g.tcause, v, g.tmask, g.tval, g.tmode, g.tfmt, g.tscr, g.handler)
  | 0x102 => some (g.tcause, g.tpc, v.setWidth 32, g.tval, g.tmode, g.tfmt, g.tscr, g.handler)
  | 0x103 => some (g.tcause, g.tpc, g.tmask, v, g.tmode, g.tfmt, g.tscr, g.handler)
  | 0x104 => some (g.tcause, g.tpc, g.tmask, g.tval, v.setWidth 32, g.tfmt, g.tscr, g.handler)
  | 0x105 => some (g.tcause, g.tpc, g.tmask, g.tval, g.tmode, v.setWidth 32, g.tscr, g.handler)
  | 0x106 => some (g.tcause, g.tpc, g.tmask, g.tval, g.tmode, g.tfmt, v, g.handler)
  | _ => none

/-- The words of handler mode, and the uses of registers they make (03 R84; 05 R115). -/
def handlerWord : Instr → Option (Bool × Use)
  | .srd k d n => if 0x100 ≤ n.toNat then some (k, { sw := [d.toNat] }) else none
  | .swr k a n => if 0x100 ≤ n.toNat then some (k, { sr := [a.toNat] }) else none
  | .eret k => some (k, {})
  | _ => none

/-- A word that writes a reserved value into `%mode` or `%fmt` (03 R78, R83, R85). -/
def writesReserved (x : At) : Instr → Option (Bool × Use)
  | .mode k i => if modeReserved (newMode x.e.mode i) then some (k, {}) else none
  | .fmt k i => if fmtReserved (i.setWidth 32) then some (k, {}) else none
  | .swr k a n => if (n = 0 ∧ modeReserved ((x.sval a.toNat).setWidth 32)) ∨
      (n = 1 ∧ fmtReserved ((x.sval a.toNat).setWidth 32)) then some (k, { sr := [a.toNat] }) else none
  | _ => none

/-- The registers, predicates and index windows of a group are as at its region's `ab`, and the region is over (16 R385,
R387). -/
structure AtCheckpoint (g : Group) (rg : Region) : Prop where
  v : ∀ n, g.vget n = ((AList.get? rg.v n).map VMap.bits).getD 0
  s : g.s = rg.s
  p : g.p = rg.p
  windows : g.windows = rg.windows
  region : g.region = none

/-- The checkpoint of a region is back with its mode state, the fragment is at an address, and the region is over
(16 R385, R387). -/
structure Restored (g : Group) (rg : Region) (pc : DWord) (m : ModeState) : Prop extends AtCheckpoint g rg where
  entry : ∃ e, AList.get? g.entries rg.entry = some e ∧ e.pc = pc ∧ e.mode = m.mode ∧ e.fmt = m.fmt ∧ e.pending = m.pending

/-- A group whose fragment's `%mode` has reverted. -/
def revertedAs (g : Group) (i : Nat) (e : Entry) (m : Word) : Group :=
  { g with entries := AList.put g.entries i { e with mode := m, pending := none } }

end Sys2Proof.Statement

/-- `mode` and `fmt` complete: `mode` replaces one half of `%mode`, for good or for a count of instructions, `fmt`
replaces `%fmt`, and nothing else changes (03 R78, R79, R83). -/
def Sys2Proof.Statement.ModeWords : Prop :=
  ∀ (s : State) (a : At) (k : Bool) (i : BitVec 22) (j : Instr),
    j = .mode k i ∧ modeReserved (newMode a.e.mode i) = false ∨
      j = .fmt k i ∧ fmtReserved (i.setWidth 32) = false →
    Free s a j k {} → HasRoom a {} →
    ∃ t g e, exec j s = .next t ∧ KeptGroup t a g ∧ AList.get? g.entries a.ei = some e ∧ placing e = placing a.e ∧
      e.pc = a.e.pc + 4 ∧ (∀ m, m ≠ a.ei → AList.get? g.entries m = AList.get? a.g.entries m) ∧ Alone s t a ∧
      RegsBut a g [] [] [] ∧ g.fflags = a.g.fflags ∧
      e.mode = (if j = .mode k i then newMode a.e.mode i else a.e.mode) ∧
      e.fmt = (if j = .fmt k i then i.setWidth 32 else a.e.fmt) ∧
      e.pending = (if j = .mode k i then newPending a.e.mode i (a.e.pending.map PendingRestore.counted)
        else a.e.pending.map PendingRestore.counted)

/-- A counted `mode` reverts when its count has run out: the saved half returns, the other half and everything else keep
their values (03 R78). -/
def Sys2Proof.Statement.ModeReverts : Prop :=
  ∀ (s : State) (f : FragRef) (g : Group) (e : Entry) (p : PendingRestore), s.memWf → s.missing = false →
    AList.get? s.groups f.grp = some g → AList.get? g.entries f.entry = some e → e.pending = some p → p.count = 0 →
    e.mode.toNat < 2 ^ 25 →
    ∃ t m, exec (.modeRestore f) s = .next t ∧
      t = { s with groups := AList.put s.groups f.grp (revertedAs g f.entry e m) } ∧
      m.extractLsb' 0 18 = (if p.high then e.mode.extractLsb' 0 18 else p.saved) ∧
      m.extractLsb' 18 14 = (if p.high then (p.saved.extractLsb' 0 7).setWidth 14 else e.mode.extractLsb' 18 14)

/-- `srd` completes on the registers it reads at once: the scalar takes the register's value, in handler mode for the trap
registers, and nothing else changes (03 R84, R85). -/
def Sys2Proof.Statement.SystemRead : Prop :=
  ∀ (s : State) (a : At) (k : Bool) (d : BitVec 8) (n : BitVec 10) (v : DWord), systemRegister s a n.toNat = some v →
    (0x100 ≤ n.toNat → a.g.handler ≠ none) → Free s a (.srd k d n) k { sw := [d.toNat] } → HasRoom a {} →
    ∃ t g e, exec (.srd k d n) s = .next t ∧ Kept t a g e ∧ e.pc = a.e.pc + 4 ∧ Alone s t a ∧
      RegsBut a g [] [d.toNat] [] ∧ g.sget d.toNat = v ∧ g.fflags = a.g.fflags

/-- `srd` of `%fflags` completes without run-checking: it reads every flag that has been written, and of the flags of results
still to come each result's all or none (02 R42). -/
def Sys2Proof.Statement.FlagsRead : Prop :=
  ∀ (s : State) (a : At) (k : Bool) (d : BitVec 8), a.g.runCheck = false →
    Free s a (.srd k d 0x002) k { sw := [d.toNat] } → HasRoom a {} →
    ∃ t g e, exec (.srd k d 0x002) s = .next t ∧ Kept t a g e ∧ e.pc = a.e.pc + 4 ∧ RegsBut a g [] [d.toNat] [] ∧
      g.fflags = a.g.fflags ∧ (∀ c, readCell t.mem c = readCell s.mem c) ∧
      ∃ os : List GroupOp, os.Sublist (a.g.ops.filter GroupOp.isV) ∧
        g.sget d.toNat = (os.foldl (fun x o => x ||| o.flags) a.g.fflags).setWidth 64

/-- `swr` completes on `%mode`, `%fmt`, `%fflags`, `%ssp` and, in handler mode, the trap registers: the register takes the
scalar's bits, a write of `%mode` cancels a pending restore, and nothing else changes; a register that only reads ignores the
write (03 R79, R84, R85). -/
def Sys2Proof.Statement.SystemWrite : Prop :=
  ∀ (s : State) (a : At) (k : Bool) (r : BitVec 8) (n : BitVec 10), writesReserved a (.swr k r n) = none →
    (0x100 ≤ n.toNat → a.g.handler ≠ none) → Free s a (.swr k r n) k { sr := [r.toNat] } →
    HasRoom a { allowed := n == 0 || n == 1 } →
    ∃ t g e, exec (.swr k r n) s = .next t ∧ AList.get? t.groups a.r = some g ∧ AList.get? g.entries a.ei = some e ∧
      placing e = placing a.e ∧ e.pc = a.e.pc + 4 ∧ Alone s t a ∧ RegsBut a g [] [] [] ∧ identity g = identity a.g ∧
      (∀ m, m ≠ a.ei → AList.get? g.entries m = AList.get? a.g.entries m) ∧
      e.mode = (if n = 0 then (a.sval r.toNat).setWidth 32 else a.e.mode) ∧
      e.pending = (if n = 0 then none else a.e.pending.map PendingRestore.counted) ∧
      e.fmt = (if n = 1 then (a.sval r.toNat).setWidth 32 else a.e.fmt) ∧
      g.fflags = (if n = 2 then (a.sval r.toNat).setWidth 6 else a.g.fflags) ∧
      specials g = (if n = 7 then specials { a.g with ssp := ((a.sval r.toNat).setWidth 21).setWidth 64 }
        else specials a.g) ∧
      traps g = (trapWrite a n.toNat (a.sval r.toNat)).getD (traps a.g)

/-- Outside handler mode a read or a write of a trap register and an `eret` raise PRIV, before any effect (03 R62, R84;
05 R115). -/
def Sys2Proof.Statement.Privilege : Prop :=
  ∀ (s : State) (a : At) (i : Instr) (k : Bool) (u : Use), handlerWord i = some (k, u) → a.g.handler = none →
    Here s a → rejectOf i = none → Calm s a →
    ∃ t g e, exec i s = .next t ∧ Taken s t a 0x04 0 none a.e.pc g e

/-- A word that would leave a reserved value in `%mode` or `%fmt` raises MODEVAL and writes nothing (03 R78, R83, R85). -/
def Sys2Proof.Statement.ReservedMode : Prop :=
  ∀ (s : State) (a : At) (i : Instr) (k : Bool) (u : Use), writesReserved a i = some (k, u) → rejectOf i = none →
    Here s a → Calm s a →
    ∃ t g e, exec i s = .next t ∧ Taken s t a 0x03 0 none a.e.pc g e

/-- A word that no instruction has raises ILLEGAL, before any effect (03 R59, R62). -/
def Sys2Proof.Statement.IllegalWord : Prop :=
  ∀ (s : State) (a : At) (v : Word), Here s a → AtHand s a [] → Calm s a →
    ∃ t g e, exec (.illegalWord v) s = .next t ∧ Taken s t a 0x01 0 none a.e.pc g e

/-- `trap` and `brk` complete: with no lane enabled they only go on, `brk` in an open region too. With one, outside a region,
the group takes TRAP or BREAK with the immediate in `%tval` and the next address in `%tpc`; while V-class results of the group
are outstanding the fault waits, and nothing else has happened; in a context that drains the group stops. In an open region
`brk` discards it: the registers are as at `ab`, and `%tpc` is the address of `ab` (05 R108, R110, R114; 16 R387; 19 R438). -/
def Sys2Proof.Statement.TrapWords : Prop :=
  ∀ (s : State) (a : At) (k : Bool) (i : BitVec 16) (j : Instr) (code : Nat),
    j = .trap k i ∧ code = 0x15 ∧ a.g.region = none ∨ j = .brk k i ∧ code = 0x16 → Free s a j k {} → HasRoom a {} →
    (a.enabled = 0 → ∃ t g e, exec j s = .next t ∧ Kept t a g e ∧ e.pc = a.e.pc + 4 ∧ Alone s t a ∧
      RegsBut a g [] [] [] ∧ g.fflags = a.g.fflags) ∧
    (a.enabled ≠ 0 → Calm s a → ∃ t g e, exec j s = .next t ∧
      Taken s t a code 0 (some (i.setWidth 64)) (a.e.pc + 4) g e) ∧
    (a.enabled ≠ 0 → a.g.outstanding = true →
      (AList.getD s.contexts (pkgOf a.r.chip, a.g.ctx) {}).st ≠ .draining →
      ∃ t g f, exec j s = .next t ∧ AList.get? t.groups a.r = some g ∧ g.fault = some f ∧ f.code = code ∧ f.detail = 0 ∧
        f.tval = some (i.setWidth 64) ∧ f.tpc = a.e.pc + 4 ∧ f.entry = a.ei ∧ g.st = a.g.st ∧ traps g = traps a.g ∧
        RegsBut a g [] [] [] ∧ ∀ c, readCell t.mem c = readCell s.mem c) ∧
    (a.enabled ≠ 0 → (AList.getD s.contexts (pkgOf a.r.chip, a.g.ctx) {}).st = .draining →
      ∃ t g, exec j s = .next t ∧ AList.get? t.groups a.r = some g ∧ g.st = .stopped ∧ traps g = traps a.g ∧
        RegsBut a g [] [] [] ∧ ∀ c, readCell t.mem c = readCell s.mem c) ∧
    ∀ rg, a.enabled ≠ 0 → a.g.region = some rg → rg.sent = false → rg.entry = a.ei → a.g.outstanding = false →
      a.g.late = none → (AList.getD s.contexts (pkgOf a.r.chip, a.g.ctx) {}).st ≠ .draining →
      ∃ t g, exec j s = .next t ∧ AList.get? t.groups a.r = some g ∧ g.tcause = tcauseOf code 0 true ∧
        g.tval = i.setWidth 64 ∧ g.tpc = rg.abpc ∧ AtCheckpoint g rg ∧ ∀ c, readCell t.mem c = readCell s.mem c

/-- `eret` completes in handler mode: the fragment goes on at `%tpc` under `%tmode` and `%tfmt`, its lanes outside `%tmask`
exit, with the group's last lane into RETIRING, the group leaves handler mode, and the trap registers, every other register and
memory keep their values. A `%tpc` that is no multiple of 4 raises ALIGN with it, and a reserved `%tmode` or `%tfmt` MODEVAL
(05 R110, R115). -/
def Sys2Proof.Statement.TrapReturn : Prop :=
  ∀ (s : State) (a : At) (k : Bool), a.g.handler = some a.ei → a.g.region = none → Free s a (.eret k) k {} →
    let legal := modeReserved a.g.tmode = false ∧ fmtReserved a.g.tfmt = false
    let aligned := a.g.tpc.toNat % 4 = 0
    (¬legal → Calm s a → ∃ t g e, exec (.eret k) s = .next t ∧ Taken s t a 0x03 0 none a.e.pc g e) ∧
    (legal → ¬aligned → Calm s a → ∃ t g e, exec (.eret k) s = .next t ∧ Taken s t a 0x05 0 (some a.g.tpc) a.e.pc g e) ∧
    (legal → aligned → a.e.lanes &&& ~~~a.g.tmask = 0 → ∃ t g e, exec (.eret k) s = .next t ∧ AList.get? t.groups a.r = some g ∧
      AList.get? g.entries a.ei = some e ∧ placing e = placing a.e ∧ e.pc = a.g.tpc ∧ e.mode = a.g.tmode ∧
      e.fmt = a.g.tfmt ∧ e.pending = none ∧ (∀ j, j ≠ a.ei → AList.get? g.entries j = AList.get? a.g.entries j) ∧
      traps g = traps { a.g with handler := none } ∧ specials g = specials a.g ∧ identity g = identity a.g ∧
      RegsBut a g [] [] [] ∧ Alone s t a) ∧
    (legal → aligned → a.e.lanes &&& ~~~a.g.tmask ≠ 0 → a.g.st = .active →
      (∀ b, AList.get? s.blocks a.g.block = some b → b.arrived = []) →
      let left := a.g.live &&& ~~~(a.e.lanes &&& ~~~a.g.tmask)
      ∃ t g, exec (.eret k) s = .next t ∧ AList.get? t.groups a.r = some g ∧ g.handler = none ∧ g.live = left ∧
        RegsBut a g [] [] [] ∧ traps g = traps { a.g with handler := none } ∧
        (left = 0 → g.st = .retiring ∧ g.entries = []) ∧
        (left ≠ 0 → a.e.st = .run → a.e.lanes &&& a.g.tmask ≠ 0 → ∃ e, AList.get? g.entries a.ei = some e ∧
          e.lanes = a.e.lanes &&& a.g.tmask ∧ e.pc = a.g.tpc ∧ e.mode = a.g.tmode ∧ e.fmt = a.g.tfmt) ∧
        ∀ c, readCell t.mem c = readCell s.mem c)

/-- `halt` completes: with a lane enabled the group stops past the word, keeping its slot and its registers, and event HALTED is
made; in an open region it stops at `ab` with the region discarded; with no lane enabled it only goes on (05 R113; 16 R374,
R387; 24 R462). -/
def Sys2Proof.Statement.HaltWord : Prop :=
  ∀ (s : State) (a : At) (k : Bool), Free s a (.halt k) k {} → HasRoom a {} →
    (a.enabled = 0 → ∃ t g e, exec (.halt k) s = .next t ∧ Kept t a g e ∧ e.pc = a.e.pc + 4 ∧ Alone s t a ∧
      RegsBut a g [] [] []) ∧
    (a.enabled ≠ 0 → a.g.region = none → ∃ t g e, exec (.halt k) s = .next t ∧ AList.get? t.groups a.r = some g ∧
      AList.get? g.entries a.ei = some e ∧ g.st = .stopped ∧ g.stopCause = some .halt ∧ e.pc = a.e.pc + 4 ∧
      RegsBut a g [] [] [] ∧ specials g = specials a.g ∧ traps g = traps a.g ∧ Tells s t a.r.chip 0x0C a.g.ctx ∧
      ∀ c, readCell t.mem c = readCell s.mem c) ∧
    ∀ rg, a.enabled ≠ 0 → a.g.region = some rg → rg.sent = false → rg.entry = a.ei →
      ∃ t g, exec (.halt k) s = .next t ∧ AList.get? t.groups a.r = some g ∧ g.st = .stopped ∧ g.stopCause = some .halt ∧
        rgnOut g.rgn = 5 ∧ Restored g rg rg.abpc rg.before ∧ traps g = traps a.g ∧ ∀ c, readCell t.mem c = readCell s.mem c

/-- `probe` completes: with a lane enabled it leaves a trace record of the group's core and slot for the end of the cycle;
no register, no memory, no group but its own changes (19 R438). -/
def Sys2Proof.Statement.ProbeWord : Prop :=
  ∀ (s : State) (a : At) (k : Bool) (i : BitVec 16), Free s a (.probe k i) k {} → HasRoom a {} →
    ∃ t g e, exec (.probe k i) s = .next t ∧ Kept t a g e ∧ e.pc = a.e.pc + 4 ∧ RegsBut a g [] [] [] ∧
      t.toSys = { s.toSys with groups := t.groups, cores := t.cores, chips := t.chips } ∧
      (∀ r, r ≠ a.r → AList.get? t.groups r = AList.get? s.groups r) ∧
      (∀ c, readCell t.mem c = readCell s.mem c) ∧
      let recs := fun (z : State) => (AList.getD (AList.getD z.chips a.r.chip {}).probe a.g.ctx {}).recs
      (a.enabled = 0 → recs t = recs s) ∧
      (a.enabled ≠ 0 → ∃ bs, bs.length = 32 ∧ bs.take 2 = bytesOf 1 2 ++ bytesOf 1 a.g.ctx ∧
        recs t = recs s ++ [(a.r.core, a.r.slot, bs)])

/-- `bset` completes: the block scalar's log takes the write, and no register, no memory changes (09 R205). -/
def Sys2Proof.Statement.BlockScalarWrite : Prop :=
  ∀ (s : State) (a : At) (k : Bool) (n : BitVec 4) (r : BitVec 8) (b : Block), a.e.lanes ≠ 0 →
    AList.get? s.blocks a.g.block = some b →
    (∀ y ∈ b.scalars, y.b = n.toNat → y.cycle = s.cycle → y.gid ≤ a.g.gid) →
    Free s a (.bset k n r) k { sr := [r.toNat] } → a.g.region = none →
    ∃ t g e, exec (.bset k n r) s = .next t ∧ Kept t a g e ∧ e.pc = a.e.pc + 4 ∧ RegsBut a g [] [] [] ∧
      AloneInBlock s t a { b with scalars := b.scalars ++
        [{ b := n.toNat, value := a.sval r.toNat, gid := a.g.gid, cycle := s.cycle }] }

/-- `bget` completes: it reads 0 from a block scalar never written, and the last value where the group itself wrote it last;
no other register, no memory changes (09 R206). -/
def Sys2Proof.Statement.BlockScalarRead : Prop :=
  ∀ (s : State) (a : At) (k : Bool) (n : BitVec 4) (d : BitVec 8) (b : Block),
    AList.get? s.blocks a.g.block = some b → Free s a (.bget k n d) k { sw := [d.toNat] } → HasRoom a {} →
    ∃ t g e, exec (.bget k n d) s = .next t ∧ Kept t a g e ∧ e.pc = a.e.pc + 4 ∧ RegsBut a g [] [d.toNat] [] ∧
      (∀ r, r ≠ a.r → AList.get? t.groups r = AList.get? s.groups r) ∧ (∀ c, readCell t.mem c = readCell s.mem c) ∧
      ((∀ y ∈ b.scalars, y.b ≠ n.toNat) → g.sget d.toNat = 0) ∧
      (∀ (p q : List ScalarWrite) (y : ScalarWrite), b.scalars = p ++ y :: q → y.b = n.toNat →
        (∀ z ∈ q, z.b ≠ n.toNat) → y.gid = a.g.gid → g.sget d.toNat = y.value) ∧
      (g.sget d.toNat ≠ 0 → ∃ y ∈ b.scalars, y.b = n.toNat ∧ g.sget d.toNat = y.value)

namespace Sys2Proof.Statement

/-! ## Scalar words whose result comes later -/

/-- What the spec says of a word that takes a value at issue and writes it to a scalar register later: its switch marker, the
registers it names, its use of a region, its destination and value, and what it leaves of `%osig` and of the batch classes. -/
structure LateScalar where
  k : Bool
  use : Use
  room : RegionUse := {}
  dest : Nat
  value : DWord
  sig : DWord
  batches : AList Nat BatchClass

/-- The group's tile as `tstate` reads it: the control register, whether a copy is parked, and the state (11 R242). -/
def tileWord (b : Block) (t : Nat) : Nat :=
  let y := AList.getD b.table t {}
  y.ctl % 2 ^ 24 + (if AList.has b.parked t then 2 ^ 24 else 0) +
    2 ^ 32 * (match y.st with
      | .empty => 0
      | .filling => 1
      | .ready => 2
      | .draining => 3)

/-- The class's counts and error record as `bstat` reads them (13 R285). -/
def batchWord (c : BatchClass) : Nat :=
  c.error.seq + c.error.tmpl * 2 ^ 12 + (if c.error.more then 2 ^ 17 else 0) + (if c.error.err then 2 ^ 18 else 0) +
    (if c.opened.isEmpty then 0 else 2 ^ 19) + c.sealed.length % 16 * 2 ^ 20 + c.error.status * 2 ^ 24 +
    c.error.bytes % 2 ^ 32 * 2 ^ 32

/-- The time of a group's package (19 R439). -/
def timeOf (s : State) (x : At) : DWord := BitVec.ofNat 64 (s.now - AList.getD s.epoch (pkgOf x.r.chip) 0)

/-- Turns granted to a chip's seat whose grants are on their way (15 R362). -/
def turnsOnTheirWay (s : State) (chip : Nat) : Nat :=
  (s.messages.filter fun m => m.1.1 == chip && match m.2 with
    | .grant seat _ _ _ => seat == (AList.getD s.chips chip {}).seat.num
    | _ => false).length

/-- The rows: `vtos` (08 R178), `rdtime` (19 R439), `osig` (14 R342), `bstat` (13 R285), `tstate` (11 R242), `tblq`
(15 R362), and `srd` of `%osig` and `%time` (03 R84). -/
def lateScalar (s : State) (x : At) : Instr → Option LateScalar
  | .vtos k d a l =>
    if x.etype.isSome && (!is64 x.ty || a.toNat % 2 == 0) then
      some { k := k, use := { vr := regsOf x.ty a.toNat, sw := [d.toNat] }, dest := d.toNat
             value := widen64 x.ty (x.elem x.ty a.toNat l.toNat), sig := x.g.osig, batches := x.g.batches }
    else none
  | .rdtime k d => some { k := k, use := { sw := [d.toNat] }, dest := d.toNat, value := timeOf s x, sig := x.g.osig
                          batches := x.g.batches }
  | .osig k d => some { k := k, use := { sw := [d.toNat] }, room := { allowed := false }, dest := d.toNat
                        value := x.g.osig, sig := 0, batches := x.g.batches }
  | .bstat k c d =>
    let b := AList.getD x.g.batches c.toNat {}
    some { k := k, use := { sw := [d.toNat] }, dest := d.toNat, value := BitVec.ofNat 64 (batchWord b), sig := x.g.osig
           batches := AList.put x.g.batches c.toNat { b with error := {} } }
  | .tstate k t d => (AList.get? s.blocks x.g.block).bind fun b =>
    if t.toNat < b.tiles then
      some { k := k, use := { sw := [d.toNat] }, room := { allowed := false }, dest := d.toNat
             value := BitVec.ofNat 64 (tileWord b t.toNat), sig := x.g.osig, batches := x.g.batches }
    else none
  | .tblq k d i =>
    let y := (AList.getD s.chips x.r.chip {}).seat
    some { k := k, use := { sw := [d.toNat] }, dest := d.toNat, sig := x.g.osig, batches := x.g.batches
           value := if y.ctx = x.g.ctx ∧ y.st ≠ .off then
               BitVec.ofNat 64 (if i = 0x04 then turnsOnTheirWay s x.r.chip % 256 else y.item i.toNat)
             else 0 }
  | .srd k d n =>
    if n = 0x006 then
      some { k := k, use := { sw := [d.toNat] }, dest := d.toNat, value := x.g.osig, sig := x.g.osig, batches := x.g.batches }
    else if n = 0x020 then
      some { k := k, use := { sw := [d.toNat] }, dest := d.toNat, value := timeOf s x, sig := x.g.osig
             batches := x.g.batches }
    else none
  | _ => none

/-! ## Tiles -/

/-- The values `tcfg` accepts: a tile type, at most 256 rows and columns, at most 65,536 bytes, a layout of 0 or 1
(11 R236, R240). -/
def TileControl (v : Nat) : Prop :=
  let rows := fieldOf v 4 9
  let cols := fieldOf v 13 9
  v < 2 ^ 24 ∧ fieldOf v 0 4 ∈ [0, 4, 8, 9, 10, 11] ∧ fieldOf v 22 2 ≤ 1 ∧ 0 < rows ∧ rows ≤ 256 ∧ 0 < cols ∧ cols ≤ 256 ∧
    rows * cols * (widthOf ((etypeOf (fieldOf v 0 4)).getD .i32) / 8) ≤ 65536

/-- A block with a tile changed. -/
def withTile (b : Block) (t : Nat) (y : Tile) : Block := { b with table := AList.put b.table t y }

/-- The tile words that meet a fault: their marker, the registers they name, the detail of TILE and the tile
(11 R240 to R243, R259). -/
def tileFault (x : At) (b : Block) : Instr → Option (Bool × Use × Nat × Nat)
  | .tcfg k t s =>
    if b.tiles ≤ t.toNat then some (k, { sr := [s.toNat] }, 1, t.toNat)
    else if tileControlOk (x.sval s.toNat).toNat then none else some (k, { sr := [s.toNat] }, 3, t.toNat)
  | .tfree k t => if b.tiles ≤ t.toNat then some (k, {}, 1, t.toNat) else none
  | .tstate k t d => if b.tiles ≤ t.toNat then some (k, { sw := [d.toNat] }, 1, t.toNat) else none
  | .vtot k t s v =>
    if b.tiles ≤ t.toNat then some (k, { vr := [v.toNat], sr := [s.toNat] }, 1, t.toNat)
    else if (b.tile t.toNat).rows = 0 then some (k, { vr := [v.toNat], sr := [s.toNat] }, 2, t.toNat) else none
  | .ttov k t s v =>
    if b.tiles ≤ t.toNat then some (k, { vw := [v.toNat], sr := [s.toNat] }, 1, t.toNat)
    else if (b.tile t.toNat).rows = 0 then some (k, { vw := [v.toNat], sr := [s.toNat] }, 2, t.toNat) else none
  | _ => none

/-- The bytes from a cell up as a little-endian number. -/
def numberAt (m : Memory) (c n : Nat) : Nat := ofBytes ((upTo n).map fun i => readCell m (c + i))

end Sys2Proof.Statement

/-- `vtos`, `rdtime`, `osig`, `bstat`, `tstate`, `tblq` and `srd` of `%osig` and `%time` complete: the value, taken at issue,
waits as the group's youngest operation; `osig` clears `%osig` and `bstat` its class's error record; no register, no memory,
nothing outside the group changes (03 R56, R84; 08 R178; 11 R242; 13 R285; 14 R342; 15 R362; 19 R439). -/
def Sys2Proof.Statement.LateScalarWords : Prop :=
  ∀ (s : State) (a : At) (i : Instr) (z : LateScalar), lateScalar s a i = some z → Free s a i z.k z.use →
    HasRoom a z.room →
    ∃ t g e o, exec i s = .next t ∧ AList.get? t.groups a.r = some g ∧ AList.get? g.entries a.ei = some e ∧
      placing e = placing a.e ∧ e.pc = a.e.pc + 4 ∧ e.mode = a.e.mode ∧ e.fmt = a.e.fmt ∧
      (∀ j, j ≠ a.ei → AList.get? g.entries j = AList.get? a.g.entries j) ∧ traps g = traps a.g ∧
      identity g = identity a.g ∧ specials g = specials { a.g with osig := z.sig } ∧ g.batches = z.batches ∧
      Alone s t a ∧ RegsBut a g [] [] [] ∧ g.fflags = a.g.fflags ∧ g.ops = a.g.ops ++ [o] ∧ o.id = a.g.nextOp ∧
      o.isV = true ∧ o.kind = .value [.s z.dest z.value] ∧ o.flags = 0

/-- `tcfg` completes on an EMPTY or READY tile of the block with no copy parked: the tile takes the control value, and nothing
else changes (11 R240). -/
def Sys2Proof.Statement.TileConfigure : Prop :=
  ∀ (s : State) (a : At) (k : Bool) (n : BitVec 5) (r : BitVec 8) (b : Block), AList.get? s.blocks a.g.block = some b →
    n.toNat < b.tiles → TileControl (a.sval r.toNat).toNat → AList.get? b.parked n.toNat = none →
    (b.tile n.toNat).st = .empty ∨ (b.tile n.toNat).st = .ready → Free s a (.tcfg k n r) k { sr := [r.toNat] } →
    a.g.region = none →
    ∃ t g e, exec (.tcfg k n r) s = .next t ∧ Kept t a g e ∧ e.pc = a.e.pc + 4 ∧ RegsBut a g [] [] [] ∧
      AloneInBlock s t a (withTile b n.toNat { b.tile n.toNat with ctl := (a.sval r.toNat).toNat })

/-- `tfree` completes: an EMPTY tile stays as it is; a READY one becomes EMPTY and its bytes zero, and, with no copy parked,
nothing else changes (11 R241). -/
def Sys2Proof.Statement.TileFree : Prop :=
  ∀ (s : State) (a : At) (k : Bool) (n : BitVec 5) (b : Block), AList.get? s.blocks a.g.block = some b →
    n.toNat < b.tiles → AList.get? b.parked n.toNat = none → Free s a (.tfree k n) k {} → a.g.region = none →
    ((b.tile n.toNat).st = .empty → ∃ t g e, exec (.tfree k n) s = .next t ∧ Kept t a g e ∧ e.pc = a.e.pc + 4 ∧
      Alone s t a ∧ RegsBut a g [] [] []) ∧
    ((b.tile n.toNat).st = .ready → ∃ t g e, exec (.tfree k n) s = .next t ∧ Kept t a g e ∧ e.pc = a.e.pc + 4 ∧
      RegsBut a g [] [] [] ∧ AList.get? t.blocks a.g.block = some (withTile b n.toNat { b.tile n.toNat with st := .empty }) ∧
      (∀ j, j ≠ a.g.block → AList.get? t.blocks j = AList.get? s.blocks j) ∧
      (∀ r, r ≠ a.r → AList.get? t.groups r = AList.get? s.groups r) ∧
      ∀ c, readCell t.mem c = if tileKey a.g.block n.toNat 0 ≤ c ∧ c < tileKey a.g.block n.toNat 65536 then 0
        else readCell s.mem c)

/-- `vtot` completes on a configured EMPTY or READY tile: the tile is FILLING with one more writer, the enabled lanes' low
bits waiting to land in the row segment, and no byte changes yet (11 R243). -/
def Sys2Proof.Statement.LanesToTile : Prop :=
  ∀ (s : State) (a : At) (k : Bool) (n : BitVec 5) (r : BitVec 8) (v : BitVec 7) (b : Block) (row col : Nat),
    AList.get? s.blocks a.g.block = some b → n.toNat < b.tiles → (b.tile n.toNat).rows ≠ 0 →
    (a.sval r.toNat).toNat = row * 2 ^ 16 + col → row < (b.tile n.toNat).rows → col < (b.tile n.toNat).cols →
    (b.tile n.toNat).st = .empty ∨ (b.tile n.toNat).st = .ready →
    Free s a (.vtot k n r v) k { vr := [v.toNat], sr := [r.toNat] } → a.g.region = none →
    ∃ t g e, exec (.vtot k n r v) s = .next t ∧ Kept t a g e ∧ e.pc = a.e.pc + 4 ∧ RegsBut a g [] [] [] ∧
      let y := b.tile n.toNat
      AloneInBlock s t a (withTile b n.toNat { y with
        st := .filling, writers := y.writers + 1
        landing := ((lanesIn a.enabled).filter fun l => decide (col + l < y.cols)).flatMap fun l =>
          cellsOf (tileKey a.g.block n.toNat (y.index row (col + l) * y.size))
            (bytesOf y.size (laneOf (a.g.vget v.toNat) l).toNat) })

/-- `ttov` completes on a configured READY or DRAINING tile: each enabled lane takes its element of the row segment in lane
form, zero past the last column; every other lane keeps its bits, and nothing else changes (11 R243). -/
def Sys2Proof.Statement.TileToLanes : Prop :=
  ∀ (s : State) (a : At) (k : Bool) (n : BitVec 5) (r : BitVec 8) (v : BitVec 7) (b : Block) (row col : Nat),
    AList.get? s.blocks a.g.block = some b → n.toNat < b.tiles → (b.tile n.toNat).rows ≠ 0 →
    (a.sval r.toNat).toNat = row * 2 ^ 16 + col → row < (b.tile n.toNat).rows → col < (b.tile n.toNat).cols →
    (b.tile n.toNat).st = .ready ∨ (b.tile n.toNat).st = .draining →
    Free s a (.ttov k n r v) k { vw := [v.toNat], sr := [r.toNat] } → a.g.region = none →
    ∃ t g e, exec (.ttov k n r v) s = .next t ∧ Kept t a g e ∧ e.pc = a.e.pc + 4 ∧ Alone s t a ∧
      RegsBut a g [v.toNat] [] [] ∧ g.fflags = a.g.fflags ∧
      let y := b.tile n.toNat
      ∀ l, l < 32 → laneOf (g.vget v.toNat) l =
        if laneAt a.enabled l then
          (if col + l < y.cols then
            BitVec.ofNat 32 (laneForm y.etype
              (numberAt s.mem (tileKey a.g.block n.toNat (y.index row (col + l) * y.size)) y.size))
          else 0)
        else laneOf (a.g.vget v.toNat) l

/-- A tile number at or beyond the block's allotment raises TILE 1, an unconfigured tile TILE 2 in `vtot` and `ttov`, and a
control value that is not valid TILE 3, with the tile in `%tval`, before any effect (11 R240 to R243, R259). -/
def Sys2Proof.Statement.TileFaults : Prop :=
  ∀ (s : State) (a : At) (i : Instr) (b : Block) (k : Bool) (u : Use) (detail n : Nat),
    AList.get? s.blocks a.g.block = some b → tileFault a b i = some (k, u, detail, n) → Free s a i k u → Calm s a →
    ∃ t g e, exec i s = .next t ∧ Taken s t a 0x0D detail (some (BitVec.ofNat 64 n)) a.e.pc g e

/-- `macq` completes: the block keeps the engine it holds, or takes the lowest free one of its home core, which starts afresh
with zero coefficients, or gets none; the predicate says in every lane whether it holds one, and no other register, no other
memory changes (11 R246). -/
def Sys2Proof.Statement.EngineAcquire : Prop :=
  ∀ (s : State) (a : At) (k : Bool) (p : BitVec 4) (b : Block), AList.get? s.blocks a.g.block = some b →
    Free s a (.macq k p) k {} → a.g.region = none →
    ∃ t g e b', exec (.macq k p) s = .next t ∧ Kept t a g e ∧ e.pc = a.e.pc + 4 ∧ RegsBut a g [] [] [p.toNat] ∧
      AList.get? t.blocks a.g.block = some b' ∧
      let engine := fun (z : State) (n : Nat) => AList.getD (AList.getD z.cores (b.chip, b.span.headD 0) {}).engines n {}
      (b.engineHeld = true → b' = b ∧ g.pget p.toNat = 0xFFFFFFFF ∧ ∀ c, readCell t.mem c = readCell s.mem c) ∧
      (b.engineHeld = false → (∀ n, n < 4 → (engine s n).block ≠ none) → b' = b ∧ g.pget p.toNat = 0 ∧
        ∀ c, readCell t.mem c = readCell s.mem c) ∧
      ∀ n, b.engineHeld = false → n < 4 → (engine s n).block = none → (∀ m, m < n → (engine s m).block ≠ none) →
        b' = { b with engine := some n, engineHeld := true } ∧ g.pget p.toNat = 0xFFFFFFFF ∧
        engine t n = { block := some a.g.block } ∧ (∀ m, m ≠ n → engine t m = engine s m) ∧
        ∀ c, readCell t.mem c =
          let lo := coefKey b.chip (b.span.headD 0) n 0
          if lo ≤ c ∧ c < lo + 262144 then 0 else readCell s.mem c

/-- `mrel` and `mquor` complete: `mrel` ends the block's hold of its engine, which is free at once where it has no operation
left; `mquor` of a valid list sets `%quor`, to 0 for fewer than two groups; no other register of the group and no byte of
memory changes (11 R247, R252). -/
def Sys2Proof.Statement.QuorumWords : Prop :=
  ∀ (s : State) (a : At) (k : Bool) (b : Block), AList.get? s.blocks a.g.block = some b → a.g.region = none →
    (Free s a (.mrel k) k {} → ∃ t g e b', exec (.mrel k) s = .next t ∧ Kept t a g e ∧ e.pc = a.e.pc + 4 ∧
      RegsBut a g [] [] [] ∧ (∀ c, readCell t.mem c = readCell s.mem c) ∧
      AList.get? t.blocks a.g.block = some b' ∧ b'.engine = none ∧ (b.engine ≠ none → b'.engineHeld = false) ∧
      ∀ n, b.engine = some n →
        let engine := fun (z : State) => AList.getD (AList.getD z.cores (b.chip, b.span.headD 0) {}).engines n {}
        (engine s).ops = [] → engine t = {}) ∧
    ∀ (r : BitVec 8) (gids : List Nat), (a.sval r.toNat).toNat =
        gids.length + gids.foldr (fun x acc => (x + acc) * 2 ^ 7) 0 / 2 ^ 4 →
      gids.length < 7 → gids.Nodup → (∀ x ∈ gids, x < b.bgroups ∧ x < 2 ^ 7) →
      (2 ≤ gids.length → a.g.gid ∈ gids) → Free s a (.mquor k r) k { sr := [r.toNat] } →
      ∃ t g e, exec (.mquor k r) s = .next t ∧ AList.get? t.groups a.r = some g ∧ AList.get? g.entries a.ei = some e ∧
        placing e = placing a.e ∧ e.pc = a.e.pc + 4 ∧ RegsBut a g [] [] [] ∧
        specials g = specials { a.g with quor := if gids.length < 2 then 0 else a.sval r.toNat } ∧
        traps g = traps a.g ∧ identity g = identity a.g ∧ ∀ c, readCell t.mem c = readCell s.mem c

namespace Sys2Proof.Statement

/-! ## Batches, barriers and the rotation -/

/-- The class after its open batch is sealed under the next sequence number (13 R282). -/
def sealedAs (c : BatchClass) : BatchClass :=
  { c with opened := [], sealed := c.sealed ++ [((c.seals + 1) % 4096, c.opened)], seals := (c.seals + 1) % 4096
           sealDue := false }

/-- A barrier by its level and id, from a group's block and itself (10 R222). -/
def barrierOf (s : State) (block gid lvl id : Nat) : Option Barrier :=
  match lvl with
  | 0 => ((slotOf s block gid).bind fun r => AList.get? s.groups r).map Group.bar
  | 1 => (AList.get? s.blocks block).bind fun b => AList.get? b.bars id
  | 2 => (AList.get? s.blocks block).bind fun b => (AList.get? s.clusters b.cluster).bind fun c => AList.get? c.bars id
  | _ => (AList.get? s.blocks block).bind fun b => (AList.get? s.launches b.launch).bind fun l => AList.get? l.bars id

/-- Whether a group's grid is launched with its grid barriers on (06 R127; 10 R232). -/
def gridBarriers (s : State) (block : Nat) : Bool :=
  (((AList.get? s.blocks block).bind fun b => AList.get? s.launches b.launch).map fun l => l.record.rp).getD false

/-- Whether a unit counts in the current phase: a lane in its arrival mask, a live group whose mask covers its live lanes, a
block all of whose live groups do (10 R224). -/
def unitCounts (s : State) (am : AList (Nat × Nat) LaneMask) (block gid lvl u : Nat) : Bool :=
  let covered := fun (b g : Nat) => liveOf s b g &&& ~~~AList.getD am (b, g) 0 == 0
  match lvl with
  | 0 => laneAt (AList.getD am (block, gid) 0) u
  | 1 => liveOf s block u != 0 && covered block u
  | _ => match AList.get? s.blocks u with
    | some k => k.live.all fun g => liveOf s u g == 0 || covered u g
    | none => false

/-- A barrier after the lanes of a fragment have arrived: each unit that now counts lowers REM by one; at zero the phase
completes in this cycle: PH is inverted, the arrival masks are empty, MEM and REM are the live members (10 R224, R225). -/
def arrivedAt (s : State) (x : At) (lvl : Nat) (b : Barrier) : Barrier :=
  let key := (x.g.block, x.g.gid)
  let am := AList.put b.am key (AList.getD b.am key 0 ||| x.e.lanes)
  let new := b.members.filter fun u => !b.counted.contains u && unitCounts s am x.g.block x.g.gid lvl u
  if b.rem - new.length = 0 then
    { b with ph := !b.ph, mem := b.members.length, rem := b.members.length, counted := [], am := [], doneAt := some s.cycle }
  else { b with am := am, counted := b.counted ++ new, rem := b.rem - new.length }

/-- A barrier that a group may use: it exists, the group's unit is a live member, its level is present, and the group is not
in handler mode (10 R231, R232). -/
structure Member (s : State) (x : At) (lvl id : Nat) (b : Barrier) : Prop where
  here : barrierOf s x.g.block x.g.gid lvl id = some b
  slot : slotOf s x.g.block x.g.gid = some x.r
  level : lvl = 3 → gridBarriers s x.g.block = true
  unit : lvl ≠ 0 → (if lvl = 1 then x.g.gid else x.g.block) ∈ b.members
  present : b.mem ≠ 0
  normal : x.g.handler = none

/-- Nothing of the group's accesses is still to perform or to become visible (14 R324). -/
structure Drained (s : State) (x : At) : Prop where
  ops : x.g.ops = []
  releasing : x.g.releasing = none
  wrote : x.g.wrote = []
  waiting : ∀ w ∈ s.waiting, (x.g.block, x.g.gid) ∉ w.owners
  own : ∀ c ∈ s.directory, c.writer = x.r.chip → c.ctx ≠ x.g.ctx

end Sys2Proof.Statement

/-- `seal` completes with fewer than 15 batches outstanding: the open batch moves to SEALED under the next sequence number;
with 15 the fragment waits. Nothing else changes (13 R282, R283). -/
def Sys2Proof.Statement.SealWord : Prop :=
  ∀ (s : State) (a : At) (k : Bool) (c : BitVec 2), Free s a (.seal k c) k {} → a.g.region = none →
    let b := AList.getD a.g.batches c.toNat {}
    (b.sealed.length < 15 → ∃ t g e, exec (.seal k c) s = .next t ∧ Kept t a g e ∧ e.pc = a.e.pc + 4 ∧ Alone s t a ∧
      RegsBut a g [] [] [] ∧ g.batches = AList.put a.g.batches c.toNat (sealedAs b)) ∧
    (15 ≤ b.sealed.length → ∃ t g e, exec (.seal k c) s = .next t ∧ AList.get? t.groups a.r = some g ∧
      AList.get? g.entries a.ei = some e ∧ e.pc = a.e.pc ∧ e.pending = a.e.pending ∧ e.wait = some (.batch c.toNat 14) ∧
      g.batches = a.g.batches ∧ Alone s t a ∧ RegsBut a g [] [] [])

/-- `waitb` completes once at most n sealed batches of the class are outstanding and no error is recorded; a recorded error
raises BATCH 4 and is then no longer raised; with more batches the fragment waits (13 R284, R300). -/
def Sys2Proof.Statement.WaitBatch : Prop :=
  ∀ (s : State) (a : At) (k : Bool) (c : BitVec 2) (n : BitVec 4), Free s a (.waitb k c n) k {} → a.g.region = none →
    let b := AList.getD a.g.batches c.toNat {}
    (b.sealed.length ≤ n.toNat → b.error.err = false → ∃ t g e, exec (.waitb k c n) s = .next t ∧ Kept t a g e ∧
      e.pc = a.e.pc + 4 ∧ RegsBut a g [] [] [] ∧ g.batches = a.g.batches ∧
      ∀ m, readCell t.mem m = readCell s.mem m) ∧
    (b.sealed.length ≤ n.toNat → b.error.err = true → Calm s a → ∃ t g e, exec (.waitb k c n) s = .next t ∧
      Taken s t a 0x12 4 none a.e.pc g e ∧ (AList.getD g.batches c.toNat {}).error = { b.error with err := false }) ∧
    (n.toNat < b.sealed.length → ∃ t g e, exec (.waitb k c n) s = .next t ∧ AList.get? t.groups a.r = some g ∧
      AList.get? g.entries a.ei = some e ∧ e.pc = a.e.pc ∧ e.wait = some (.batch c.toNat n.toNat) ∧ RegsBut a g [] [] [])

/-- `cpyt` completes on eight scalars that make a valid template: it is in force from the next cycle, unless a group of a
higher `%gid` writes it in this one, and no other template, no register, no memory changes (13 R290, R291). -/
def Sys2Proof.Statement.TemplateWrite : Prop :=
  ∀ (s : State) (a : At) (k : Bool) (n : BitVec 4) (r : BitVec 8) (b : Block), AList.get? s.blocks a.g.block = some b →
    let v := (List.range 8).map fun i => a.sval (r.toNat + i)
    let after := fun (x : Block) (i : Nat) => AList.get? ((x.settled s.cycle).settled (s.cycle + 1)).templates i
    Template.valid v = true → (∀ y ∈ (b.settled s.cycle).templateNext, y.1 = n.toNat → y.2.1 ≤ a.g.gid) →
    Free s a (.cpyt k n r) k { sr := (List.range 8).map fun i => r.toNat + i } → a.g.region = none →
    ∃ t g e b', exec (.cpyt k n r) s = .next t ∧ Kept t a g e ∧ e.pc = a.e.pc + 4 ∧ RegsBut a g [] [] [] ∧
      AloneInBlock s t a b' ∧ after b' n.toNat = some v ∧ (∀ i, i ≠ n.toNat → after b' i = after b i) ∧
      b' = { b with templates := b'.templates, templateNext := b'.templateNext }

/-- `bara` completes: the fragment's lanes arrive, the group holds a token of the phase, and the barrier counts the units that
are now complete, which may end the phase; no register, no memory changes (10 R224, R225, R230, R231). -/
def Sys2Proof.Statement.BarrierArrive : Prop :=
  ∀ (s : State) (a : At) (k : Bool) (l : BitVec 2) (i : BitVec 4) (b : Barrier), Member s a l.toNat i.toNat b →
    a.e.wait = none → a.e.lanes &&& AList.getD b.am (a.g.block, a.g.gid) 0 = 0 → Drained s a → Free s a (.bara k l i) k {} →
    a.g.region = none →
    ∃ t g e, exec (.bara k l i) s = .next t ∧ Kept t a g e ∧ e.pc = a.e.pc + 4 ∧ RegsBut a g [] [] [] ∧
      g.tokens = AList.put a.g.tokens (l.toNat, i.toNat) b.ph ∧
      barrierOf t a.g.block a.g.gid l.toNat i.toNat = some (arrivedAt s a l.toNat b) ∧
      ∀ c, readCell t.mem c = readCell s.mem c

/-- `bar` arrives and waits: its lanes have arrived, and no register, no memory changes. It completes in a cycle after the one
in which its phase ended, whoever ended it, and waits until then (10 R224, R225, R230, R231). -/
def Sys2Proof.Statement.BarrierMeet : Prop :=
  ∀ (s : State) (a : At) (k : Bool) (l : BitVec 2) (i : BitVec 4) (b : Barrier), Member s a l.toNat i.toNat b →
    Free s a (.bar k l i) k {} → a.g.region = none →
    (a.e.wait = none → a.e.lanes &&& AList.getD b.am (a.g.block, a.g.gid) 0 = 0 → Drained s a →
      ∃ t g e, exec (.bar k l i) s = .next t ∧ AList.get? t.groups a.r = some g ∧ AList.get? g.entries a.ei = some e ∧
        RegsBut a g [] [] [] ∧ specials g = specials a.g ∧ traps g = traps a.g ∧ identity g = identity a.g ∧
        barrierOf t a.g.block a.g.gid l.toNat i.toNat = some (arrivedAt s a l.toNat b) ∧
        (∀ c, readCell t.mem c = readCell s.mem c) ∧ e.pc = a.e.pc ∧ e.wait = some (.barrier l.toNat i.toNat b.ph)) ∧
    ∀ ph, a.e.wait = some (.barrier l.toNat i.toNat ph) →
      (b.ph ≠ ph → b.doneAt ≠ some s.cycle → ∃ t g e, exec (.bar k l i) s = .next t ∧ Kept t a g e ∧ e.pc = a.e.pc + 4 ∧
        RegsBut a g [] [] [] ∧ AList.get? g.tokens (l.toNat, i.toNat) ≠ some ph ∧
        ∀ c, readCell t.mem c = readCell s.mem c) ∧
      (b.ph = ph ∨ b.doneAt = some s.cycle → ∃ t g e, exec (.bar k l i) s = .next t ∧ AList.get? t.groups a.r = some g ∧
        AList.get? g.entries a.ei = some e ∧ e.pc = a.e.pc ∧ e.wait = a.e.wait ∧ RegsBut a g [] [] [] ∧
        ∀ c, readCell t.mem c = readCell s.mem c)

/-- `barw` completes where it holds no token, and, in a cycle after the one in which a phase ended, where the group's token is
of a phase that has ended; while the phase of its token lasts and its lanes have arrived, it waits. `barq` completes: the
scalar holds PH, whether an arrival of the fragment is pending, MEM and REM (10 R225, R226, R230 to R232). -/
def Sys2Proof.Statement.BarrierWaitQuery : Prop :=
  ∀ (s : State) (a : At) (k : Bool) (l : BitVec 2) (i : BitVec 4) (b : Barrier), Member s a l.toNat i.toNat b →
    a.g.region = none →
    let token := AList.get? a.g.tokens (l.toNat, i.toNat)
    let mask := AList.getD b.am (a.g.block, a.g.gid) 0
    (Free s a (.barw k l i) k {} → a.e.wait = none → token = none ∨ token ≠ some b.ph ∧ b.doneAt ≠ some s.cycle →
      ∃ t g e, exec (.barw k l i) s = .next t ∧ Kept t a g e ∧ e.pc = a.e.pc + 4 ∧ RegsBut a g [] [] [] ∧
        ∀ c, readCell t.mem c = readCell s.mem c) ∧
    (Free s a (.barw k l i) k {} → a.e.wait = none → token = some b.ph → a.e.lanes &&& ~~~mask = 0 →
      ∃ t g e, exec (.barw k l i) s = .next t ∧ AList.get? t.groups a.r = some g ∧ AList.get? g.entries a.ei = some e ∧
        e.pc = a.e.pc ∧ e.wait = some (.barrier l.toNat i.toNat b.ph) ∧ RegsBut a g [] [] []) ∧
    ∀ d : BitVec 8, Free s a (.barq k l i d) k { sw := [d.toNat] } →
      ∃ t g e, exec (.barq k l i d) s = .next t ∧ Kept t a g e ∧ e.pc = a.e.pc + 4 ∧ Alone s t a ∧
        RegsBut a g [] [d.toNat] [] ∧
        g.sget d.toNat = BitVec.ofNat 64 ((if b.ph then 1 else 0) +
          (if (a.e.lanes ≠ 0 ∧ a.e.lanes &&& ~~~mask = 0) ∨ (l.toNat = 1 ∧ a.g.gid ∈ b.counted) then 2 else 0) +
          b.mem * 2 ^ 16 + b.rem * 2 ^ 40)

/-- A second arrival of a lane in one phase takes effect in no cycle: it waits for the end of the cycle of its attempt, and
raises BARRIER 3 after it where the phase did not complete in that cycle (10 R227, R231). -/
def Sys2Proof.Statement.BarrierTwice : Prop :=
  ∀ (s : State) (a : At) (k : Bool) (l : BitVec 2) (i : BitVec 4) (b : Barrier) (j : Instr), j = .bar k l i ∨ j = .bara k l i →
    Member s a l.toNat i.toNat b → Free s a j k {} → a.g.region = none →
    (a.e.wait = none → a.e.lanes &&& AList.getD b.am (a.g.block, a.g.gid) 0 ≠ 0 →
      ∃ t g e, exec j s = .next t ∧ AList.get? t.groups a.r = some g ∧ AList.get? g.entries a.ei = some e ∧ e.pc = a.e.pc ∧
        e.wait = some (.double s.cycle) ∧ RegsBut a g [] [] [] ∧
        barrierOf t a.g.block a.g.gid l.toNat i.toNat = some b ∧ ∀ c, readCell t.mem c = readCell s.mem c) ∧
    ∀ c, a.e.wait = some (.double c) → c ≠ s.cycle → b.doneAt ≠ some c → Calm s a →
      ∃ t g e, exec j s = .next t ∧ Taken s t a 0x11 3 none a.e.pc g e

/-- `yield` completes: where a place of the sub-datapath is free or no other group is ready it only goes on; else the group is
demoted and the group that has been ready longest takes its place. No register, no memory changes (08 R159, R160, R187). -/
def Sys2Proof.Statement.YieldWord : Prop :=
  ∀ (s : State) (a : At) (k : Bool) (h : s.memWf), Free s a (.yield k) k {} → HasRoom a {} → a.g.st = .active →
    let places := ((machine s h).activeGroups a.r.chip a.r.core (a.r.slot % 4)).length
    let next := (machine s h).oldestReady a.r.chip a.r.core (a.r.slot % 4)
    (places < 32 ∨ next = none → ∃ t g e, exec (.yield k) s = .next t ∧ Kept t a g e ∧ e.pc = a.e.pc + 4 ∧ Alone s t a ∧
      RegsBut a g [] [] []) ∧
    ∀ x, 32 ≤ places → next = some x → x.1 ≠ a.r → ∃ t g y, exec (.yield k) s = .next t ∧ AList.get? t.groups a.r = some g ∧
      AList.get? t.groups x.1 = some y ∧ g.st = .resident ∧ g.buffer = [] ∧ y.st = .active ∧ y.issueFrom = s.cycle + 1 ∧
      RegsBut a g [] [] [] ∧ ∀ c, readCell t.mem c = readCell s.mem c

/-- `fence` completes once nothing of the group's accesses is still to perform: the core's L1 lines go at cluster scope or
wider, the context's load entries go at every scope, and no register, no byte of memory changes (14 R320, R324, R333;
09 R199). -/
def Sys2Proof.Statement.FenceWord : Prop :=
  ∀ (s : State) (a : At) (k : Bool), Free s a (.fence k) k {} → a.g.region = none → Drained s a →
    ∃ t g e, exec (.fence k) s = .next t ∧ Kept t a g e ∧ e.pc = a.e.pc + 4 ∧ RegsBut a g [] [] [] ∧
      (∀ r, r ≠ a.r → AList.get? t.groups r = AList.get? s.groups r) ∧ (∀ c, readCell t.mem c = readCell s.mem c) ∧
      let core := AList.getD t.cores (coreKey a.r) {}
      (∀ x ∈ core.reuse, x.ctx = a.g.ctx → x.lines = []) ∧ (2 ≤ modeSC a.e.mode → core.l1 = [])

/-- `regrp` completes in a block of one group that has arrived, with nothing outstanding: its live lanes move, in order, to
positions 0 up, every register with them; the vacated lanes read zero and are dead; scalars and memory keep their values, and
the group goes on past the word (08 R182 to R185). -/
def Obligations.RegroupWord : Prop :=
  ∀ (s : State) (a : At) (k : Bool) (b : Block), AList.get? s.blocks a.g.block = some b → b.bgroups = 1 →
    AList.get? b.slots 0 = some a.r → a.g.gid ∈ b.arrived → a.g.live ≠ 0 → a.g.batchesDone = true → a.g.ops = [] →
    a.g.entries = [(a.ei, a.e)] → a.e.wait = some .regroup → a.g.st = .active → Free s a (.regrp k) k {} → a.g.region = none →
    let ls := lanesIn a.g.live
    ∃ t g e, exec (.regrp k) s = .next t ∧ AList.get? t.groups a.r = some g ∧ AList.get? g.entries 0 = some e ∧
      e.pc = a.e.pc + 4 ∧ e.mode = a.e.mode ∧ e.fmt = a.e.fmt ∧ e.lanes = g.live ∧
      (∀ p, p < 32 → laneAt g.live p = decide (p < ls.length)) ∧
      (∀ v p, v < a.g.vregs → p < 32 → laneOf (g.vget v) p = match ls[p]? with
        | some l => laneOf (a.g.vget v) l
        | none => 0) ∧
      (∀ q p, q < 12 → p < 32 → laneAt (g.pget q) p = match ls[p]? with
        | some l => laneAt (a.g.pget q) l
        | none => false) ∧
      (∀ p l, ls[p]? = some l → AList.get? g.tid p = some (a.g.tidOf l)) ∧ (∀ n, g.sget n = a.g.sget n) ∧
      g.fflags = a.g.fflags ∧ g.quor = 0 ∧ ∀ c, readCell t.mem c = readCell s.mem c

namespace Sys2Proof.Statement

/-! ## Memory words -/

/-- What the spec says of a memory word: its switch marker, its registers and ordering, what it asks of a page, its accesses as
lane, width and address, and the operation they make. -/
structure MemoryWord where
  k : Bool
  use : Use
  accepts : Bool := true
  even : Bool := true
  need : Need
  accesses : List (Nat × Nat × DWord)
  kind : List Acc → OpKind
  /-- It writes a register later. -/
  late : Bool := true

/-- The address of a lane: the base and the lane's signed offset (14 R327). -/
def laneAddress (x : At) (s : BitVec 8) (o : BitVec 7) (l : Nat) : DWord :=
  x.sval s.toNat + (laneOf (x.g.vget o.toNat) l).signExtend 64

/-- The enabled lanes' accesses of the element's width (14 R327). -/
def lanesOf (x : At) (s : BitVec 8) (o : BitVec 7) : List (Nat × Nat × DWord) :=
  (lanesIn x.enabled).map fun l => (l, widthOf x.ty / 8, laneAddress x s o l)

/-- The one access of a scalar form (14 R332). -/
def scalarAccess (x : At) (s : BitVec 8) (i : BitVec 6) : List (Nat × Nat × DWord) :=
  [(0, 8, x.sval s.toNat + 8 * i.setWidth 64)]

/-- An atomic that combines its operand with the old value (14 R329). -/
def atomic (x : At) (k : Bool) (op : AtomicOp) (accept : EType → Bool) (s : BitVec 8) (d o : BitVec 7) : MemoryWord :=
  { k := k, use := { vr := regsOf x.ty d.toNat ++ [o.toNat], vw := regsOf x.ty d.toNat, sr := [s.toNat] }
    accepts := x.etype.isSome && accept x.ty, even := !is64 x.ty || d.toNat % 2 == 0
    need := .atomic, accesses := lanesOf x s o
    kind := fun accs => .atomic op (modeE x.e.mode) d.toNat (accs.map fun c => (c, x.elem x.ty d.toNat c.lane, 0)) }

/-- The rows of 14 R328, R329 and R332 as plain accesses. -/
def memoryWord (x : At) : Instr → Option MemoryWord
  | .vld k s d o => some
      { k := k, use := { vr := [o.toNat], vw := regsOf x.ty d.toNat, sr := [s.toNat] }
        accepts := x.etype.isSome, even := !is64 x.ty || d.toNat % 2 == 0
        need := .read, accesses := lanesOf x s o, kind := .load (modeE x.e.mode) d.toNat }
  | .vst k s v o => some
      { k := k, use := { vr := regsOf x.ty v.toNat ++ [o.toNat], sr := [s.toNat] }
        accepts := x.etype.isSome, even := !is64 x.ty || v.toNat % 2 == 0
        need := .write, accesses := lanesOf x s o, late := false
        kind := fun accs => .store (accs.map fun c => (c, x.elem x.ty v.toNat c.lane)) }
  | .sld k d s i => some
      { k := k, use := { sr := [s.toNat], sw := [d.toNat] }, need := .read, accesses := scalarAccess x s i
        kind := fun accs => match accs with
          | c :: _ => .sload d.toNat c
          | [] => .value [] }
  | .sst k d s i => some
      { k := k, use := { sr := [d.toNat, s.toNat] }, need := .write, accesses := scalarAccess x s i, late := false
        kind := fun accs => .store (accs.map fun c => (c, (x.sval d.toNat).toNat)) }
  | .saadd k d s i => some
      { k := k, use := { sr := [d.toNat, s.toNat], sw := [d.toNat] }, need := .atomic, accesses := scalarAccess x s i
        kind := fun accs => match accs with
          | c :: _ => .satomic d.toNat c (x.sval d.toNat).toNat
          | [] => .value [] }
  | .vaadd k s d o => some (atomic x k .add atomicType s d o)
  | .vamin k s d o => some (atomic x k .min atomicType s d o)
  | .vamax k s d o => some (atomic x k .max atomicType s d o)
  | .vaand k s d o => some (atomic x k .and logicType s d o)
  | .vaor k s d o => some (atomic x k .or logicType s d o)
  | .vaxor k s d o => some (atomic x k .xor logicType s d o)
  | .vaxch k s d o => some (atomic x k .xch atomicType s d o)
  | .vacas k s d o =>
    let c := casReg x.ty d.toNat
    some { atomic x k .cas atomicType s d o with
      use := { vr := regsOf x.ty d.toNat ++ [o.toNat] ++ regsOf x.ty c, vw := regsOf x.ty d.toNat, sr := [s.toNat] }
      even := !is64 x.ty || d.toNat % 4 == 0
      kind := fun accs => .atomic .cas (modeE x.e.mode) d.toNat
        (accs.map fun a => (a, x.elem x.ty d.toNat a.lane, x.elem x.ty c a.lane)) }
  | _ => none

/-- The group's watchpoints do not act (19 R429). -/
def Unwatching (s : State) (x : At) : Prop :=
  x.e.unchecked = true ∨ (AList.getD (AList.getD s.chips x.r.chip {}).probe x.g.ctx {}).watch = []

/-- The accesses pass every check of 14 R327, and no link on their way is down or fenced (18 R417). -/
structure Reached (s : State) (x : At) (need : Need) (xs : List (Nat × Nat × DWord)) (accs : List Acc) (h : s.memWf) :
    Prop where
  checked : (machine s h).checkAll x need false xs = .ok accs
  live : ∀ c ∈ accs, (machine s h).reach x.r.chip c.path = .live
  watched : Unwatching s x

/-- Whether an access is to replicated memory. -/
def replicated (c : Acc) : Bool :=
  match c.path with
  | .replica _ => true
  | _ => false

/-- The access of lane l in window 0x1, the block's shared memory (14 R303). -/
def sharedAcc (x : At) (l width off : Nat) : Acc :=
  { lane := l, va := BitVec.ofNat 64 (2 ^ 60 + off), key := sharedKey x.g.block off, width := width, path := .shared }

/-- An operation of a group that has nothing else to wait for when its result comes. -/
structure Pending (s : State) (r : GroupRef) (g : Group) (o : GroupOp) : Prop where
  wf : s.memWf
  whole : s.missing = false
  group : AList.get? s.groups r = some g
  oldest : ∃ rest, g.ops = o :: rest ∧ ∀ x ∈ rest, o.id < x.id
  fault : g.fault = none
  late : g.late = none
  stopping : g.stopping = false
  living : g.st ≠ .retiring
  meeting : ∀ b, AList.get? s.blocks g.block = some b → b.arrived = []

/-- What the performance of an operation leaves of its group: the operation is gone, and the split table, the special and
trap registers and the identity are as they were. -/
structure Performed (t : State) (r : GroupRef) (g g' : Group) (o : GroupOp) : Prop where
  group : AList.get? t.groups r = some g'
  ops : g'.ops = g.ops.tail
  flags : g'.fflags = g.fflags ||| o.flags
  entries : g'.entries = g.entries
  special : specials g' = specials g
  trap : traps g' = traps g
  same : identity g' = identity g

end Sys2Proof.Statement

/-- A load takes the result that an earlier one recorded in its core's reuse table: the operation writes it to the destination
(09 R196, R198, R199). -/
def Sys2Proof.Statement.Reused (s : State) (a : At) (z : MemoryWord) (accs : List Acc) (o : GroupOp) : Prop :=
  z.need = .read ∧ modeNR a.e.mode = false ∧ ∃ x ∈ (AList.getD s.cores (coreKey a.r) {}).reuse, x.ctx = a.g.ctx ∧
    o.kind = .value (retarget (z.kind accs).dests x.result) ∧ o.flags = x.flags

/-- The plain loads, stores and atomics of memory complete: where every access passes its checks and reaches its destination,
the operation is the group's youngest, with its addresses, operands and expected values as they are at issue, or with the result
that the reuse table gives a load; no register, no flag, no byte of memory changes yet (03 R56; 09 R198; 14 R308, R327 to R329,
R332). -/
def Sys2Proof.Statement.MemoryWords : Prop :=
  ∀ (s : State) (a : At) (i : Instr) (z : MemoryWord) (accs : List Acc) (h : s.memWf), memoryWord a i = some z →
    z.accepts = true → z.even = true → modeO a.e.mode = 0 → Reached s a z.need z.accesses accs h →
    (z.late = false → ∀ c ∈ accs, replicated c = false) → a.awaits = false →
    (z.late = false → (machine s h).forwarding a.r < 16) → Free s a i z.k z.use → a.g.region = none →
    ∃ t g e o, exec i s = .next t ∧ Kept t a g e ∧ e.pc = a.e.pc + 4 ∧ RegsBut a g [] [] [] ∧ g.fflags = a.g.fflags ∧
      Alone s t a ∧
      (z.late = false → accs = [] → g.ops = a.g.ops) ∧
      (z.late = true ∨ accs ≠ [] → g.ops = a.g.ops ++ [o] ∧ o.id = a.g.nextOp ∧ o.isV = z.late ∧
        (o.kind = z.kind accs ∧ o.flags = 0 ∨ Reused s a z accs o))

/-- An access to the block's shared memory passes its checks exactly where it lies inside the block's allotment, on a multiple
of its width (14 R303, R304, R327). -/
def Sys2Proof.Statement.SharedAccess : Prop :=
  ∀ (s : State) (h : s.memWf) (a : At) (b : Block) (need : Need) (l width off : Nat), l < 32 →
    AList.get? s.blocks a.g.block = some b → b.shared ≤ 2 ^ 21 → width ∈ [1, 2, 4, 8] → off < 2 ^ 60 →
    let check := (machine s h).checkAccess a need false l width (BitVec.ofNat 64 (2 ^ 60 + off))
    let va := some (BitVec.ofNat 64 (2 ^ 60 + off))
    (off < b.shared → off % width = 0 → check = .ok (sharedAcc a l width off)) ∧
    (off < b.shared → off % width ≠ 0 → check = .flt { code := 0x05, detail := l, tval := va }) ∧
    (b.shared ≤ off → check = .flt { code := 0x06, detail := 1, tval := va })

/-- A memory word whose accesses meet a fault raises it for the lowest lane that faults, before any lane's effect (14 R304,
R327; 05 R110). -/
def Obligations.AccessFault : Prop :=
  ∀ (s : State) (a : At) (i : Instr) (z : MemoryWord) (f : Flt) (h : s.memWf), memoryWord a i = some z →
    z.accepts = true → z.even = true → modeO a.e.mode = 0 → (machine s h).checkAll a z.need false z.accesses = .flt f →
    Free s a i z.k z.use → Calm s a →
    ∃ t g e, exec i s = .next t ∧ Taken s t a f.code f.detail f.tval a.e.pc g e

/-- `prf` completes and changes no register and no flag; no byte of memory changes while its chip has no line checked out that
the fetched ones could displace (14 R317, R322, R328). -/
def Sys2Proof.Statement.PrefetchWord : Prop :=
  ∀ (s : State) (a : At) (k : Bool) (r : BitVec 8) (o : BitVec 7), Free s a (.prf k r o) k {} →
    HasRoom a { allowed := modeO a.e.mode == 0 } →
    ∃ t g e, exec (.prf k r o) s = .next t ∧ Kept t a g e ∧ e.pc = a.e.pc + 4 ∧ RegsBut a g [] [] [] ∧
      g.fflags = a.g.fflags ∧ g.ops = a.g.ops ∧ (∀ q, q ≠ a.r → AList.get? t.groups q = AList.get? s.groups q) ∧
      ((∀ d ∈ s.directory, d.writer ≠ a.r.chip) → ∀ c, readCell t.mem c = readCell s.mem c)

/-- `vpush` and `vpop` complete inside the stack: the offset moves by 128 bytes, and the 32 lanes' stores, or the load of the
register, wait as the group's youngest operation; no register, no byte of memory changes yet (14 R330, R331). -/
def Sys2Proof.Statement.SpillWords : Prop :=
  ∀ (s : State) (a : At) (k : Bool) (v : BitVec 7) (off : Nat) (h : s.memWf), a.g.ssp = BitVec.ofNat 64 off →
    off < 2 ^ 21 → off % 128 = 0 → Unwatching s a → a.g.region = none → (machine s h).dieReach a.r.chip = .live →
    let lane := fun (p l w : Nat) => ({ lane := l, va := BitVec.ofNat 64 (3 * 2 ^ 60 + (p + 4 * l)), width := w, path := .stack
                                        key := scratchKey a.r.chip a.g.ctx (a.g.stackBase + p + 4 * l) } : Acc)
    (128 ≤ off → off ≤ a.g.stackLen → (machine s h).forwarding a.r < 16 → Free s a (.vpush k v) k { vr := [v.toNat] } →
      ∃ t g e o, exec (.vpush k v) s = .next t ∧ AList.get? t.groups a.r = some g ∧ AList.get? g.entries a.ei = some e ∧
        placing e = placing a.e ∧ e.pc = a.e.pc + 4 ∧ RegsBut a g [] [] [] ∧ Alone s t a ∧
        specials g = specials { a.g with ssp := BitVec.ofNat 64 (off - 128) } ∧ traps g = traps a.g ∧
        g.ops = a.g.ops ++ [o] ∧ o.isV = false ∧
        o.kind = .store (lanes.map fun l => (lane (off - 128) l 4, (laneOf (a.g.vget v.toNat) l).toNat))) ∧
    (off + 128 ≤ a.g.stackLen → Free s a (.vpopSpill k v) k { vw := [v.toNat] } →
      ∃ t g e o, exec (.vpopSpill k v) s = .next t ∧ AList.get? t.groups a.r = some g ∧
        AList.get? g.entries a.ei = some e ∧ placing e = placing a.e ∧ e.pc = a.e.pc + 4 ∧ RegsBut a g [] [] [] ∧
        Alone s t a ∧ specials g = specials { a.g with ssp := BitVec.ofNat 64 (off + 128) } ∧ traps g = traps a.g ∧
        g.ops = a.g.ops ++ [o] ∧ o.isV = true ∧ o.kind = .pop v.toNat (lanes.map fun l => lane off l 4))

/-- No copy of a group is in flight (13 R288). -/
def Sys2Proof.Statement.Uncopied (s : State) (g : Group) : Prop := ∀ c ∈ s.copies, (c.2.block, c.2.gid) ≠ (g.block, g.gid)

/-- RESULT_WRITEBACK completes for the group's oldest operation: a computed result's register writes are made and its flags
set; a load's destination takes the bytes of its accesses, lane by lane in lane form; no byte of memory changes
(03 R55, R56; 02 R42; 14 R308, R328). -/
def Sys2Proof.Statement.ResultArrives : Prop :=
  ∀ (s : State) (r : GroupRef) (g : Group) (o : GroupOp), Pending s r g o → o.isV = true →
    (∀ ws, o.kind = .value ws → ∃ t g', exec (.resultWriteback r o.id) s = .next t ∧ Performed t r g g' o ∧
      (∀ n, g'.vget n = lastV ws n (g.vget n)) ∧ (∀ n, g'.sget n = lastS ws n (g.sget n)) ∧
      (∀ n, g'.pget n = lastP ws n (g.pget n)) ∧ (∀ q, q ≠ r → AList.get? t.groups q = AList.get? s.groups q) ∧
      ∀ c, readCell t.mem c = readCell s.mem c) ∧
    ∀ (t' : EType) (vd n : Nat) (accs : List Acc) (h : s.memWf), o.kind = .load n vd accs → etypeOf n = some t' →
      is64 t' = false → accs.Pairwise (fun x y => x.lane < y.lane) → Uncopied s g →
      (∀ c ∈ accs, c.path = .shared ∧ c.lane < 32 ∧ c.width = widthOf t' / 8 ∧ (machine s h).accPoisoned c = false) →
      ∃ t g', exec (.resultWriteback r o.id) s = .next t ∧ Performed t r g g' o ∧
        (∀ m, m ≠ vd → g'.vget m = g.vget m) ∧ (∀ m, g'.sget m = g.sget m) ∧ (∀ m, g'.pget m = g.pget m) ∧
        (∀ l, l < 32 → (∀ c ∈ accs, c.lane ≠ l) → laneOf (g'.vget vd) l = laneOf (g.vget vd) l) ∧
        (∀ c ∈ accs, laneOf (g'.vget vd) c.lane =
          BitVec.ofNat 32 (laneForm t' (ofBytes ((upTo c.width).map fun i => (machine s h).loadByte r (c.key + i))))) ∧
        ∀ c, readCell t.mem c = readCell s.mem c

/-- STORE_PERFORM completes for the group's oldest operation, a store to the block's shared memory: its bytes hold the
values, of two lanes on one byte the later one's, every other byte of memory keeps its value, and no register changes
(14 R313, R328). -/
def Sys2Proof.Statement.StoreArrives : Prop :=
  ∀ (s : State) (r : GroupRef) (g : Group) (o : GroupOp) (xs : List (Acc × Nat)), Pending s r g o → o.isV = false →
    o.kind = .store xs → (∀ x ∈ xs, x.1.path = .shared) → Uncopied s g →
    let bytes := xs.flatMap fun x => cellsOf x.1.key (bytesOf x.1.width x.2)
    ∃ t g', exec (.storePerform r o.id) s = .next t ∧ Performed t r g g' o ∧
      (∀ m, g'.vget m = g.vget m) ∧ (∀ m, g'.sget m = g.sget m) ∧ (∀ m, g'.pget m = g.pget m) ∧
      (∀ q, q ≠ r → AList.get? t.groups q = AList.get? s.groups q) ∧
      ∀ c, readCell t.mem c = match bytes.reverse.find? fun x => x.1 == c with
        | some x => x.2
        | none => readCell s.mem c

/-- An atomic on the block's shared memory, as the group's oldest operation, completes at once: each lane's register takes the
old value and the bytes the new one (14 R311, R329). -/
def Sys2Proof.Statement.AtomicArrives : Prop :=
  ∀ (s : State) (r : GroupRef) (g : Group) (o : GroupOp) (op : AtomicOp) (vd n : Nat) (t' : EType) (c : Acc) (x y : Nat)
    (h : s.memWf), Pending s r g o → o.isV = true → o.kind = .atomic op n vd [(c, x, y)] → etypeOf n = some t' →
    is64 t' = false → widthOf t' = 32 → c.path = .shared → c.width = 4 → c.lane < 32 → 2 ^ 60 ≤ c.key →
    (machine s h).accPoisoned c = false → (∀ d ∈ s.directory, d.writer = r.chip → d.line ≠ c.key / 128) →
    let old := numberAt s.mem c.key 4
    ∃ t g', exec (.resultWriteback r o.id) s = .next t ∧ Performed t r g g' o ∧
      laneOf (g'.vget vd) c.lane = BitVec.ofNat 32 old ∧
      (∀ l, l < 32 → l ≠ c.lane → laneOf (g'.vget vd) l = laneOf (g.vget vd) l) ∧
      (∀ m, m ≠ vd → g'.vget m = g.vget m) ∧ (∀ m, g'.sget m = g.sget m) ∧ (∀ m, g'.pget m = g.pget m) ∧
      numberAt t.mem c.key 4 = atomicNew op t' old x y % 2 ^ 32 ∧
      ∀ m, m < c.key ∨ c.key + 4 ≤ m → readCell t.mem m = readCell s.mem m

namespace Sys2Proof.Statement

/-! ## Reductions, windows, collectives and copies -/

/-- The reductions of 14 R334 as unordered accesses: the operation's number and its registers. -/
def reduction : Instr → Option (Bool × Nat × BitVec 8 × BitVec 7 × BitVec 7)
  | .vredadd k s d o => some (k, 0, s, d, o)
  | .vredmin k s d o => some (k, 1, s, d, o)
  | .vredmax k s d o => some (k, 2, s, d, o)
  | _ => none

/-- A collective: its marker, its registers, and what is in flight for the targets of its lanes (14 R338, R339). -/
def collective (s : State) (h : s.memWf) (x : At) (ts : List (Nat × Nat × Nat × Nat)) :
    Instr → Option (Bool × Use × BitVec 7 × BitVec 7 × UnitOp)
  | .cput k d p a => some (k, { vr := [d.toNat, p.toNat, a.toNat] }, p, a,
      .put (ts.map fun t => (t.2.2.1, t.2.2.2, x.lane d.toNat t.1)))
  | .cget k d p a => some (k, { vr := [p.toNat, a.toNat], vw := [d.toNat] }, p, a,
      .get d.toNat (modeE x.e.mode) x.g.nextOp none (ts.map fun t => (t.1, t.2.2.1, t.2.2.2, x.lane a.toNat t.1)))
  | .cred k d p a => some (k, { vr := [d.toNat, p.toNat, a.toNat] }, p, a,
      .cred (modeE x.e.mode)
        (((ts.map fun t => (tableChip t.2.1, t.2.2.1)).eraseDups).map fun t => (t.2, (machine s h).livePaths x.r.chip t.2))
        (ts.map fun t => (t.1, t.2.2.1, t.2.2.2, x.lane d.toNat t.1)))
  | _ => none

/-- The open batch of a class of a group. -/
def openOps (g : Group) (c : Nat) : List BatchOp := (AList.getD g.batches c {}).opened

/-- A unit operation in flight that has completed: its record is gone. -/
def unitGone (t : State) (op : Nat) : Prop := AList.get? t.units op = none

/-- The addresses and direction of a `cpy` (13 R293). -/
def copyOf (x : At) : Instr → Option (Bool × Use × BitVec 4 × CopyDir × DWord × DWord)
  | .cpy k t a b r =>
    if r = 0 then some (k, { sr := [a.toNat, b.toNat] }, t, .memMem, x.sval a.toNat, x.sval b.toNat)
    else if r = 1 then some (k, { sr := [a.toNat] }, t, .memTile, x.sval a.toNat, BitVec.ofNat 64 (b.toNat % 32))
    else if r = 2 then some (k, { sr := [a.toNat] }, t, .tileMem, x.sval a.toNat, BitVec.ofNat 64 (b.toNat % 32))
    else some (k, { sr := [a.toNat, b.toNat] }, t, .memShared, x.sval a.toNat, x.sval b.toNat)
  | _ => none

/-- The queue of a block's home core (11 R244). -/
def copyQueueOf (s : State) (b : Block) : List Nat := (AList.getD s.cores (b.chip, b.span.headD 0) {}).copyQueue

end Sys2Proof.Statement

/-- `vredadd`, `vredmin` and `vredmax` complete: where every access passes its checks, the operation joins the open rd batch
and is in flight with the lanes' operands as they are at issue; no register, no byte of memory changes yet (13 R281; 14 R315,
R334). -/
def Sys2Proof.Statement.ReductionWords : Prop :=
  ∀ (s : State) (a : At) (i : Instr) (k : Bool) (n : Nat) (r : BitVec 8) (d o : BitVec 7) (accs : List Acc) (h : s.memWf),
    reduction i = some (k, n, r, d, o) → a.etype.isSome = true → atomicType a.ty = true →
    (is64 a.ty = true → d.toNat % 2 = 0) → modeO a.e.mode = 0 → Reached s a .atomic (lanesOf a r o) accs h →
    Drained s a → Free s a i k { vr := regsOf a.ty d.toNat ++ [o.toNat], sr := [r.toNat] } → a.g.region = none →
    ∃ t g e u, exec i s = .next t ∧ Kept t a g e ∧ e.pc = a.e.pc + 4 ∧ RegsBut a g [] [] [] ∧ g.ops = [] ∧
      openOps g 3 = openOps a.g 3 ++ [{ op := s.serial }] ∧ AList.get? t.units s.serial = some u ∧ u.grp = a.r ∧
      u.kind = .reduce n (modeE a.e.mode) (accs.map fun c => (c, a.elem a.ty d.toNat c.lane)) ∧
      (∀ q, q ≠ a.r → AList.get? t.groups q = AList.get? s.groups q) ∧ ∀ c, readCell t.mem c = readCell s.mem c

/-- REDUCTION_COMPLETE: a reduction of one lane on the block's shared memory is applied there once: the element becomes the
operation of its old value and the operand, every other byte keeps its value, and the operation is complete (14 R315, R334;
13 R297). -/
def Sys2Proof.Statement.ReductionApplies : Prop :=
  ∀ (s : State) (u : UnitRec) (n et : Nat) (t' : EType) (c : Acc) (x : Nat) (h : s.memWf), s.missing = false →
    AList.get? s.units u.op = some u → u.kind = .reduce n et [(c, x)] → etypeOf et = some t' → widthOf t' = 32 →
    c.path = .shared → c.width = 4 → 2 ^ 60 ≤ c.key → (machine s h).accPoisoned c = false →
    (∀ d ∈ s.directory, d.line ≠ c.key / 128) →
    ∃ t, exec (.reductionComplete u.op) s = .next t ∧ unitGone t u.op ∧
      numberAt t.mem c.key 4 = atomicNew (reduceOp n) t' (numberAt s.mem c.key 4) x 0 % 2 ^ 32 ∧
      ∀ m, m < c.key ∨ c.key + 4 ≤ m → readCell t.mem m = readCell s.mem m

/-- `rwin` completes: with no window open, a base, length and count inside the limits, no page of it replicated, and a home that
is reached and has room, the group's window
and the home's record of it are open, and an operation of the rd class is complete; no register, no byte of memory changes
(14 R335, R336). -/
def Sys2Proof.Statement.WindowOpen : Prop :=
  ∀ (s : State) (a : At) (k : Bool) (r : BitVec 8) (c : Acc) (h : s.memWf), a.g.window = none →
    let base := a.sval r.toNat
    let len := (a.sval (r.toNat + 1)).toNat
    let count := (a.sval (r.toNat + 2)).toNat
    base.toNat < 2 ^ 56 → base.toNat % 128 = 0 → 128 ≤ len → len ≤ 2 ^ 20 → len % 128 = 0 → 1 ≤ count → count ≤ 4096 →
    (machine s h).checkAll a .atomic false [(0, 1, base)] = .ok [c] → (machine s h).reach a.r.chip c.path = .live →
    (∀ p, base.toNat / 65536 ≤ p → p ≤ (base.toNat + len - 1) / 65536 → ∃ x, (machine s h).groupLookup a (p * 65536) = some x ∧
      ∀ e n ap, x = .leaf e n ap → leafKind e ≠ 2) →
    AList.get? s.windows c.key = none → (s.windows.filter fun w => homeOf w.1 == homeOf c.key).length < 16 → Drained s a →
    Free s a (.rwin k r) k { sr := [r.toNat, r.toNat + 1, r.toNat + 2] } → a.g.region = none →
    ∃ t g e o, exec (.rwin k r) s = .next t ∧ Kept t a g e ∧ e.pc = a.e.pc + 4 ∧ RegsBut a g [] [] [] ∧
      g.window = some { base := base, len := len, count := count, home := c.key, path := c.path, number := s.serial + 1 } ∧
      AList.get? t.windows c.key = some { len := len, count := count, number := s.serial + 1 } ∧
      o ∈ openOps g 3 ∧ o.op = s.serial ∧ o.done = some (0, 0) ∧ ∀ m, readCell t.mem m = readCell s.mem m

/-- `rwcl` completes: the group's window is closed, and its home counts the group among those that have closed it; no
register, no byte of memory changes (14 R336). -/
def Sys2Proof.Statement.WindowClose : Prop :=
  ∀ (s : State) (a : At) (k : Bool) (w : OpenWindow) (x : HomeWindow) (h : s.memWf), a.g.window = some w →
    w.combined = none → w.lost = false → (machine s h).reach a.r.chip w.path = .live → AList.get? s.windows w.home = some x →
      Drained s a → Free s a (.rwcl k) k {} → a.g.region = none →
    ∃ t g e key, exec (.rwcl k) s = .next t ∧ Kept t a g e ∧ e.pc = a.e.pc + 4 ∧ RegsBut a g [] [] [] ∧ g.window = none ∧
      openOps g 3 = openOps a.g 3 ++ [{ op := s.serial, descriptor := some [] }] ∧ key.core = a.r.core ∧ key.gid = a.g.gid ∧
      AList.get? t.windows w.home = some { x with closed := x.closed ++ [(s.serial, a.r, key)] } ∧
      ∀ m, readCell t.mem m = readCell s.mem m

/-- WINDOW_COMBINE: once the declared count of groups have closed a window, an element with one contribution becomes the
operation of its old value and the contribution, every other byte keeps its value, and the window's record is gone
(14 R336, R337). -/
def Sys2Proof.Statement.WindowCombines : Prop :=
  ∀ (s : State) (base : Nat) (w : HomeWindow) (p : Contribution) (t' : EType) (h : s.memWf), s.missing = false →
    AList.get? s.windows base = some w → w.count ≤ w.closed.length → w.mismatch = false → w.parts = [p] →
    etypeOf p.etype = some t' → widthOf t' = 32 → p.width = 4 → s.directory = [] → s.poison = [] →
    (machine s h).lineFree p.cell = true →
    ∃ t, exec (.windowCombine base) s = .next t ∧ AList.get? t.windows base = none ∧
      numberAt t.mem p.cell 4 = atomicNew (reduceOp p.op) t' (numberAt s.mem p.cell 4) p.value 0 % 2 ^ 32 ∧
      ∀ m, m < p.cell ∨ p.cell + 4 ≤ m → readCell t.mem m = readCell s.mem m

/-- The root of a window's element depends only on the values and on the placement of the contributors, not on the order in
which their contributions reach the home (14 R337). -/
def Obligations.WindowOrderFree : Prop :=
  ∀ (f : Nat → Nat → Nat) (xs ys : List (GroupKey × Nat)), xs.Perm ys → (xs.map Prod.fst).Nodup →
    windowRoot f xs = windowRoot f ys

/-- `cput`, `cget` and `cred` complete: where every enabled lane has a target, the operation joins the open co batch and is in
flight with its targets and operands; `cget`'s destination waits for it as the group's youngest result; no register, no byte
of memory changes yet (14 R338, R339). -/
def Sys2Proof.Statement.CollectiveWords : Prop :=
  ∀ (s : State) (a : At) (i : Instr) (k : Bool) (u : Use) (p o : BitVec 7) (kind : UnitOp) (h : s.memWf) (w : W)
    (ts : List (Nat × Nat × Nat × Nat)), collective s h a ts i = some (k, u, p, o, kind) →
    (∃ t, a.etype = some t ∧ collectiveType t = true) → modeO a.e.mode = 0 →
    (machine s h).collectiveLanes a p.toNat o.toNat (lanesIn a.enabled) = (w, .ok ts) → Drained s a → Free s a i k u →
    a.g.region = none →
    ∃ t g e x, exec i s = .next t ∧ Kept t a g e ∧ e.pc = a.e.pc + 4 ∧ RegsBut a g [] [] [] ∧
      (openOps g 2).map BatchOp.op = (openOps a.g 2).map BatchOp.op ++ [s.serial] ∧
      AList.get? t.units s.serial = some x ∧ x.kind = kind ∧ x.grp = a.r ∧
      (∀ vd et g' q ts', kind = .get vd et g' q ts' → ∃ y, g.ops = [y] ∧ y.id = a.g.nextOp ∧ y.isV = true ∧
        y.kind = .external [vd] []) ∧
      (∀ q, q ≠ a.r → AList.get? t.groups q = AList.get? s.groups q) ∧ ∀ m, readCell t.mem m = readCell s.mem m

/-- COLLECTIVE_COMPLETE: a `cput` of one lane to the group's own chip writes its word there once the line is free, a `cred` of
one lane adds to it, and either is then complete; every other byte keeps its value (14 R339, R340). -/
def Sys2Proof.Statement.CollectiveArrives : Prop :=
  ∀ (s : State) (u : UnitRec) (cell v : Nat) (h : s.memWf), s.missing = false → AList.get? s.units u.op = some u →
    cell < 2 ^ 60 → cell % 4 = 0 → s.poison = [] → s.directory = [] → (machine s h).lineFree cell = true →
    (machine s h).dieReach u.grp.chip = .live → (machine s h).arrived u.op = true →
    (u.kind = .put [(u.grp.chip, cell, v)] →
      ∃ t, exec (.collectiveComplete u.op) s = .next t ∧ unitGone t u.op ∧ numberAt t.mem cell 4 = v % 2 ^ 32 ∧
        ∀ m, m < cell ∨ cell + 4 ≤ m → readCell t.mem m = readCell s.mem m) ∧
    ∀ (l et : Nat) (t' : EType) (paths : AList Nat Nat), u.kind = .cred et paths [(l, u.grp.chip, cell, v)] →
      etypeOf et = some t' → widthOf t' = 32 →
      ∃ t, exec (.collectiveComplete u.op) s = .next t ∧ unitGone t u.op ∧
        numberAt t.mem cell 4 = atomicNew .add t' (numberAt s.mem cell 4) v 0 % 2 ^ 32 ∧
        ∀ m, m < cell ∨ cell + 4 ≤ m → readCell t.mem m = readCell s.mem m

/-- `cpy` completes where the template is valid, its checks pass and the queue has an entry: the copy waits at the end of the
home core's queue with the values as they are at issue, and joins the open cp batch; no register, no byte of memory changes
yet (11 R244; 13 R293, R294). -/
def Sys2Proof.Statement.CopyWord : Prop :=
  ∀ (s : State) (a : At) (i : Instr) (k : Bool) (u : Use) (n : BitVec 4) (dir : CopyDir) (x y : DWord) (p : Template)
    (b : Block) (h : s.memWf), copyOf a i = some (k, u, n, dir, x, y) → AList.get? s.blocks a.g.block = some b →
    (machine s h).template a.g n.toNat = some p → (machine s h).copyFault a p dir x y = none →
    (dir = .tileMem → (b.tile (y.toNat % 32)).st = .ready ∨ (b.tile (y.toNat % 32)).st = .draining) →
    (AList.getD s.cores (b.chip, b.span.headD 0) {}).copyShared < 512 → Drained s a → Free s a i k u → a.g.region = none →
    ∃ t g e c b', exec i s = .next t ∧ Kept t a g e ∧ e.pc = a.e.pc + 4 ∧ RegsBut a g [] [] [] ∧
      AList.get? t.copies s.serial = some c ∧ c.dir = dir ∧ c.tmpl = p ∧ c.x = x ∧ c.y = y ∧ c.block = a.g.block ∧
      c.grp = a.r ∧ c.st = .queued ∧ c.next = 0 ∧ copyQueueOf t b = copyQueueOf s b ++ [s.serial] ∧
      openOps g 1 = openOps a.g 1 ++ [{ op := s.serial, tmpl := n.toNat }] ∧ AList.get? t.blocks a.g.block = some b' ∧
      (dir ≠ .tileMem → b' = b) ∧
      (dir = .tileMem → (b'.tile (y.toNat % 32)).st = .draining ∧
        (b'.tile (y.toNat % 32)).readers = (b.tile (y.toNat % 32)).readers + 1) ∧
      ∀ m, readCell t.mem m = readCell s.mem m

/-- `mcast` completes to no block at once, and to others through the copy queue; no register, no byte of memory changes yet
(13 R295, R296). -/
def Sys2Proof.Statement.MulticastWord : Prop :=
  ∀ (s : State) (a : At) (k : Bool) (n : BitVec 4) (r m : BitVec 8) (p : Template) (b : Block) (z : Cluster) (h : s.memWf),
    AList.get? s.blocks a.g.block = some b → AList.get? s.clusters b.cluster = some z →
    (machine s h).template a.g n.toNat = some p → (machine s h).copyFault a p .multicast (a.sval r.toNat) p.dsh = none →
    (a.sval m.toNat).toNat < 2 ^ min z.size 16 →
    (AList.getD s.cores (b.chip, b.span.headD 0) {}).copyShared < 512 → Drained s a →
    Free s a (.mcast k n r m) k { sr := [r.toNat, m.toNat] } → a.g.region = none →
    let dests := (List.range 16).filter fun i => bitOf (a.sval m.toNat).toNat i && bitOf p.mask i
    ∃ t g e, exec (.mcast k n r m) s = .next t ∧ Kept t a g e ∧ e.pc = a.e.pc + 4 ∧ RegsBut a g [] [] [] ∧
      (dests = [] → t.copies = s.copies ∧ ∃ o ∈ openOps g 1, o.op = s.serial ∧ o.done = some (0, 0)) ∧
      (dests ≠ [] → ∃ c, AList.get? t.copies s.serial = some c ∧ c.dir = .multicast ∧ c.tmpl = p ∧
        c.x = a.sval r.toNat ∧ c.y = p.dsh ∧ c.dests.map Prod.fst = dests ∧
        copyQueueOf t b = copyQueueOf s b ++ [s.serial] ∧
        openOps g 1 = openOps a.g 1 ++ [{ op := s.serial, tmpl := n.toNat }]) ∧
      ∀ c, readCell t.mem c = readCell s.mem c

/-- COPY_START: the head of a core's copy queue leaves it; it runs, or, into a tile that is not EMPTY, it parks; into an EMPTY
tile it makes the tile FILLING (11 R237, R244, R245). -/
def Sys2Proof.Statement.CopyStarts : Prop :=
  ∀ (s : State) (chip core op : Nat) (rest : List Nat) (c : Copy) (b : Block), s.memWf → s.missing = false →
    (AList.getD s.cores (chip, core) {}).copyQueue = op :: rest → AList.get? s.copies op = some c → c.sharedEntry = true →
    AList.get? s.blocks c.block = some b →
    ∃ t c' b', exec (.copyStart chip core) s = .next t ∧ (AList.getD t.cores (chip, core) {}).copyQueue = rest ∧
      AList.get? t.copies op = some c' ∧ AList.get? t.blocks c.block = some b' ∧ t.groups = s.groups ∧
      (∀ m, readCell t.mem m = readCell s.mem m) ∧
      let y := c.y.toNat % 32
      (c.dir ≠ .memTile → c' = { c with st := .running } ∧ b' = b) ∧
      (c.dir = .memTile → (b.tile y).st = .empty → c' = { c with st := .running } ∧ (b'.tile y).st = .filling ∧
        (b'.tile y).writers = (b.tile y).writers + 1) ∧
      (c.dir = .memTile → (b.tile y).st ≠ .empty → c' = { c with st := .parked } ∧ b' = { b with parked := b'.parked } ∧
        AList.get? b'.parked y = some op)

/-- COPY_COMPLETE: a contiguous copy of n elements from the scratchpad into the block's shared memory makes the destination's
bytes those of the source, leaves every other byte as it was, and is then gone (13 R292, R297). -/
def Sys2Proof.Statement.CopyArrives : Prop :=
  ∀ (s : State) (c : Copy) (n xo yo : Nat) (h : s.memWf), s.missing = false → AList.get? s.copies c.op = some c →
    c.st = .running → c.dir = .memShared → c.next = 0 → c.undo = [] → c.raced = [] → (machine s h).dieReach c.chip = .live →
      s.directory = [] → s.waiting = [] → s.poison = [] →
    0 < n → c.tmpl.span 0 = n → c.tmpl.span 1 = 1 → c.tmpl.span 2 = 1 → c.tmpl.span 3 = 1 →
    c.tmpl.src 0 = c.tmpl.size → c.tmpl.dst 0 = c.tmpl.size → c.x = BitVec.ofNat 64 (2 ^ 61 + xo) →
    c.y = BitVec.ofNat 64 (2 ^ 60 + yo) → xo + n * c.tmpl.size ≤ 2 ^ 30 → yo + n * c.tmpl.size ≤ 2 ^ 21 → c.ctx < 64 →
      c.chip < 16 →
    xo + n * c.tmpl.size ≤ (AList.getD s.contexts (pkgOf c.chip, c.ctx) {}).scratch →
    ∃ t, exec (.copyComplete c.op) s = .next t ∧ AList.get? t.copies c.op = none ∧
      (∀ i, i < n * c.tmpl.size →
        readCell t.mem (sharedKey c.block (yo + i)) = readCell s.mem (scratchKey c.chip c.ctx (xo + i))) ∧
      ∀ m, m < sharedKey c.block yo ∨ sharedKey c.block yo + n * c.tmpl.size ≤ m → readCell t.mem m = readCell s.mem m

/-- COPY_WALK_FAULT: a walk that meets a translation fault at its next source element is held under the chip's next request
number, which COPYXLATE reports (13 R298). -/
def Sys2Proof.Statement.CopyFaults : Prop :=
  ∀ (s : State) (c : Copy) (w : W) (f : Flt) (h : s.memWf), s.missing = false → AList.get? s.copies c.op = some c →
    c.st = .running → c.dir = .memMem → c.next < c.tmpl.count → f.code = 0x07 ∨ f.code = 0x08 ∨ f.code = 0x09 →
    (machine s h).unitAccess c.chip c.ctx .read c.tmpl.size (walkAddr c.x (c.tmpl.offset c.tmpl.src c.next)) = (w, .flt f) →
    w.s.copies = s.copies → w.s.chips = s.chips → w.s.missing = false →
    let n := (AList.getD s.chips c.chip {}).nextRequest
    ∃ t, exec (.copyWalkFault c.op) s = .next t ∧ AList.get? t.copies c.op = some { c with st := .held n s.now } ∧
      AList.get? (AList.getD t.chips c.chip {}).requests n = some c.op ∧
      (AList.getD t.chips c.chip {}).nextRequest = (n + 1) % 2 ^ 32

/-- System software's answers to COPYXLATE: resumed, the held copy runs again; refused, it completes with XLATE and the bytes of
the elements it has moved, as the batches that hold it record, and is gone. A copy whose link has been out for 1 ms and still is
completes with LINK and is gone (13 R297, R298). -/
def Sys2Proof.Statement.CopyAnswers : Prop :=
  ∀ (s : State) (c : Copy) (chip request : Nat) (h : s.memWf), s.missing = false → AList.get? s.copies c.op = some c →
    (AList.get? (AList.getD s.chips chip {}).requests request = some c.op →
      (∃ t, exec (.copyxlateResume chip request) s = .next t ∧
      AList.get? t.copies c.op = some { c with st := .running } ∧
      AList.get? (AList.getD t.chips chip {}).requests request = none ∧ t.groups = s.groups ∧ t.mem = s.mem) ∧
     (((machine s h).failCopy c 1).s.missing = false →
      ∃ t, exec (.copyxlateRefuse chip request) s = .next t ∧ AList.get? t.copies c.op = none ∧
      ∀ r g o, AList.get? s.groups r = some g → o ∈ openOps g 1 → o.op = c.op → o.done = none →
        ∃ g', AList.get? t.groups r = some g' ∧ { o with done := some (1, c.next * c.tmpl.size) } ∈ openOps g' 1)) ∧
    ∀ (since : Nat) (w : W) (c' : Copy), c.linkOut = some since → since + 1000000 ≤ s.now →
      (machine s h).copyRest c = (w, c', .link) → c'.op = c.op → (w.failCopy c' 2).s.missing = false →
      ∃ t, exec (.copyLinkTimeout c.op) s = .next t ∧ AList.get? t.copies c.op = none

/-- MCAST_ARRIVAL: the bytes of a walk that has ended land in the shared memory of a destination block that is there, and are
discarded, the operation LATE, where it has retired; either way the destination is done with (13 R295, R296). -/
def Sys2Proof.Statement.MulticastArrives : Prop :=
  ∀ (s : State) (c : Copy) (d block : Nat), s.memWf → s.missing = false → AList.get? s.copies c.op = some c →
    c.st = .running → c.dir = .multicast → c.next = c.tmpl.count → c.raced = [] → s.poison = [] →
    (c.dests.find? fun x => x.1 == d) = some (d, block) →
    let rest := c.dests.filter fun x => x.1 != d
    let bytes := (upTo c.tmpl.count).flatMap fun i =>
      cellsOf (sharedKey block (fieldOf (walkAddr c.y (c.tmpl.offset c.tmpl.dst i)).toNat 0 60))
        ((c.data.drop (i * c.tmpl.size)).take c.tmpl.size)
    (AList.get? s.blocks block ≠ none → ∃ t, exec (.mcastArrival c.op d) s = .next t ∧
      AList.get? t.copies c.op = some { c with dests := rest } ∧
      ∀ m, readCell t.mem m = match bytes.reverse.find? fun x => x.1 == m with
        | some x => x.2
        | none => readCell s.mem m) ∧
    (AList.get? s.blocks block = none → ∃ t, exec (.mcastArrival c.op d) s = .next t ∧
      AList.get? t.copies c.op = some { c with dests := rest, late := true } ∧ t.mem = s.mem)

/-- VTOT_LAND: the bytes of a `vtot` land in its tile, which becomes READY where nothing else is in flight on it; every other
byte keeps its value (11 R237, R243). -/
def Sys2Proof.Statement.LanesLand : Prop :=
  ∀ (s : State) (block n : Nat) (b : Block) (h : s.memWf), s.missing = false → AList.get? s.blocks block = some b →
    (b.tile n).st = .filling → (b.tile n).writers = 1 → (b.tile n).engineWriters = 0 → (b.tile n).readers = 0 →
    (b.tile n).copyReaders = 0 → s.poison = [] → (∀ c ∈ s.copies, c.2.block ≠ block) →
    (machine s h).engineOps block = [] →
    ∃ t b', exec (.vtotLand block n) s = .next t ∧ AList.get? t.blocks block = some b' ∧ (b'.tile n).st = .ready ∧
      (b'.tile n).writers = 0 ∧ (b'.tile n).gen = (b.tile n).gen + 1 ∧ (∀ i, i ≠ n → b'.tile i = b.tile i) ∧
      t.groups = s.groups ∧
      ∀ m, readCell t.mem m = match (b.tile n).landing.reverse.find? fun x => x.1 == m with
        | some x => x.2
        | none => readCell s.mem m

namespace Sys2Proof.Statement

/-! ## The matrix engine -/

/-- The engine words: marker, registers named, and the operation (03 R73). -/
def engineWord : Instr → Option (Bool × Use × EngineWord)
  | .mma k d a b => some (k, {}, { code := 0x04, td := some d.toNat, ta := some a.toNat, tb := some b.toNat })
  | .mmas k d a b c =>
    some (k, {}, { code := 0x05, td := some d.toNat, ta := some a.toNat, tb := some b.toNat, tc := some c.toNat })
  | .mzero k d => some (k, {}, { code := 0x06, td := some d.toNat })
  | .mdrain k d a => some (k, {}, { code := 0x07, td := some d.toNat, ta := some a.toNat })
  | .kset k r => some (k, { sr := [r.toNat, r.toNat + 1, r.toNat + 2] }, { code := 0x0D, s := r.toNat })
  | .spld k a g => some (k, {}, { code := 0x0E, ta := some a.toNat, g := g.toNat })
  | .spst k d g => some (k, {}, { code := 0x0F, td := some d.toNat, g := g.toNat })
  | .spev k d a => some (k, {}, { code := 0x10, td := some d.toNat, ta := some a.toNat })
  | .spbwd k d a b => some (k, {}, { code := 0x11, td := some d.toNat, ta := some a.toNat, tb := some b.toNat })
  | .spgrd k d a b g =>
    some (k, {}, { code := 0x12, td := some d.toNat, ta := some a.toNat, tb := some b.toNat, g := g.toNat })
  | .sprf k => some (k, {}, { code := 0x13 })
  | _ => none

/-- No rendezvous of the group's block lists the group, which the group's own `%quor` does not name (11 R254). -/
def Unlisted (s : State) (x : At) : Prop :=
  ∀ b l, AList.get? s.blocks x.g.block = some b → b.latch = some l → x.g.gid ∉ quorList l.quor

/-- A core's engine. -/
def engineOf (s : State) (core : Nat × Nat) (n : Nat) : Engine := AList.getD (AList.getD s.cores core {}).engines n {}

/-- The home core of a block (07 R144). -/
def homeCore (b : Block) : Nat × Nat := (b.chip, b.span.headD 0)

end Sys2Proof.Statement

/-- The engine words complete outside a quorum where their checks pass and their tiles let them issue: the operation stands
last in the engine's queue with the fragment's `%fmt` and `%mode`, and, `kset` apart, joins the open mx batch; no register, no
byte of memory changes yet (11 R238, R249, R253, R255). -/
def Sys2Proof.Statement.EngineWords : Prop :=
  ∀ (s : State) (a : At) (i : Instr) (k : Bool) (u : Use) (w : EngineWord) (b : Block) (n : Nat) (h : s.memWf),
    engineWord i = some (k, u, w) → AList.get? s.blocks a.g.block = some b → b.engine = some n →
    (machine s h).engineFault a w = none → b.letsEngine w = true → fieldOf a.g.quor.toNat 0 3 < 2 → Free s a i k u →
    a.g.region = none →
    ∃ t g e o, exec i s = .next t ∧ Kept t a g e ∧ e.pc = a.e.pc + 4 ∧ RegsBut a g [] [] [] ∧ g.ops = a.g.ops ∧
      (engineOf t (homeCore b) n).ops = (engineOf s (homeCore b) n).ops ++ [o] ∧ o.op = s.serial ∧ o.eng = w ∧
      o.fmt = a.e.fmt ∧ o.mode = a.e.mode ∧
      openOps g 0 = openOps a.g 0 ++ (if w.code = 0x0D then [] else [{ op := s.serial }]) ∧
      (Unlisted s a → ∀ r, r ≠ a.r → AList.get? t.groups r = AList.get? s.groups r) ∧
      ∀ m, readCell t.mem m = readCell s.mem m

/-- `spoog` completes once the block's engine has no operation left: the scalar takes the out-of-grid count and its saturation
mark, and both are cleared (12 R273, R278). -/
def Sys2Proof.Statement.OutOfGridWord : Prop :=
  ∀ (s : State) (a : At) (k : Bool) (d : BitVec 8) (b : Block) (n : Nat), AList.get? s.blocks a.g.block = some b →
    b.engine = some n → (engineOf s (homeCore b) n).ops = [] → fieldOf a.g.quor.toNat 0 3 < 2 →
    Free s a (.spoog k d) k { sw := [d.toNat] } → a.g.region = none →
    let z := engineOf s (homeCore b) n
    ∃ t g e, exec (.spoog k d) s = .next t ∧ Kept t a g e ∧ e.pc = a.e.pc + 4 ∧ (Unlisted s a → Alone s t a) ∧
      (∀ m, readCell t.mem m = readCell s.mem m) ∧ RegsBut a g [] [d.toNat] [] ∧
      g.sget d.toNat = BitVec.ofNat 64 (z.oog + if z.oogSat then 2 ^ 32 else 0) ∧
      engineOf t (homeCore b) n = { z with oog := 0, oogSat := false }

/-- A block that holds no engine raises ENGINE on every engine word, and a tile outside the allotment or unconfigured raises
TILE 1 or 2 for the first such tile in the order td, ta, tb, tc; nothing of the word happens (11 R249, R259). -/
def Sys2Proof.Statement.EngineFaults : Prop :=
  ∀ (s : State) (a : At) (i : Instr) (k : Bool) (u : Use) (w : EngineWord) (b : Block), engineWord i = some (k, u, w) →
    AList.get? s.blocks a.g.block = some b → Free s a i k u → Calm s a →
    (b.engine = none → ∃ t g e, exec i s = .next t ∧ Taken s t a 0x0E 0 none a.e.pc g e) ∧
    (∀ n x, b.engine = some n → (w.names.find? fun x => decide (b.tiles ≤ x)) = some x →
      ∃ t g e, exec i s = .next t ∧ Taken s t a 0x0D 1 (some (BitVec.ofNat 64 x)) a.e.pc g e) ∧
    ∀ n x, b.engine = some n → (∀ y ∈ w.names, y < b.tiles) → (w.names.find? fun x => (b.tile x).rows == 0) = some x →
      ∃ t g e, exec i s = .next t ∧ Taken s t a 0x0D 2 (some (BitVec.ofNat 64 x)) a.e.pc g e

/-- ENGINE_OP_COMPLETE of an `mzero`, alone on its block's engines and its tile: every element of the tile is zero, every byte
outside the tile's slot keeps its value, the tile is READY and the engine's queue is empty (11 R237, R257). -/
def Sys2Proof.Statement.EngineZeroes : Prop :=
  ∀ (s : State) (chip core n block d : Nat) (b : Block) (o : EngineOp) (h : s.memWf), s.missing = false →
    (engineOf s (chip, core) n).block = some block → (engineOf s (chip, core) n).ops = [o] →
    (machine s h).engineOps block = [o] →
    (engineOf s (chip, core) n).releasing = false → AList.get? s.blocks block = some b →
    o.eng = { code := 0x06, td := some d } → (b.tile d).copyReaders = 0 → (b.tile d).writers = 1 →
    (b.tile d).readers = 0 → (b.tile d).rows * (b.tile d).cols * (b.tile d).size ≤ 65536 → s.poison = [] →
    ∃ t b', exec (.engineOpComplete chip core n) s = .next t ∧ (engineOf t (chip, core) n).ops = [] ∧
      AList.get? t.blocks block = some b' ∧ (b'.tile d).st = .ready ∧ (b'.tile d).writers = 0 ∧
      (∀ r c, r < (b.tile d).rows → c < (b.tile d).cols →
        numberAt t.mem (tileKey block d ((b.tile d).index r c * (b.tile d).size)) (b.tile d).size = 0) ∧
      ∀ m, m < tileKey block d 0 ∨ tileKey block d 65536 ≤ m → readCell t.mem m = readCell s.mem m

/-- An element of an i8 matrix product is the sum of the products of a row and a column and the old element, modulo 2^32
(02 R45). -/
def Sys2Proof.Statement.IntegerMatrix : Prop :=
  ∀ (n : Nat) (f g : Nat → BitVec 8) (x : BitVec 32),
    BitVec.ofNat 32 (matrixInt n (fun i => (f i).toNat) (fun i => (g i).toNat) x.toNat) =
      x + ((List.range n).map fun i => (f i).signExtend 32 * (g i).signExtend 32).foldr (· + ·) 0

/-- RENDEZVOUS_COMPLETE: once every group a latch lists is held, the tiles allow it and the first listed group's turn has
come, the operation enters the engine's queue once, the latch is empty, and every listed group's fragment goes on past its
word (11 R253). -/
def Sys2Proof.Statement.RendezvousGoes : Prop :=
  ∀ (s : State) (block : Nat) (b : Block) (l : Latch) (n : Nat) (f0 f1 : FragRef) (g0 g1 : Group) (e0 e1 : Entry),
    ∀ h : s.memWf, s.missing = false → AList.get? s.blocks block = some b → b.latch = some l → b.engine = some n →
    quorList l.quor = [g0.gid, g1.gid] → l.held = [(f0, false), (f1, false)] → f0.grp ≠ f1.grp → g0.gid ≠ g1.gid →
    AList.get? s.groups f0.grp = some g0 → AList.get? s.groups f1.grp = some g1 → g0.block = block → g1.block = block →
    AList.get? g0.entries f0.entry = some e0 → AList.get? g1.entries f1.entry = some e1 →
    l.eng.code ≠ 0x14 → l.eng.code ≠ 0x0D → b.letsEngine l.eng = true → (machine s h).rendezvousTurn block = true →
    (machine s h).engineFault ⟨f0.grp, f0.entry, g0, e0⟩ l.eng = none →
    AList.get? (AList.getD s.cores (coreKey f0.grp) {}).used (f0.grp.slot % 4) = none →
    ∃ t b' h0 h1 c0 c1 o, exec (.rendezvousComplete block) s = .next t ∧ AList.get? t.blocks block = some b' ∧
      b'.latch = none ∧ AList.get? t.groups f0.grp = some h0 ∧ AList.get? t.groups f1.grp = some h1 ∧
      AList.get? h0.entries f0.entry = some c0 ∧ AList.get? h1.entries f1.entry = some c1 ∧ c0.pc = e0.pc + 4 ∧
      c1.pc = e1.pc + 4 ∧ (engineOf t (homeCore b) n).ops = (engineOf s (homeCore b) n).ops ++ [o] ∧ o.eng = l.eng ∧
      openOps h0 0 = openOps g0 0 ++ [{ op := o.op }] ∧ openOps h1 0 = openOps g1 0 ++ [{ op := o.op }] ∧
      ∀ m, readCell t.mem m = readCell s.mem m

/-- LATCH_TIMEOUT: after 1 ms every held group takes QUORUM 5 at its next delivery, and the latch is empty; before that nothing
changes (11 R254). -/
def Sys2Proof.Statement.RendezvousTimesOut : Prop :=
  ∀ (s : State) (block : Nat) (b : Block) (l : Latch), s.memWf → s.missing = false →
    AList.get? s.blocks block = some b → b.latch = some l →
    (s.now < l.since + 1000000 → exec (.latchTimeout block) s = .next s) ∧
    (l.since + 1000000 ≤ s.now → ∃ t b', exec (.latchTimeout block) s = .next t ∧ AList.get? t.blocks block = some b' ∧
      b'.latch = none ∧ t.mem = s.mem ∧
      ∀ f ∈ l.held, ∀ g, AList.get? s.groups f.1.grp = some g → g.fault = none →
        ∃ g' x, AList.get? t.groups f.1.grp = some g' ∧ g'.fault = some x ∧ x.code = 0x0F ∧ x.detail = 5)

/-- `ixw` and `opf` complete on declared registers: `ixw` sets the base and length of one index window and leaves the others,
`opf` replaces the opf set; no register, no special register apart, no memory changes (09 R190, R201). -/
def Sys2Proof.Statement.OperandSets : Prop :=
  ∀ (s : State) (a : At) (k : Bool), HasRoom a {} →
    (∀ (n : BitVec 2) (b l : BitVec 7), b.toNat + l.toNat ≤ a.g.vregs → Free s a (.ixw k n b l) k {} →
      ∃ t g e, exec (.ixw k n b l) s = .next t ∧ AList.get? t.groups a.r = some g ∧ AList.get? g.entries a.ei = some e ∧
        placing e = placing a.e ∧ e.pc = a.e.pc + 4 ∧ e.mode = a.e.mode ∧ Alone s t a ∧ RegsBut a g [] [] [] ∧
        AList.get? g.windows n.toNat = some (b.toNat, l.toNat) ∧
        (∀ m, m ≠ n.toNat → AList.get? g.windows m = AList.get? a.g.windows m) ∧
        specials g = specials { a.g with windows := g.windows } ∧ traps g = traps a.g) ∧
    ∀ (b : BitVec 6) (m : BitVec 16), (∀ i, i < 16 → m.getLsbD i = true → 2 * b.toNat + i < a.g.vregs) →
      Free s a (.opf k b m) k {} →
      ∃ t g e, exec (.opf k b m) s = .next t ∧ AList.get? t.groups a.r = some g ∧ AList.get? g.entries a.ei = some e ∧
        placing e = placing a.e ∧ e.pc = a.e.pc + 4 ∧ e.mode = a.e.mode ∧ Alone s t a ∧ RegsBut a g [] [] [] ∧
        specials g = specials { a.g with opf := g.opf } ∧ traps g = traps a.g ∧
        ∀ n, n ∈ g.opf ↔ ∃ i, i < 16 ∧ m.getLsbD i = true ∧ n = 2 * b.toNat + i

/-- TRAP_DELIVER: a fault that waits is taken once no V-class result of its group is outstanding (05 R110 to R112). -/
def Sys2Proof.Statement.FaultDelivered : Prop :=
  ∀ (s : State) (r : GroupRef) (g : Group) (e : Entry) (f : FaultInfo), s.memWf → s.missing = false →
    AList.get? s.groups r = some g → g.fault = some f → AList.get? g.entries f.entry = some e → g.late = none →
    g.region = none → g.outstanding = false → g.st = .active ∨ g.st = .resident →
    (AList.getD s.contexts (pkgOf r.chip, g.ctx) {}).st ≠ .draining →
    ∃ t g' e', exec (.trapDeliver r) s = .next t ∧ Taken s t ⟨r, f.entry, g, e⟩ f.code f.detail f.tval f.tpc g' e'

/-- BATCH_RETIRE: the oldest sealed batch of a class leaves it once all its operations are complete; the first error status
among them is recorded with its bytes, template and sequence number (13 R282, R300). -/
def Sys2Proof.Statement.BatchRetires : Prop :=
  ∀ (s : State) (r : GroupRef) (g : Group) (c seq status bytes : Nat) (o : BatchOp) (rest : List (Nat × List BatchOp)),
    s.memWf → s.missing = false → AList.get? s.groups r = some g → g.st ≠ .retiring →
    (∀ b, AList.get? s.blocks g.block = some b → b.arrived = []) →
    let z := AList.getD g.batches c {}
    z.sealed = (seq, [o]) :: rest → o.done = some (status, bytes) → o.descriptor = none → z.sealDue = false → z.error = {} →
    ∃ t g', exec (.batchRetire r c) s = .next t ∧ AList.get? t.groups r = some g' ∧
      AList.getD g'.batches c {} = { z with sealed := rest, error := if status = 0 then {} else
        { status := status, bytes := bytes, tmpl := o.tmpl, seq := seq, err := status != 4 } } ∧
      (∀ d, d ≠ c → AList.getD g'.batches d {} = AList.getD g.batches d {}) ∧ g'.osig = g.osig ∧
      (∀ n, g'.vget n = g.vget n) ∧ (∀ n, g'.sget n = g.sget n) ∧ t.mem = s.mem

/-- WRITE_VISIBLE: the oldest write that waits at a line's home becomes visible, and the interrupt of a note is raised, once no
lease on the line can be live, and until then nothing changes. FLUSH_ACK: a destination that can be reached holds nothing more
of the group's release (14 R319, R324; 06 R137). -/
def Sys2Proof.Statement.WriteOrder : Prop :=
  (∀ (s : State) (line : Nat) (x : HomeWrite) (h : s.memWf), s.missing = false →
    (s.waiting.find? fun w => w.line == line) = some x →
    ((machine s h).lineClear line = false → exec (.writeVisible line) s = .next s) ∧
    ((machine s h).lineClear line = true → s.poison = [] → ∃ t, exec (.writeVisible line) s = .next t ∧
      t.toSys = { s.toSys with waiting := s.waiting.erase x, outputs := match x.irq with
        | some (c, v) => .irq c v :: s.outputs
        | none => s.outputs } ∧
      ∀ m, readCell t.mem m = match x.bytes.reverse.find? fun b => b.1 == m with
        | some b => b.2
        | none => readCell s.mem m)) ∧
  ∀ (s : State) (r : GroupRef) (g : Group) (d : Nat) (x : Releasing) (h : s.memWf), s.missing = false →
    AList.get? s.groups r = some g → g.releasing = some x →
    ((machine s h).dieReach r.chip).both ((machine s h).cldReach r.chip d) ≠ .held →
    ∃ t g', exec (.flushAck r d) s = .next t ∧ AList.get? t.groups r = some g' ∧
      g' = { g with releasing := some { x with waiting := x.waiting.filter (· != d) } } ∧ t.mem = s.mem

/-- WALK_COMPLETE and MIG_REWALK: a walk that finds a leaf enters it in the CLD's cache and is done; one that finds none hands
its cause to the groups that wait for it, and is done; one that finds MIG = 1 goes on waiting (17 R392, R403, R405). -/
def Sys2Proof.Statement.WalkReturns : Prop :=
  ∀ (s : State) (chip ctx page : Nat) (k : Walk) (i : Instr) (w : W) (x : Walked) (h : s.memWf), s.missing = false →
    (s.walks.find? fun k => k.chip == chip && k.ctx == ctx && k.page == page) = some k →
    i = .walkComplete chip ctx page ∧ k.mig = none ∨ i = .migRewalk chip ctx page ∧ k.mig ≠ none →
    (machine s h).walk chip ctx (page * 65536) = (w, x) → w.s.missing = false →
    ∃ t, exec i s = .next t ∧
      (x = .migrating → ∃ y ∈ t.walks, y.chip = chip ∧ y.ctx = ctx ∧ y.page = page ∧ y.mig = some s.now) ∧
      (x ≠ .migrating → ∀ y ∈ t.walks, ¬(y.chip = chip ∧ y.ctx = ctx ∧ y.page = page)) ∧
      (∀ leaf bits ap, x = .leaf leaf bits ap → cachable leaf = true → ∃ y ∈ t.tlb, y.chip = chip ∧ y.core = 96 ∧ y.ctx = ctx ∧
        y.leaf = leaf ∧ y.bits = bits) ∧
      (∀ c, x = .nomap c → ∀ r ∈ k.joined, ∀ g, AList.get? s.groups r = some g →
        ∃ g', AList.get? t.groups r = some g' ∧ (page, none, c) ∈ g'.walks)

/-- A group that has become ACTIVE in a cycle (08 R160). -/
def Sys2Proof.Statement.promotedAs (g : Group) (cycle : Nat) : Group :=
  { g with st := .active, activeSince := cycle, readySince := none, waitingSince := none, issueFrom := cycle + 1 }

/-- PROMOTION: the group of a sub-datapath that has been ready longest becomes ACTIVE where a place is free, and issues from
the next cycle. DEMOTION: a group that has waited 64 cycles becomes RESIDENT and loses its operand buffer. FORCED_ROTATION: the
group ACTIVE for the longest time gives its place to the one that has been ready longest (08 R159 to R161). -/
def Sys2Proof.Statement.Rotation : Prop :=
  (∀ (s : State) (x : GroupRef × Group) (g : Group) (h : s.memWf), s.missing = false →
    (machine s h).oldestReady x.1.chip x.1.core (x.1.slot % 4) = some x → AList.get? s.groups x.1 = some g →
    ((machine s h).activeGroups x.1.chip x.1.core (x.1.slot % 4)).length < 32 →
    exec (.promotion x.1) s = .next { s with groups := AList.put s.groups x.1 (promotedAs g s.cycle) }) ∧
  (∀ (s : State) (r : GroupRef) (g : Group) (c : Nat), s.memWf → s.missing = false → AList.get? s.groups r = some g →
    g.st = .active → g.waitingSince = some c → c + 64 ≤ s.cycle →
    ∃ t g', exec (.demotion r) s = .next t ∧ AList.get? t.groups r = some g' ∧ g'.st = .resident ∧ g'.buffer = [] ∧
      (∀ n, g'.vget n = g.vget n) ∧ g'.s = g.s ∧ g'.p = g.p ∧ specials g' = specials g ∧ traps g' = traps g ∧
      t.toSys = { s.toSys with groups := t.groups } ∧ t.mem = s.mem) ∧
  ∀ (s : State) (r : GroupRef) (g : Group) (x y : GroupRef × Group) (c : Nat) (h : s.memWf), s.missing = false →
    (s.groups.map Prod.fst).Nodup → AList.get? s.groups r = some g → g.st = .resident →
    (machine s h).mayRun r g = true → (machine s h).groupReady r g = true → g.readySince = some c → c + 4096 ≤ s.cycle →
    ((machine s h).activeGroups r.chip r.core (r.slot % 4)).length = 32 →
    oldestOf Group.activeSince ((machine s h).activeGroups r.chip r.core (r.slot % 4)) = some x →
    (machine s h).oldestReady r.chip r.core (r.slot % 4) = some y →
    ∃ t g' g'', exec (.forcedRotation r) s = .next t ∧ AList.get? t.groups x.1 = some g' ∧ g'.st = .resident ∧
      g'.buffer = [] ∧ AList.get? t.groups y.1 = some g'' ∧ g''.st = .active ∧ t.mem = s.mem

namespace Sys2Proof.Statement

/-! ## Atomic regions -/

/-- An access of a region to the scratchpad, of an aligned word of 32 bits. -/
structure ScratchWord (c : Acc) : Prop where
  path : c.path = .scratch
  key : 2 ^ 61 ≤ c.key
  width : c.width = 4
  tag : c.va.toNat / 2 ^ 60 = 2

end Sys2Proof.Statement

/-- `ab` completes outside a region in a group of one fragment: the region is open with the registers, index windows and mode
state as its checkpoint, and `%rgn` says so; no register, no memory changes (16 R371, R389). -/
def Sys2Proof.Statement.RegionOpens : Prop :=
  ∀ (s : State) (a : At) (k : Bool) (o : BitVec 22), a.g.region = none → a.g.entries.length = 1 → a.g.handler = none →
    a.g.outstanding = false → a.g.late = none → Free s a (.ab k o) k {} →
    ∃ t g e rg, exec (.ab k o) s = .next t ∧ AList.get? t.groups a.r = some g ∧ AList.get? g.entries a.ei = some e ∧
      placing e = placing a.e ∧ e.pc = a.e.pc + 4 ∧ e.mode = a.e.mode ∧ RegsBut a g [] [] [] ∧ g.region = some rg ∧
      rg.abpc = a.e.pc ∧ rg.fallback = relative a o ∧ rg.entry = a.ei ∧ rg.v = a.g.v ∧ rg.s = a.g.s ∧ rg.p = a.g.p ∧
      rg.windows = a.g.windows ∧ rg.before = a.e.modeState ∧ rg.loads = [] ∧ rg.stores = [] ∧ rg.issued = 0 ∧
      rg.sent = false ∧ rgnOut g.rgn = 1 ∧ traps g = traps a.g ∧ Alone s t a

/-- `ac` completes with everything performed: the record goes for commit and the group waits for the outcome; no register, no
byte of memory changes yet (16 R381). -/
def Sys2Proof.Statement.RegionSends : Prop :=
  ∀ (s : State) (a : At) (k : Bool) (rg : Region), a.g.region = some rg → rg.home ≠ some none → a.g.late = none →
    Drained s a → HasRoom a { counts := false } → Free s a (.ac k) k {} →
    ∃ t g e rg', exec (.ac k) s = .next t ∧ Kept t a g e ∧ e.pc = a.e.pc + 4 ∧ RegsBut a g [] [] [] ∧
      g.region = some rg' ∧ rg'.sent = true ∧ rg'.loads = rg.loads ∧ rg'.stores = rg.stores ∧
      rg'.constraints = rg.constraints ∧ (∀ x ∈ rg.fragile, x ∈ rg'.fragile) ∧ ∀ m, readCell t.mem m = readCell s.mem m


/-- `ab` in a split group or in a handler raises REGION 12; nothing of the word happens (16 R371). -/
def Sys2Proof.Statement.RegionFaults : Prop :=
  ∀ (s : State) (a : At) (k : Bool) (o : BitVec 22), 1 < a.g.entries.length ∨ a.g.handler ≠ none →
    Free s a (.ab k o) k {} → Calm s a → ∃ t g e, exec (.ab k o) s = .next t ∧ Taken s t a 0x13 12 none a.e.pc g e

/-- REGION_COMMIT of a record of one load and one plain store on the scratchpad: where the value read again is the one the
region loaded, the outcome is 2 and the store is made; where it differs and nothing depends on it, the outcome is 3 and the
store is made; where it differs and is fragile, the outcome is 4 and no byte changes (16 R379, R382, R384). -/
def Sys2Proof.Statement.RegionCommits : Prop :=
  ∀ (s : State) (r : GroupRef) (g : Group) (rg : Region) (l : RegionLoad) (c : Acc) (v : Nat) (h : s.memWf),
    s.missing = false → AList.get? s.groups r = some g → g.region = some rg → rg.sent = true → rg.result = none →
    rg.turnOp = none → rg.loads = [l] → rg.stores = [{ acc := c, data := .plain v }] → rg.constraints = [] →
    ScratchWord l.acc → ScratchWord c → (machine s h).dieReach r.chip = .live → s.directory = [] → s.poison = [] →
    let now := numberAt s.mem l.acc.key 4
    let stored := fun (t : State) => numberAt t.mem c.key 4 = v % 2 ^ 32 ∧
      ∀ m, m < c.key ∨ c.key + 4 ≤ m → readCell t.mem m = readCell s.mem m
    ∃ t g' res, exec (.regionCommit r) s = .next t ∧ AList.get? t.groups r = some g' ∧
      g'.region = some { rg with result := some res } ∧ (∀ n, g'.vget n = g.vget n) ∧
      (now = l.old → res.out = 2 ∧ stored t) ∧
      (now ≠ l.old → (l.lane, l.k) ∉ rg.fragile → res.out = 3 ∧ res.nchg = 1 ∧ stored t) ∧
      (now ≠ l.old → (l.lane, l.k) ∈ rg.fragile → res.out = 4 ∧ res.cause = 2 ∧ t.mem = s.mem)

/-- REGION_OUTCOME: a committed region ends with every lane that holds a loaded value plus a constant rewritten from the value
read at the commit, every other lane as it was; an aborted one restores its checkpoint and goes on at its fallback. `%rgn` holds
the outcome; no byte of memory changes (16 R381, R385, R389). -/
def Sys2Proof.Statement.RegionEnds : Prop :=
  ∀ (s : State) (r : GroupRef) (g : Group) (rg : Region) (res : CommitResult), s.memWf → s.missing = false →
    AList.get? s.groups r = some g → g.region = some rg → rg.sent = true → rg.result = some res → res.out < 8 →
    (AList.getD s.contexts (pkgOf r.chip, g.ctx) {}).st ≠ .draining → g.stopping = false →
    (∀ n, AList.get? g.v n = none → AList.get? rg.v n = none) → AList.get? g.entries rg.entry ≠ none →
    ∃ t g', exec (.regionOutcome r) s = .next t ∧ AList.get? t.groups r = some g' ∧ g'.region = none ∧
      rgnOut g'.rgn = res.out ∧ (∀ m, readCell t.mem m = readCell s.mem m) ∧
      (res.out ≠ 4 → g'.s = g.s ∧ g'.p = g.p ∧ g'.entries = g.entries ∧ ∀ n l, l < 32 → laneOf (g'.vget n) l =
        match rg.tag n l with
        | some (.sym k c) => BitVec.ofNat 32 (freshOf res.fresh l k) + c
        | _ => laneOf (g.vget n) l) ∧
      (res.out = 4 → Restored g' rg rg.fallback rg.after)

namespace Sys2Proof.Statement

/-! ## Contexts -/

/-- A context slot as a state holds it. -/
def slotAt (s : State) (pkg slot : Nat) : Context := AList.getD s.contexts (pkg, slot) {}

/-- The state once a context command has left its slot as c and answered. -/
def answered (s : State) (pkg slot : Nat) (c : Context) (st : CmdStatus) : State :=
  { s with
    contexts := AList.put s.contexts (pkg, slot) c
    outputs := .command pkg slot st (if st = .ok then c.versions else (0, 0, 0)) :: s.outputs }

/-- The status of BIND from the descriptor's bytes: the first failing check (05 R106). -/
def bindStatus (w : W) (pkg addr : Nat) : CmdStatus :=
  let bs := w.physRead pkg addr 128
  if descBad addr bs then .badDesc
  else if !(versionOk (descField bs 0x58 2) && versionOk (descField bs 0x5A 2) && versionOk (descField bs 0x5C 2)) then .version
  else if w.noResources pkg (contextOfDesc bs) then .noRes
  else .ok

end Sys2Proof.Statement
open Sys2Proof.Statement

/-- CREATE takes a FREE slot to BUILDING and answers ok; on any other slot it answers BADSTATE and changes nothing else
(05 R107). -/
def Sys2Proof.Statement.ContextCreated : Prop :=
  ∀ (s : State) (pkg slot : Nat) (h : s.memWf), s.missing = false → (machine s h).packageReady pkg = true → slot < 64 →
    let c := slotAt s pkg slot
    (c.st = .free → exec (.create pkg slot) s = .next (answered s pkg slot { c with st := .building } .ok)) ∧
    (c.st ≠ .free → exec (.create pkg slot) s =
      .next { s with outputs := .command pkg slot .badState (0, 0, 0) :: s.outputs })

/-- BIND of a BUILDING slot: a failing check answers its status and the slot is FREE again; a descriptor that passes them all
leaves the slot BOUND with the descriptor's fields, one bind more, and its probe registers at their reset values on every chip
of the package (05 R104 to R107; 17 R404; 19 R421). -/
def Sys2Proof.Statement.ContextBound : Prop :=
  ∀ (s : State) (pkg slot addr : Nat) (h : s.memWf), s.missing = false → (machine s h).packageReady pkg = true → slot < 64 →
    (machine s h).auditStalls pkg = false → (slotAt s pkg slot).st = .building → anyCell pkg addr ≠ none →
    let c := slotAt s pkg slot
    let x := bindStatus (machine s h) pkg addr
    let new := { contextOfDesc ((machine s h).physRead pkg addr 128) with
      st := .bound, versions := (1, 1, 1), binds := (c.binds + 1) % 1024 }
    (x ≠ .ok → exec (.bind pkg slot addr) s = .next (answered s pkg slot { c with st := .free } x)) ∧
    (x = .ok → ∃ t, exec (.bind pkg slot addr) s = .next t ∧ t.contexts = AList.put s.contexts (pkg, slot) new ∧
      .command pkg slot .ok (1, 1, 1) ∈ t.outputs ∧ t.groups = s.groups ∧
      (∀ k ∈ chipsOf pkg, AList.get? (chipAt t k).probe slot = none) ∧
      ∀ m, m < 2 ^ 150 → readCell t.mem m = readCell s.mem m)

/-- SUSPEND of a RUNNING context leaves it PREEMPTED with every cluster that is not saved stopping. RESUME of a PREEMPTED one,
with no launch of its package waiting and none whose blocks have all retired, leaves it BOUND where it has no cluster and
RUNNING where it has (05 R107). -/
def Sys2Proof.Statement.ContextSuspended : Prop :=
  ∀ (s : State) (pkg slot : Nat) (h : s.memWf), s.missing = false → (machine s h).packageReady pkg = true → slot < 64 →
    let c := slotAt s pkg slot
    (c.st = .running → ∃ t, exec (.suspend pkg slot) s = .next t ∧
      t.contexts = AList.put s.contexts (pkg, slot) { c with st := .preempted } ∧ t.mem = s.mem ∧
      t.outputs = .command pkg slot .ok c.versions :: s.outputs ∧
      ∀ n k, AList.get? s.clusters n = some k → pkgOf k.chip = pkg → k.ctx = slot → k.st ≠ .saved →
        AList.get? t.clusters n = some { k with st := .stopping none }) ∧
    (c.st = .preempted → (∀ l ∈ s.launches, pkgOf l.2.chip = pkg →
        l.2.st ≠ .pending ∧ (l.2.st = .running → l.2.retired ≠ l.2.record.blocks)) →
      exec (.resume pkg slot) s = .next (answered s pkg slot
        { c with st := if ((machine s h).clustersOf pkg slot).isEmpty then .bound else .running } .ok))

/-- RELEASE of a BUILDING slot leaves it FREE. Of a BOUND, RUNNING or PREEMPTED one with no copy in flight it leaves it
DRAINING: its launches are gone, and each of its groups with no commit and no turn sent is stopped (05 R107, R108). -/
def Sys2Proof.Statement.ContextReleased : Prop :=
  ∀ (s : State) (pkg slot : Nat) (h : s.memWf), s.missing = false → (machine s h).packageReady pkg = true → slot < 64 →
    let c := slotAt s pkg slot
    (c.st = .building → exec (.release pkg slot) s = .next (answered s pkg slot { c with st := .free } .ok)) ∧
    (c.st = .bound ∨ c.st = .running ∨ c.st = .preempted →
      (∀ x ∈ s.copies, ¬(pkgOf x.2.chip = pkg ∧ x.2.ctx = slot)) →
      ∃ t, exec (.release pkg slot) s = .next t ∧ (slotAt t pkg slot).st = .draining ∧
        .command pkg slot .ok c.versions ∈ t.outputs ∧
        (∀ l ∈ t.launches, ¬(pkgOf l.2.chip = pkg ∧ l.2.ctx = slot)) ∧
        ∀ r g, AList.get? s.groups r = some g → pkgOf r.chip = pkg → g.ctx = slot → g.region = none → g.turnWait = none →
          ∃ g', AList.get? t.groups r = some g' ∧ g'.st = .stopped)

/-- CONTEXT_DRAIN_END: with everything of a DRAINING context complete it is SCRUBBING; each of its seats is OFF and the seat's
region reads zero; every other byte is as it was (05 R107, R108; 15 R346, R367). -/
def Sys2Proof.Statement.ContextDrained : Prop :=
  ∀ (s : State) (pkg slot : Nat) (h : s.memWf), s.missing = false → (s.groups.map Prod.fst).Nodup →
    (slotAt s pkg slot).st = .draining → (machine s h).drained pkg slot = true →
    (∀ x ∈ s.groups, pkgOf x.1.chip = pkg → x.2.ctx = slot → x.2.ops = []) →
    (∀ x ∈ s.directory, ¬(pkgOf x.writer = pkg ∧ x.ctx = slot)) →
    let held := fun k => k ∈ chipsOf pkg ∧ (chipAt s k).seat.st ≠ .off ∧ (chipAt s k).seat.ctx = slot
    let inside := fun k m => ∃ x, Seat.region (chipAt s k).seat k = some x ∧ x.1 ≤ m ∧ m < x.1 + x.2
    (∀ k, held k → ∃ x, Seat.region (chipAt s k).seat k = some x ∧
      (chipAt s k).seat.base.toNat % 2 ^ 48 + x.2 ≤ hbmBytes) →
    ∃ t, exec (.contextDrainEnd pkg slot) s = .next t ∧
      t.contexts = AList.put s.contexts (pkg, slot) { slotAt s pkg slot with st := .scrubbing, scrubbed := [] } ∧
      (∀ k, held k → (chipAt t k).seat.st = .off) ∧
      (∀ k m, held k → inside k m → readCell t.mem m = 0) ∧
      ∀ m, (∀ k, held k → ¬inside k m) → readCell t.mem m = readCell s.mem m

/-- SCRUB_DONE: a chip's carve-out of the context reads zero, and no group and no translation of the context stays on the chip.
The slot goes on SCRUBBING until all four chips have reported; then it is FREE, with every field but the number of its binds at
its reset value (05 R119, R120; 17 R404). -/
def Sys2Proof.Statement.ContextScrubbed : Prop :=
  ∀ (s : State) (chip slot : Nat) (h : s.memWf), s.missing = false → chip < 2 ^ 20 → slot < 64 →
    let c := slotAt s (pkgOf chip) slot
    c.st = .scrubbing → chip ∉ c.scrubbed → (machine s h).auditStalls (pkgOf chip) = false →
    ∃ t, exec (.scrubDone chip slot) s = .next t ∧
      slotAt t (pkgOf chip) slot = (if c.scrubbed.length < 3 then { c with scrubbed := c.scrubbed ++ [chip] }
        else { binds := c.binds }) ∧
      (∀ off, off < 2 ^ 30 → readCell t.mem (scratchKey chip slot off) = 0) ∧
      (∀ x ∈ t.groups, ¬(x.1.chip = chip ∧ x.2.ctx = slot)) ∧ ∀ x ∈ t.tlb, ¬(x.chip = chip ∧ x.ctx = slot)

namespace Sys2Proof.Statement

/-! ## Queues and launches -/

/-- A hardware queue as a state holds it. -/
def queueAt (s : State) (chip q : Nat) : Queue := AList.getD (chipAt s chip).queues q {}

/-- The state with one hardware queue changed. -/
def withQueue (s : State) (chip q : Nat) (x : Queue) : State :=
  { s with chips := AList.put s.chips chip { chipAt s chip with queues := AList.put (chipAt s chip).queues q x } }

/-- The interrupt of a queue's error vector (06 R128). -/
def errorIrq (s : State) (chip q : Nat) : Output := .irq chip (fieldOf (queueAt s chip q).misc.toNat 20 11)

/-- The state with one hardware queue changed and its error vector raised. -/
def withError (s : State) (chip q : Nat) (x : Queue) : State :=
  { withQueue s chip q x with outputs := errorIrq s chip q :: s.outputs }

/-- What a check of the ring makes of a queue: a TAIL beyond the ring stops it with code 2 (06 R126). -/
def ringChecked (s : State) (chip q : Nat) (x : Queue) : State :=
  if x.ring < x.fill ∧ x.stop = false then withError s chip q { x with code := 2, hd := false, stop := true }
  else withQueue s chip q x

end Sys2Proof.Statement

/-- QUEUE_ENABLE: a write of QCFG with EN set on a disabled queue takes effect; where the context, its quota, the index or SZ
refuses it, every field but EN is written, QSTAT.CODE is 1 and the error vector is raised. QUEUE_DISABLE: EN clears, and the
other fields are written only where EN was 0 (06 R124, R125, R128). -/
def Sys2Proof.Statement.QueueSwitches : Prop :=
  ∀ (s : State) (chip q : Nat) (v : DWord) (h : s.memWf), s.missing = false → q < 256 →
    (machine s h).barReach chip = .live →
    let x := queueAt s chip q
    (v.getLsbD 0 = true → x.en = false →
      let new := { x with cfg := v &&& 0x3FFFFFFFFFFFFFFF }
      ((machine s h).queueRefused chip q new = false → exec (.queueEnable chip q v) s = .next (withQueue s chip q new)) ∧
      ((machine s h).queueRefused chip q new = true → exec (.queueEnable chip q v) s =
        .next (withError s chip q { new with cfg := new.cfg &&& ~~~1, code := 1 }))) ∧
    (v.getLsbD 0 = false → exec (.queueDisable chip q v) s = .next (withQueue s chip q
      { x with cfg := if x.en then x.cfg &&& ~~~1 else v &&& 0x3FFFFFFFFFFFFFFF }))

/-- DOORBELL, with no launch of its chip waiting: TAIL is written, and a TAIL beyond the ring stops the queue with code 2; a
device-fed queue ignores it. QUEUE_STOP_CLEAR: CODE, HD and STOP clear, HEAD goes past the record where HD was set, and a TAIL
still beyond the ring stops the queue again (06 R124, R126). -/
def Sys2Proof.Statement.QueueBells : Prop :=
  ∀ (s : State) (chip q : Nat) (v : DWord) (h : s.memWf), s.missing = false → q < 256 →
    (machine s h).barReach chip = .live →
    let x := queueAt s chip q
    ((machine s h).packageReady (pkgOf chip) = true →
      (x.dev = true → exec (.doorbell chip q v) s = .next s) ∧
      (x.dev = false → (∀ l ∈ s.launches, l.2.chip = chip → l.2.st ≠ .pending) →
        exec (.doorbell chip q v) s = .next (ringChecked s chip q { x with tail := v.setWidth 32 }))) ∧
    exec (.queueStopClear chip q) s = .next (ringChecked s chip q
      { x with head := if x.stop && x.hd then x.head + 1 else x.head, code := 0, hd := false, stop := false })

/-- WAIT_EVALUATE of a chip with one launch, whose first wait is met and whose second is not: a wait that can be read sets
what it finds, and with it the launch is READY unless it must come after itself; one that cannot be read discards the launch and
stops its queue with code 6 (06 R130, R131). -/
def Sys2Proof.Statement.WaitsEvaluated : Prop :=
  ∀ (s : State) (n : Nat) (l : Launch) (w : W) (m : Option Bool) (h : s.memWf), s.missing = false → s.launches = [(n, l)] →
    (queueAt s l.chip l.queue).launches = [n] → l.st = .pending → l.met0 = true → l.met1 = false → l.drain = none →
    (machine s h).launchOpen l.chip l.ctx = true →
    (machine s h).waitMet l (l.record.field 0x60 8) (l.record.field 0x68 8) = (w, m) → w.s.missing = false →
    ∃ t, exec (.waitEvaluate l.chip) s = .next t ∧ t.mem = w.m.1 ∧
      (∀ x, m = some x → t.launches = [(n, { l with
        met1 := x, st := if x = true ∧ (l.record.ser = true → l.prev ≠ n) then .ready else .pending })]) ∧
      (m = none → t.launches = [] ∧ (queueAt t l.chip l.queue).launches = [] ∧ (queueAt t l.chip l.queue).stop = true ∧
        ((queueAt s l.chip l.queue).stop = false → (queueAt t l.chip l.queue).code = 6) ∧ errorIrq s l.chip l.queue ∈ t.outputs)

/-- RECORD_READ of a queue with a record to read: a record that passes every check becomes a launch of the queue with its bytes
and its preset templates, and HEAD goes past it; one that fails a check stops the queue with the check's code, HD set, and the
error vector raised, HEAD and the launches as they were (06 R126, R128 to R130). -/
def Sys2Proof.Statement.RecordChecked : Prop :=
  ∀ (s : State) (chip q : Nat) (w1 w2 : W) (bs : List Byte) (c : RecordCheck) (h : s.memWf), s.missing = false →
    let x := queueAt s chip q
    x.en = true → x.stop = false → (machine s h).launchOpen chip x.ctx = true → x.launches.length < 16 → x.fill ≠ 0 →
    (machine s h).unitRead chip x.ctx (BitVec.ofNat 64 (x.base + 128 * (x.head.toNat % x.ring))) 16 = (w1, .bytes bs) →
    w1.checkRecord chip chip x.ctx { bytes := bs } x.dev = (w2, c) → w2.s.missing = false →
    (∀ ps, c = .ok ps → LaunchRecord.field { bytes := bs } 0x50 8 = 0 → LaunchRecord.field { bytes := bs } 0x60 8 = 0 →
      AList.get? s.launches s.serial = none →
      ∃ t n l, exec (.recordRead chip q) s = .next t ∧ AList.get? t.launches n = some l ∧ l.record.bytes = bs ∧
        l.presets = ps ∧ l.ctx = x.ctx ∧ l.chip = chip ∧ l.queue = q ∧ l.index = x.head.toNat ∧ l.qix = x.qix ∧
          l.prev = x.lastRead ∧
        (queueAt t chip q).head = x.head + 1 ∧ (queueAt t chip q).launches = x.launches ++ [n] ∧ t.mem = w2.m.1) ∧
    (c ≠ .wait → c ≠ .noWay .held → (∀ ps, c ≠ .ok ps) → ∃ t, exec (.recordRead chip q) s = .next t ∧ t.launches = s.launches ∧
      queueAt t chip q = { x with code := c.code, hd := true, stop := true } ∧ errorIrq s chip q ∈ t.outputs ∧
      t.mem = w2.m.1)

/-- ARGS_READ of the launch that arbitration has chosen: the launch is PLACING and holds the 16 words of its argument block,
zeros where it names none; a misaligned block discards the launch and stops its queue (06 R130; 07 R143). -/
def Sys2Proof.Statement.ArgumentsRead : Prop :=
  ∀ (s : State) (n hw : Nat) (l : Launch) (w : W) (bs : List Byte) (h : s.memWf), s.missing = false →
    AList.get? s.launches n = some l → l.st = .ready → l.drain = none → (machine s h).choice l.chip = some (.new n hw) →
    let placing := fun (t : State) (xs : List DWord) =>
      AList.get? t.launches n = some { l with st := .placing, args := some xs }
    (l.record.args = 0 → ∃ t, exec (.argsRead n) s = .next t ∧ placing t (List.replicate 16 0) ∧ t.mem = s.mem) ∧
    (l.record.args ≠ 0 → l.record.args % 8 = 0 →
      (machine s h).unitRead l.chip l.ctx (BitVec.ofNat 64 l.record.args) 16 = (w, .bytes bs) → w.s.missing = false →
      ∃ t, exec (.argsRead n) s = .next t ∧
        placing t ((List.range 16).map fun i => BitVec.ofNat 64 (ofBytes ((bs.drop (8 * i)).take 8))) ∧ t.mem = w.m.1) ∧
    (l.record.args % 8 ≠ 0 → ∃ t, exec (.argsRead n) s = .next t ∧ AList.get? t.launches n = none ∧
      (queueAt t l.chip l.queue).stop = true ∧ t.mem = s.mem)

/-- LAUNCH_DONE of a DRAINING launch, the only one, with every write of its chip home and its flush markers' ways open: where
it names a completion counter in the scratchpad, the counter is one more; the launch is forgotten; its note's interrupt is
raised where it asks for one (06 R130 to R132, R137; 07 R155). -/
def Sys2Proof.Statement.LaunchCompletes : Prop :=
  ∀ (s : State) (n : Nat) (l : Launch) (h : s.memWf), s.missing = false → s.launches = [(n, l)] → l.st = .draining →
    (machine s h).launchOpen l.chip l.ctx = true → s.directory = [] → s.waiting = [] → s.poison = [] →
    (machine s h).launchSettled n l = true →
    (queueAt s l.chip l.queue).note.getLsbD 0 = false →
    let va := l.record.field 0x70 8
    let told := fun (t : State) => t.launches = [] ∧ (l.record.eventMode 4 = 2 →
      .irq l.chip (fieldOf (queueAt s l.chip l.queue).misc.toNat 8 11) ∈ t.outputs)
    (va = 0 → ∃ t, exec (.launchDone n) s = .next t ∧ told t ∧ t.mem = s.mem) ∧
    ∀ acc, va ≠ 0 → (machine s h).unitAccess l.chip l.ctx .atomic 8 (BitVec.ofNat 64 va) = (machine s h, .ok acc) →
      acc.path = .scratch → 2 ^ 61 ≤ acc.key → acc.width = 8 →
      ∃ t, exec (.launchDone n) s = .next t ∧ told t ∧
        numberAt t.mem acc.key 8 = (numberAt s.mem acc.key 8 + 1) % 2 ^ 64 ∧
        ∀ m, m < acc.key ∨ acc.key + 8 ≤ m → readCell t.mem m = readCell s.mem m

/-- `launch` completes: with no lane enabled it only goes on; with one, an address that is a multiple of 128 and nothing of
the group still to perform, a launch of the record at that address is in flight and joins the open co batch, and no register,
no byte of memory changes. Any other address raises ALIGN with it (05 R110; 06 R135). -/
def Sys2Proof.Statement.LaunchWord : Prop :=
  ∀ (s : State) (a : At) (k : Bool) (r : BitVec 8), Free s a (.launch k r) k { sr := [r.toNat] } → a.g.region = none →
    let addr := a.sval r.toNat
    (a.enabled = 0 → ∃ t g e, exec (.launch k r) s = .next t ∧ Kept t a g e ∧ e.pc = a.e.pc + 4 ∧ Alone s t a ∧
      RegsBut a g [] [] []) ∧
    (a.enabled ≠ 0 → addr.toNat % 128 ≠ 0 → Calm s a → ∃ t g e, exec (.launch k r) s = .next t ∧
      Taken s t a 0x05 0 (some addr) a.e.pc g e) ∧
    (a.enabled ≠ 0 → addr.toNat % 128 = 0 → a.g.ops = [] →
      ∃ t g e u, exec (.launch k r) s = .next t ∧ Kept t a g e ∧ e.pc = a.e.pc + 4 ∧ RegsBut a g [] [] [] ∧
        (openOps g 2).map BatchOp.op = (openOps a.g 2).map BatchOp.op ++ [s.serial] ∧
        AList.get? t.units s.serial = some u ∧ u.kind = .launch addr ∧ u.grp = a.r ∧ u.ctx = a.g.ctx ∧
        (∀ q, q ≠ a.r → AList.get? t.groups q = AList.get? s.groups q) ∧ ∀ m, readCell t.mem m = readCell s.mem m)

/-- LAUNCH_APPEND of a device-side launch whose group has nothing left to release and whose ways are open: where no enabled
device-fed queue of the context has the record's index, the operation completes with status 5; with the ring full, with status
6; else the record stands in the ring, TAIL is one more, and the status is 0 (06 R135; 13 R297). -/
def Sys2Proof.Statement.LaunchAppends : Prop :=
  ∀ (s : State) (n : Nat) (u : UnitRec) (addr : DWord) (w1 w2 : W) (bs : List Byte) (ps : List Template) (h : s.memWf),
    s.missing = false → AList.get? s.units n = some u → u.op = n → u.kind = .launch addr → u.linkOut = none →
    (machine s h).releaseSaved u = (true, machine s h) → ((machine s h).launchWays u addr).all (· == .live) = true →
    (machine s h).launchRead u addr = (w1, .bytes bs) →
    let x : LaunchRecord := { bytes := bs }
    let chip := 4 * pkgOf u.grp.chip + x.dchip % 4
    w1.checkRecord u.grp.chip chip u.ctx x true = (w2, .ok ps) → w2.s.missing = false → w1.s.chips = s.chips →
    w2.s.groups = s.groups →
    let found := (chipAt s chip).queues.find? fun q => q.2.en && q.2.dev && q.2.ctx == u.ctx && q.2.qix == x.dqueue
    let ended := fun (t : State) (status : Nat) => AList.get? t.units n = none ∧
      ∀ r g, AList.get? s.groups r = some g → AList.get? t.groups r = some (g.completeOp n status 0)
    (found = none → ∃ t, exec (.launchAppend n) s = .next t ∧ ended t 5 ∧ t.mem = w2.m.1) ∧
    ∀ k q, found = some (k, q) → AList.get? (chipAt s chip).queues k = some q →
      (q.fill = q.ring → ∃ t, exec (.launchAppend n) s = .next t ∧ ended t 6 ∧ t.mem = w2.m.1) ∧
      (q.fill ≠ q.ring → ∀ w3 w4 acc, w2.unitPlace chip u.ctx 128 (BitVec.ofNat 64 (q.base + 128 * (q.tail.toNat % q.ring))) =
          (w3, .cell acc) → w3.secure [lineOf acc.key] = (w4, true) → w4.s.missing = false → w4.s.chips = s.chips →
          w4.s.groups = s.groups → w4.s.poison = [] → ∃ t, exec (.launchAppend n) s = .next t ∧ ended t 0 ∧
          queueAt t chip k = { q with tail := q.tail + 1 } ∧ t.mem = (w4.writeCells (cellsOf acc.key bs)).m.1)

/-! ## Placement -/

/-- CLUSTER_PLACE of the cluster that arbitration gives next, its arguments read: the clusters that find room are placed, each
with the launch's next numbers, on the hardware cluster chosen; the launch counts them and is RUNNING once all are placed
(06 R133; 07 R148, R154). -/
def Sys2Proof.Statement.ClusterPlaced : Prop :=
  ∀ (s : State) (n hw : Nat) (l : Launch) (ps : List (Nat × List (List Nat))) (bases : List Nat) (h : s.memWf),
    s.missing = false → AList.get? s.launches n = some l → l.args ≠ none →
    (machine s h).choice l.chip = some (.new n hw) → (machine s h).placement l = some (ps, bases) →
    ∃ t l', exec (.clusterPlace n hw) s = .next t ∧ t.mem = s.mem ∧ AList.get? t.launches n = some l' ∧
      l'.next = l.next + ps.length ∧ l'.drain = none ∧ l'.waitingSince = none ∧
      l'.st = (if l.next + ps.length = l.record.clusters then .running else l.st) ∧
      (slotAt t (pkgOf l.chip) l.ctx).st ≠ .bound ∧
      ∀ i x, ps[i]? = some x → ∃ k ∈ t.clusters, k.2.launch = n ∧ k.2.clid = l.next + i ∧ k.2.hwcl = x.1 ∧
        k.2.chip = l.chip ∧ k.2.ctx = l.ctx ∧ k.2.st = .placed ∧ k.2.blocks.length = x.2.length

/-- GANGSTARVE: a launch whose next cluster has waited 100 µs, and 100 µs since a test that named nothing, takes the hardware
cluster of its partition with the fewest occupied slots that is not in drain mode, which then drains for it (07 R152, R153).
-/
def Sys2Proof.Statement.GangStarves : Prop :=
  ∀ (s : State) (n : Nat) (l : Launch) (since : Nat) (h : s.memWf), s.missing = false → AList.get? s.launches n = some l →
    l.waitingSince = some since → since + 100000 ≤ s.now → l.drain = none → (machine s h).waits l = true →
    (∀ x, l.tested = some x → x + 100000 ≤ s.now) →
    let free := fun hw => hw ∈ (machine s h).partition l ∧ AList.get? (chipAt s l.chip).drain hw = none
    let used := fun hw => (s.groups.filter fun g => g.1.chip == l.chip && g.1.core / 4 == hw).length
    (∃ hw, free hw) →
    ∃ t hw, exec (.gangstarve n) s = .next t ∧ free hw ∧ (∀ y, free y → used hw ≤ used y) ∧
      AList.get? t.launches n = some { l with drain := some hw } ∧ AList.get? (chipAt t l.chip).drain hw = some n ∧
      t.mem = s.mem ∧ t.groups = s.groups

/-- PREEMPT of the cluster that gives way to a waiting launch, and, while a cluster waits, MOVE of a cluster to another
hardware cluster of its partition with room for it: the cluster stops, for its save or for its target, and each of its groups
stops at its next boundary (05 R116; 06 R134; 07 R149 to R151). -/
def Sys2Proof.Statement.ClusterStops : Prop :=
  ∀ (s : State) (n cid : Nat) (c : Cluster) (h : s.memWf), s.missing = false → AList.get? s.clusters cid = some c →
    c.st = .placed →
    let stops := fun (t : State) (target : Option Nat) =>
      t.clusters = AList.upd s.clusters cid (fun k => { k with st := .stopping target }) ∧ t.mem = s.mem ∧
      ∀ r g, AList.get? s.groups r = some g → g.block ∈ c.blocks → g.st = .active ∨ g.st = .resident →
        AList.get? t.groups r = some { g with stopping := true }
    (∀ l, AList.get? s.launches n = some l → (machine s h).waits l = true →
      ((machine s h).placing l.chip l.queue).map Prod.fst = some n →
        l.record.fitsEmpty (slotAt s (pkgOf l.chip) l.ctx).scratch = true → (machine s h).victim l = some cid →
      ∃ t, exec (.preempt n cid) s = .next t ∧ stops t none) ∧
    ∀ hw spans, (machine s h).someWaits c.chip = true → (machine s h).isRp c.launch = false →
      (machine s h).moveSpans c hw = some spans → ∃ t, exec (.move (.cluster cid hw)) s = .next t ∧ stops t (some hw)

/-- CLUSTER_SAVE of a cluster that stops to be saved, its groups and operations quiet: the cluster is SAVED; each of its groups
has left its slot, and the cluster holds it with its registers, state and trap registers (05 R116 to R118). -/
def Sys2Proof.Statement.ClusterSaved : Prop :=
  ∀ (s : State) (cid : Nat) (c : Cluster) (h : s.memWf), s.missing = false → (s.groups.map Prod.fst).Nodup →
    AList.get? s.clusters cid = some c → c.st = .stopping none →
    (∀ x ∈ (machine s h).clusterGroups c, (machine s h).groupQuiet x.1 x.2 = true ∧ x.2.ops = []) →
    (∀ b ∈ c.blocks, (machine s h).blockQuiet b = true) → (machine s h).savedExtents (pkgOf c.chip) c.ctx = [] →
    s.directory = [] → (∀ m, (machine s h).lineFree m = true) →
    let area := slotAt s (pkgOf c.chip) c.ctx
    (∀ p, area.save ≤ p → p < area.save + max 1 area.savelen → anyCell (pkgOf c.chip) p ≠ none) →
    ∃ t k, exec (.clusterSave cid) s = .next t ∧ AList.get? t.clusters cid = some k ∧ k.st = .saved ∧
      ∀ r g, AList.get? s.groups r = some g → g.block ∈ c.blocks → g.region = none →
        AList.get? t.groups r = none ∧ ∃ g' ∈ k.savedGroups, g'.block = g.block ∧ g'.gid = g.gid ∧ g'.st = g.st ∧
          (∀ n, g'.vget n = g.vget n) ∧ g'.s = g.s ∧ g'.p = g.p ∧ specials g' = specials g ∧ traps g' = traps g

/-- MOVE of a block, while a cluster waits, to a core of its hardware cluster where it fits: its groups stop at their next
boundaries. Then, in CLUSTER_SAVE, a quiet block of one group is written to the save area and takes the core: the block's span
is that core, and its group holds the empty core's first slot with its registers, RESIDENT where it was ACTIVE (07 R149,
R150). -/
def Sys2Proof.Statement.BlockMoves : Prop :=
  ∀ (s : State) (n core : Nat) (b : Block) (c : Cluster) (h : s.memWf), s.missing = false →
    AList.get? s.blocks n = some b → AList.get? s.clusters b.cluster = some c → c.st = .placed →
    (∀ span, b.moving = none → (machine s h).movable b.chip b.ctx = true → (machine s h).someWaits b.chip = true →
      (machine s h).isRp b.launch = false → core / 4 = c.hwcl → (machine s h).blockSpan n b c.hwcl core = some span →
      ∃ t, exec (.move (.block n core)) s = .next t ∧ AList.get? t.blocks n = some { b with moving := some core } ∧
        t.mem = s.mem ∧ ∀ r g, AList.get? s.groups r = some g → g.block = n → g.st = .active ∨ g.st = .resident →
          AList.get? t.groups r = some { g with stopping := true }) ∧
    ∀ (r : GroupRef) (g : Group), b.moving = some core → n ∈ c.blocks →
      (∀ m x, m ∈ c.blocks → m ≠ n → AList.get? s.blocks m = some x → x.moving = none) →
      (machine s h).pinned n = false → (machine s h).blockSpan n b c.hwcl core = some [core % 4] → core / 4 = c.hwcl →
      (machine s h).groupsOf n = [(r, g)] → AList.get? s.groups r = some g → g.region = none →
      (machine s h).groupQuiet r g = true → (machine s h).blockQuiet n = true → g.ops = [] → (g.v.map Prod.fst).Nodup →
      (∀ x ∈ s.groups, ¬(x.1.chip = b.chip ∧ x.1.core = core)) → (s.blocks.map Prod.fst).Nodup →
      (machine s h).savedExtents (pkgOf c.chip) c.ctx = [] → s.directory = [] → (∀ m, (machine s h).lineFree m = true) →
      (∀ p, (slotAt s (pkgOf c.chip) c.ctx).save ≤ p →
        p < (slotAt s (pkgOf c.chip) c.ctx).save + max 1 (slotAt s (pkgOf c.chip) c.ctx).savelen →
        anyCell (pkgOf c.chip) p ≠ none) →
      let new : GroupRef := { chip := b.chip, core := core, slot := 0 }
      ∃ t b' g', exec (.clusterSave b.cluster) s = .next t ∧ AList.get? t.blocks n = some b' ∧ b'.span = [core] ∧
        b'.moving = none ∧ b'.slots = [(g.gid, new)] ∧ AList.get? t.groups r = none ∧ AList.get? t.groups new = some g' ∧
        g'.st = (if g.st = .active then .resident else g.st) ∧ (∀ m, g'.vget m = g.vget m) ∧ g'.s = g.s ∧ g'.p = g.p ∧
        specials g' = specials g ∧ traps g' = traps g

namespace Sys2Proof.Statement

/-! ## The table -/

/-- The seat of a chip as a state holds it. -/
def seatAt (s : State) (chip : Nat) : Seat := (chipAt s chip).seat

/-- The state with one seat changed. -/
def withSeat (s : State) (chip : Nat) (x : Seat) : State :=
  { s with chips := AList.put s.chips chip { chipAt s chip with seat := x } }

/-- The other chips of the live seats of a chip's table. -/
def others (s : State) (h : s.memWf) (chip : Nat) : List Nat := ((machine s h).liveChips chip).filter (· != chip)

/-- The seat a turn handed on goes to: the next live one after a seat (15 R358). -/
def nextLive (t : Seat) : Nat :=
  (((List.range 16).map fun i => (t.num + 1 + i) % 16).find? t.live.contains).getD t.num

end Sys2Proof.Statement

/-- `turn` completes in a context with a table, with nothing left to release: the seat has one more strong operation, a turn
of the group, which waits for it; no register, no memory changes. `tsync` completes once every live seat has applied this
seat's updates so far, and waits with their count until then (15 R360, R361). -/
def Sys2Proof.Statement.TurnWords : Prop :=
  ∀ (s : State) (a : At) (k : Bool), a.g.region = none → Drained s a → (seatAt s a.r.chip).serves a.g.ctx = true →
    let x := seatAt s a.r.chip
    (Free s a (.turn k) k {} → x.st ≠ .departed → x.rwt.length < 65536 →
      ∃ t g e o, exec (.turn k) s = .next t ∧ Kept t a g e ∧ e.pc = a.e.pc + 4 ∧ RegsBut a g [] [] [] ∧
        g.turnWait = some s.serial ∧ o ∈ (seatAt t a.r.chip).strong ∧ o.op = s.serial ∧ o.owner = (a.g.block, a.g.gid) ∧
        o.body = .turn ∧ o.sent = false ∧ t.mem = s.mem) ∧
    (Free s a (.tsync k) k {} → (∀ v, a.e.wait ≠ some (.tsync v)) →
      let mine := vecGet x.applied x.num
      (mine ≤ vecGet x.stable x.num → ∃ t g e, exec (.tsync k) s = .next t ∧ Kept t a g e ∧ e.pc = a.e.pc + 4 ∧
        RegsBut a g [] [] [] ∧ t.mem = s.mem) ∧
      (vecGet x.stable x.num < mine → ∃ t g e, exec (.tsync k) s = .next t ∧ AList.get? t.groups a.r = some g ∧
        AList.get? g.entries a.ei = some e ∧ e.pc = a.e.pc ∧ e.wait = some (.tsync mine) ∧ RegsBut a g [] [] [] ∧
        t.mem = s.mem))

/-- SEAT_ENABLE: a write of TBCFG with EN set on an OFF seat takes the fields; where nothing refuses it the seat is FORMING with
EN set and its region reads zero, else it stays OFF with EN clear (15 R345, R346). -/
def Sys2Proof.Statement.SeatEnabled : Prop :=
  ∀ (s : State) (chip : Nat) (v : DWord) (h : s.memWf), s.missing = false → v.getLsbD 0 = true →
    (seatAt s chip).cfg.getLsbD 0 = false → (seatAt s chip).st = .off → (machine s h).barReach chip = .live →
    let fields := v &&& 0xFFFF3FFFFFF07F00
    let x := { seatAt s chip with cfg := fields }
    ((machine s h).seatRefused chip x = true → exec (.seatEnable chip v) s = .next (withSeat s chip x)) ∧
    ((machine s h).seatRefused chip x = false → ∀ c n, Seat.region x chip = some (c, n) → x.base.toNat % 2 ^ 48 + n ≤ hbmBytes →
      ∃ t, exec (.seatEnable chip v) s = .next t ∧ seatAt t chip = { cfg := fields ||| 1, base := x.base, st := .forming } ∧
        (∀ m, c ≤ m → m < c + n → readCell t.mem m = 0) ∧ ∀ m, m < c ∨ c + n ≤ m → readCell t.mem m = readCell s.mem m)

/-- SEAT_DISABLE: a write of TBCFG with EN clear writes the fields of an OFF seat; a FORMING seat, and a DEPARTED one with EN
set, are OFF with nothing but their registers; a LIVE one departs, and every other live seat of its table is CHANGING.
SEAT_RELEASE: a write on a DEPARTED seat with EN clear takes the fields, and the seat is OFF (15 R345, R346, R363, R364,
R367). -/
def Sys2Proof.Statement.SeatDisabled : Prop :=
  ∀ (s : State) (chip : Nat) (v : DWord) (h : s.memWf), s.missing = false → v.getLsbD 0 = false →
    (machine s h).barReach chip = .live →
    let x := seatAt s chip
    let off := fun (cfg : DWord) => withSeat s chip { cfg := cfg, base := x.base, st := .off }
    (x.st = .off → exec (.seatDisable chip v) s = .next (withSeat s chip { x with cfg := v &&& 0xFFFF3FFFFFF07F00 })) ∧
    (x.st = .forming ∨ x.st = .departed ∧ x.cfg.getLsbD 0 = true →
      exec (.seatDisable chip v) s = .next (off (x.cfg &&& ~~~1))) ∧
    (x.st = .live → x.strong = [] → (machine s h).seatChip x.tid x.num = some chip → x.num ∈ x.live →
      ∃ t, exec (.seatDisable chip v) s = .next t ∧ (seatAt t chip).st = .departed ∧ (seatAt t chip).cfg = x.cfg &&& ~~~1 ∧
        (∀ c ∈ others s h chip, (seatAt s c).st = .live → (seatAt t c).st = .changing ∧
          (seatAt t c).leaving = some x.num) ∧ t.mem = s.mem) ∧
    (x.st = .departed → x.cfg.getLsbD 0 = false → exec (.seatRelease chip v) s = .next (off (v &&& 0xFFFF3FFFFFF07F00)))

/-- HELLO of a seat that answers: a FORMING seat that has now heard every other seat of its live set is LIVE with nothing
applied; one that has not counts the hello (15 R346, R347). -/
def Sys2Proof.Statement.SeatForms : Prop :=
  ∀ (s : State) (chip from' : Nat) (h : s.memWf), s.missing = false → (seatAt s chip).st = .forming →
    (machine s h).answers chip from' = true → (seatAt s chip).rack = [] → from' ∉ (seatAt s chip).hellos →
    let x := seatAt s chip
    let all := ∀ k ∈ x.live, k = x.num ∨ k = from' ∨ k ∈ x.hellos
    (all → ∃ t, exec (.hello chip from') s = .next t ∧ t.mem = s.mem ∧
      seatAt t chip = { cfg := x.cfg, base := x.base, st := .live, shooter := x.live.headD 0 }) ∧
    (¬all → exec (.hello chip from') s = .next (withSeat s chip { x with hellos := x.hellos ++ [from'] }))

/-- TBEVICT with GO on a LIVE seat: an audit record of kind 4 is appended, the named seat of its table departs, and every other
live seat is CHANGING (15 R363; 20 R445). -/
def Sys2Proof.Statement.SeatEvicted : Prop :=
  ∀ (s : State) (chip gone : Nat) (v : DWord) (h : s.memWf), s.missing = false → v.getLsbD 4 = true →
    fieldOf v.toNat 0 4 = (seatAt s gone).num → (machine s h).barReach chip = .live →
    let x := seatAt s chip
    x.st = .live → (seatAt s gone).num ∈ x.live → (machine s h).seatChip x.tid (seatAt s gone).num = some gone →
    (seatAt s gone).st = .live → (seatAt s gone).strong = [] → (machine s h).auditFull chip = false →
    ∃ t, exec (.tbevict chip v) s = .next t ∧ (chipAt t chip).appended = (chipAt s chip).appended + 1 ∧
      (seatAt t gone).st = .departed ∧ (∀ c ∈ (machine s h).liveChips chip, c ≠ gone → (seatAt s c).st = .live →
        (seatAt t c).st = .changing ∧ (seatAt t c).leaving = some (seatAt s gone).num) ∧
      ∀ m, m < 2 ^ 150 → readCell t.mem m = readCell s.mem m

/-- TABLE_PACKET_RECEIVE of a packet of stores at a LIVE seat with an empty rack, no line of it leased: where all that the
stores depend on has been applied, their bytes are written where no later write is remembered, and the seat's count of the
sender's stores goes through it; where not, the packet is held, and no byte changes (15 R348, R351 to R353). -/
def Sys2Proof.Statement.PacketApplies : Prop :=
  ∀ (s : State) (chip n : Nat) (p : Packet) (h : s.memWf), s.missing = false →
    AList.get? s.packets (chip, n) = some p → (machine s h).seatReach chip p.tid p.seat = true →
    (machine s h).arrived n = true → (∀ m, (machine s h).lineFree m = true) →
    let x := seatAt s chip
    x.st = .live → p.tid = x.tid → p.seat ∈ x.live → x.leaving ≠ some p.seat → x.view ≤ p.view → x.rack = [] →
    p.parity = x.parity → p.kind = .weak → (∀ y ∈ p.records, y.1 < p.count ∧ y.2.1 < 2 ^ 46) →
    p.records.Pairwise (fun y z => y.1 ≤ z.1) →
    ∃ t, exec (.tablePacketReceive chip n) s = .next t ∧ AList.get? t.packets (chip, n) = none ∧
      let y := { x with rack := [p] }
      (y.eligible p = true → (seatAt t chip).rack = [] ∧
        (seatAt t chip).applied = vecSet x.applied p.seat (p.first + p.count - 1) ∧
        ∀ off c, off < 2 ^ 46 → (machine s h).replicaCell chip off = some c → AList.get? x.rwt (off / 4) = none →
          readCell t.mem c = match p.records.reverse.find? fun y => y.2.1 == off with
            | some y => y.2.2
            | none => readCell s.mem c) ∧
      (y.eligible p = false → (seatAt t chip).rack = [p] ∧ (seatAt t chip).applied = x.applied ∧ t.mem = s.mem)

/-- TURN_REQUEST at a LIVE seat: the shooter grants the next turn number while it has turns left, and counts it; a seat that is
not the shooter sends back who is (15 R356, R358). -/
def Sys2Proof.Statement.TurnGranted : Prop :=
  ∀ (s : State) (n seat shooter op d : Nat) (k : Nat × Nat) (h : s.memWf), s.missing = false →
    (machine s h).messageAt n = some (k, .request seat shooter op) →
    let x := seatAt s k.1
    (machine s h).seatReach k.1 x.tid seat = true → (machine s h).arrived n = true →
    (machine s h).seatChip x.tid seat = some d → x.st = .live → seat ∈ x.live →
    (x.shooter = x.num → x.turnsLeft ≠ 0 → x.nextGrant - x.baseTurn ≤ 0xBFFFFF →
      ∃ t m, exec (.turnRequest n) s = .next t ∧ AList.get? t.messages (d, m) = some (.grant seat x.nextGrant op k.1) ∧
        (seatAt t k.1).nextGrant = x.nextGrant + 1 ∧ (seatAt t k.1).turnsLeft = x.turnsLeft - 1 ∧ t.mem = s.mem) ∧
    (x.shooter ≠ x.num → ∃ t m, exec (.turnRequest n) s = .next t ∧
      AList.get? t.messages (d, m) = some (.redirect seat x.shooter op k.1) ∧ seatAt t k.1 = x ∧ t.mem = s.mem)

/-- TURN_GRANT: the issuer broadcasts its strong operation under the turn granted to every other live seat; before its turn it
holds it. TURN_REDIRECT: the request goes again, to the shooter named (15 R356, R358). -/
def Sys2Proof.Statement.TurnBroadcast : Prop :=
  ∀ (s : State) (n seat op src : Nat) (k : Nat × Nat) (h : s.memWf), s.missing = false →
    (machine s h).cldReach src k.1 = .live → (machine s h).arrived n = true →
    let x := seatAt s k.1
    (∀ turn o, (machine s h).messageAt n = some (k, .grant seat turn op src) → (x.strong.find? fun y => y.op == op) = some o →
      x.rack = [] → turn ≠ x.nextTurn →
      ∃ t, exec (.turnGrant n) s = .next t ∧ t.mem = s.mem ∧ (seatAt t k.1).applied = x.applied ∧
        (∀ y ∈ (seatAt t k.1).strong, y.op = op → y.turn = some turn ∧ y.sent = true) ∧
        ∀ d ∈ others s h k.1, ∃ p m, AList.get? t.packets (d, m) = some p ∧ p.kind = .strong ∧ p.seat = x.num ∧
          p.turn = turn ∧ p.op = op ∧ p.body = o.body ∧ p.view = x.view ∧ p.tid = x.tid) ∧
    ∀ shooter d, (machine s h).messageAt n = some (k, .redirect seat shooter op src) → x.st = .live →
      (∃ o ∈ x.strong, o.op = op ∧ o.sent = false) → (machine s h).seatChip x.tid shooter = some d →
      ∃ t m, exec (.turnRedirect n) s = .next t ∧ AList.get? t.messages (d, m) = some (.request seat shooter op) ∧
        seatAt t k.1 = x ∧ t.mem = s.mem

/-- TURN_GRANT of the turn that is next: a `turn` of a group with nothing outstanding is applied at once, and the group goes
on (15 R356, R360). -/
def Sys2Proof.Statement.TurnReturns : Prop :=
  ∀ (s : State) (n seat turn op src : Nat) (k : Nat × Nat) (o : StrongOp) (r : GroupRef) (g : Group) (h : s.memWf),
    s.missing = false → (machine s h).messageAt n = some (k, .grant seat turn op src) →
    (machine s h).cldReach src k.1 = .live → (machine s h).arrived n = true →
    let x := seatAt s k.1
    (x.strong.find? fun y => y.op == op) = some o → o.body = .turn → x.rack = [] → x.st = .live → turn = x.nextTurn →
    (machine s h).groupOf o.owner = some r → AList.get? s.groups r = some g → g.turnWait = some op → g.ops = [] →
    g.fault = none → g.parked = false → g.stopping = false →
    ∃ t g', exec (.turnGrant n) s = .next t ∧ AList.get? t.groups r = some g' ∧ g'.turnWait = none ∧
      (∀ m, g'.vget m = g.vget m) ∧ g'.s = g.s ∧ g'.p = g.p ∧ (seatAt t k.1).nextTurn = turn + 1 ∧
      vecGet (seatAt t k.1).applied 16 = vecGet (vecSet x.applied 16 (vecGet x.applied 16 + 1)) 16 ∧ t.mem = s.mem

/-- HANDOFF: a shooter that has granted its ordinary turns takes one turn more, which names the next live seat as the shooter.
REBASE: a shooter that sees an applied count reach 2^23, with no rebase under way, takes a turn whose base is its stability
vector. Each goes to every other live seat (15 R358, R366). -/
def Sys2Proof.Statement.ShooterTurns : Prop :=
  ∀ (s : State) (chip : Nat) (h : s.memWf), s.missing = false →
    let x := seatAt s chip
    x.st = .live → x.shooter = x.num → x.nextGrant - x.baseTurn ≤ 0xBFFFFF → x.rack = [] → x.rebasing = none →
    let goes := fun (t : State) (ok : Packet → Prop) => t.mem = s.mem ∧ ∀ d ∈ others s h chip, ∃ p m,
      AList.get? t.packets (d, m) = some p ∧ p.seat = x.num ∧ p.turn = x.nextGrant ∧ p.view = x.view ∧ p.tid = x.tid ∧ ok p
    (x.handoffDue = true → ∃ t, exec (.handoff chip) s = .next t ∧ (seatAt t chip).handoffDue = false ∧
      goes t (fun p => p.kind = .handoff ∧ p.shooter = nextLive x) ∧
      (x.nextTurn = x.nextGrant → (seatAt t chip).shooter = nextLive x ∧ (seatAt t chip).nextTurn = x.nextTurn + 1)) ∧
    ((∃ y ∈ x.applied, 2 ^ 23 ≤ y) →
      (∀ c ∈ (machine s h).liveChips chip, (seatAt s c).rebases = x.rebases ∧ (seatAt s c).rebasing = none) →
      ∃ t, exec (.rebase chip) s = .next t ∧ goes t (fun p => p.kind = .rebase ∧ p.base = x.stable) ∧
        (x.nextTurn = x.nextGrant → ∃ y, (seatAt t chip).rebasing = some (x.stable, y, x.nextGrant)))

/-- VECTOR_BROADCAST: the seat's applied vector goes to every other live seat. VECTOR_RECEIVE at a LIVE seat of a vector of the
base in force: the vector held of the sender is the larger, entry by entry; with a vector of every live seat held, the stability
vector is their minimum (15 R354). -/
def Sys2Proof.Statement.VectorsExchange : Prop :=
  ∀ (s : State) (chip : Nat) (h : s.memWf), s.missing = false →
    let x := seatAt s chip
    x.st = .live → x.rack = [] → x.rebasing = none →
    (∃ t, exec (.vectorBroadcast chip) s = .next t ∧ t.mem = s.mem ∧ ∀ d ∈ others s h chip, ∃ m,
      AList.get? t.messages (d, m) = some (.vector x.num x.applied x.parity)) ∧
    ∀ n from' v, AList.get? s.messages (chip, n) = some (.vector from' v x.parity) →
      (machine s h).seatReach chip x.tid from' = true → (machine s h).arrived n = true → from' ∈ x.live →
      ∃ t held, exec (.vectorReceive chip n) s = .next t ∧ t.mem = s.mem ∧
        AList.get? (seatAt t chip).vectors from' = some held ∧ (seatAt t chip).applied = x.applied ∧
        (∀ i, i < 17 → vecGet held i = max (vecGet v i) (vecGet (AList.getD x.vectors from' []) i)) ∧
        ∀ i m, i < 17 → (∀ y ∈ x.live, y ≠ x.num → AList.get? (seatAt t chip).vectors y ≠ none) → m ∈ x.live →
          vecGet (seatAt t chip).stable i ≤
            vecGet (if m = x.num then x.applied else AList.getD (seatAt t chip).vectors m []) i

/-- LAG: with the recent-write table 75 % full and the stability vector at rest over two exchanges, a seat that has not said so
within 1 ms makes the event, and nothing else changes (15 R365). -/
def Sys2Proof.Statement.LagSaid : Prop :=
  ∀ (s : State) (chip : Nat), s.memWf → s.missing = false →
    let x := seatAt s chip
    x.st = .live ∨ x.st = .changing → 49152 ≤ x.rwt.length → 2 ≤ x.stuck →
    (∀ y, x.lagAt = some y → y + 1000000 ≤ s.now) →
    ∃ t, exec (.lag chip) s = .next t ∧ Tells s t chip 0x01 x.ctx ∧ seatAt t chip = { x with lagAt := some s.now } ∧
      t.mem = s.mem

/-- `exit` takes the fragment's lanes out of the group; `halt` with a lane enabled stops the group; `trap` and `brk` with one,
and a word that no instruction has, take their exceptions; `eret` in handler mode goes on at `%tpc`; `launch` of a record's
address starts its operation; TRAP_DELIVER takes a fault that waits (05 R110, R113 to R115; 06 R135; 08 R169; 03 R59). -/
def Sys2Proof.Statement.GroupFormsComplete : Prop :=
  ∀ (s : State) (a : At) (k : Bool), a.g.region = none →
    (Free s a (.exit k) k {} → a.g.st = .active → (∀ b, AList.get? s.blocks a.g.block = some b → b.arrived = []) →
      ∃ t g, exec (.exit k) s = .next t ∧ AList.get? t.groups a.r = some g ∧ g.live = a.g.live &&& ~~~a.e.lanes) ∧
    (Free s a (.halt k) k {} → a.enabled ≠ 0 →
      ∃ t g, exec (.halt k) s = .next t ∧ AList.get? t.groups a.r = some g ∧ g.st = .stopped) ∧
    (∀ (i : BitVec 16), Free s a (.trap k i) k {} → a.enabled ≠ 0 → Calm s a →
      ∃ t g e, exec (.trap k i) s = .next t ∧ Taken s t a 0x15 0 (some (i.setWidth 64)) (a.e.pc + 4) g e) ∧
    (∀ (i : BitVec 16), Free s a (.brk k i) k {} → a.enabled ≠ 0 → Calm s a →
      ∃ t g e, exec (.brk k i) s = .next t ∧ Taken s t a 0x16 0 (some (i.setWidth 64)) (a.e.pc + 4) g e) ∧
    (∀ (v : Word), Here s a → AtHand s a [] → Calm s a →
      ∃ t g e, exec (.illegalWord v) s = .next t ∧ Taken s t a 0x01 0 none a.e.pc g e) ∧
    (Free s a (.eret k) k {} → a.g.handler = some a.ei → a.g.tpc.toNat % 4 = 0 → modeReserved a.g.tmode = false →
      fmtReserved a.g.tfmt = false → a.e.lanes &&& ~~~a.g.tmask = 0 →
      ∃ t g e, exec (.eret k) s = .next t ∧ AList.get? t.groups a.r = some g ∧ AList.get? g.entries a.ei = some e ∧
        g.handler = none ∧ e.pc = a.g.tpc) ∧
    (∀ (r : BitVec 8), Free s a (.launch k r) k { sr := [r.toNat] } → a.enabled ≠ 0 → (a.sval r.toNat).toNat % 128 = 0 →
      a.g.ops = [] → ∃ t u, exec (.launch k r) s = .next t ∧ AList.get? t.units s.serial = some u ∧
        u.kind = .launch (a.sval r.toNat) ∧ u.grp = a.r) ∧
    ∀ f, s.memWf → s.missing = false → AList.get? s.groups a.r = some a.g → AList.get? a.g.entries a.ei = some a.e →
      a.g.fault = some f → f.entry = a.ei → a.g.st = .active ∨ a.g.st = .resident → Calm s a →
      ∃ t g e, exec (.trapDeliver a.r) s = .next t ∧ Taken s t a f.code f.detail f.tval f.tpc g e

/-- A seat with nothing held that may apply a store's packet that has arrived counts its stores; a live seat sends its applied
vector to every other; one that has arrived is taken, entry by entry the larger; and a table that lags says so
(15 R352, R354, R365). -/
def Sys2Proof.Statement.TableFormsComplete : Prop :=
  ∀ (s : State) (chip : Nat) (h : s.memWf), s.missing = false →
    let x := seatAt s chip
    x.st = .live →
    (∀ n p, AList.get? s.packets (chip, n) = some p → (machine s h).seatReach chip p.tid p.seat = true →
      (machine s h).arrived n = true → (∀ m, (machine s h).lineFree m = true) → p.tid = x.tid → p.seat ∈ x.live →
      x.leaving = none → x.view ≤ p.view → x.rack = [] → p.kind = .weak → ({ x with rack := [p] } : Seat).eligible p = true →
      ∃ t, exec (.tablePacketReceive chip n) s = .next t ∧ AList.get? t.packets (chip, n) = none ∧
        (seatAt t chip).applied = vecSet x.applied p.seat (p.first + p.count - 1)) ∧
    (x.rack = [] → x.rebasing = none → ∃ t, exec (.vectorBroadcast chip) s = .next t ∧ ∀ d ∈ others s h chip, ∃ m,
      AList.get? t.messages (d, m) = some (.vector x.num x.applied x.parity)) ∧
    (∀ n from' v, AList.get? s.messages (chip, n) = some (.vector from' v x.parity) →
      (machine s h).seatReach chip x.tid from' = true → (machine s h).arrived n = true → from' ∈ x.live → x.rack = [] →
      x.rebasing = none → ∃ t held, exec (.vectorReceive chip n) s = .next t ∧
        AList.get? (seatAt t chip).vectors from' = some held ∧
        ∀ i, i < 17 → vecGet held i = max (vecGet v i) (vecGet (AList.getD x.vectors from' []) i)) ∧
    (49152 ≤ x.rwt.length → 2 ≤ x.stuck → (∀ y, x.lagAt = some y → y + 1000000 ≤ s.now) →
      ∃ t, exec (.lag chip) s = .next t ∧ Tells s t chip 0x01 x.ctx)

/-- MEMBER_COLLECT at the coordinator, every live seat's rack empty, nothing in flight and every granted turn applied: what the
change must reach is the highest turn, and the most that a live seat has applied of the departed one. VIEW_INSTALL, once every
live seat has reached it: each is LIVE in the next view, without the departed seat, and the coordinator is the shooter
(15 R363). -/
def Sys2Proof.Statement.ViewChanges : Prop :=
  ∀ (s : State) (chip gone : Nat) (h : s.memWf), s.missing = false → (seatAt s chip).leaving = some gone →
    let chips := ((machine s h).liveChips chip).filter fun c => (seatAt s c).st == .changing
    chip ∈ chips → chips.Nodup →
    (∀ turn, (seatAt s chip).goal = none → (machine s h).coordinator chip = some (seatAt s chip).num → s.packets = [] →
      s.messages = [] → (∃ c ∈ chips, (seatAt s c).shooter = (seatAt s c).num) →
      (∀ c ∈ chips, (seatAt s c).rack = [] ∧ (seatAt s c).refused = [] ∧ (seatAt s c).nextTurn = turn + 1 ∧
        ((seatAt s c).shooter = (seatAt s c).num → (seatAt s c).nextGrant = turn + 1)) →
      ∃ t n, exec (.memberCollect chip) s = .next t ∧ t.mem = s.mem ∧ (seatAt t chip).goal = some (turn, n, 0) ∧
        (∀ c ∈ chips, (seatAt s c).total gone ≤ n) ∧ ∃ c ∈ chips, n = (seatAt s c).total gone) ∧
    ∀ top n skips, (seatAt s chip).goal = some (top, n, skips) →
      (∀ c ∈ chips, top < (seatAt s c).nextTurn ∧ n ≤ (seatAt s c).total gone ∧ (seatAt s c).evictLater = []) →
      (∀ p ∈ s.packets, p.1.1 ∉ chips) →
      ∃ t, exec (.viewInstall chip) s = .next t ∧ t.mem = s.mem ∧ ∀ c ∈ chips, (seatAt t c).st = .live ∧
        (seatAt t c).view = (seatAt s c).view + 1 ∧ (seatAt t c).leaving = none ∧ (seatAt t c).goal = none ∧
        gone ∉ (seatAt t c).live ∧ (seatAt t c).shooter = (seatAt s chip).num ∧
        (seatAt t c).applied = (seatAt s c).applied ∧ Tells s t c 0x02 (seatAt s c).ctx

namespace Sys2Proof.Statement

/-! ## Invalidation, the host, the links and the transport -/

/-- A link as a state holds it. -/
def linkAt (s : State) (pkg n : Nat) : Link := AList.getD s.links (pkg, n) {}

/-- The state of a link: DOWN where nothing has happened on it (18 R418). -/
def linkSt (s : State) (pkg n : Nat) : LinkState := (linkAt s pkg n).st

/-- A link has moved to a state, with a reason and its event; no byte of memory has changed (18 R418). -/
def Moved (s t : State) (pkg n : Nat) (new : LinkState) (reason : Nat) : Prop :=
  linkSt t pkg n = new ∧ (linkAt t pkg n).reason = reason ∧ Tells s t (linkChip pkg n) 0x06 0xFF ∧ t.mem = s.mem

/-- The transport between two chips as a state holds it. -/
def transportAt (s : State) (src dst : Nat) : Transport := AList.getD s.transports (src, dst) {}

/-- The state with one transport changed. -/
def withTransport (s : State) (src dst : Nat) (x : Transport) : State :=
  { s with transports := AList.put s.transports (src, dst) x }

/-- The version a link comes up with against a partner's range: the highest both support (18 R419). -/
def versionOf (n lowest highest : Nat) : Option Nat :=
  let v := min (ownVersions n).2 highest
  if v < max (ownVersions n).1 lowest then none else some v

end Sys2Proof.Statement

/-- A write of XINV with GO to a chip the host reaches: with no invalidation in progress BUSY is set, and no cached leaf,
aperture entry, group or byte of memory has changed yet, though each leaf may serve or not until it goes; with one in progress
only the fields are written. INVALIDATE_DONE: first, on the four chips of the package, exactly the cached leaves and aperture
entries that the scope names go, and the context's regions that have not been sent are over; after that BUSY clears once nothing
of the old translations is still to perform, and not before (17 R407, R408; 16 R388). -/
def Sys2Proof.Statement.Invalidation : Prop :=
  ∀ (s : State) (chip : Nat) (v : DWord) (h : s.memWf), s.missing = false →
    let mine := fun k => pkgOf k == pkgOf chip
    let fields := { chipAt s chip with xinv := v &&& 0xFFFFFFFFFFFF0000 }
    let shown := fun (x : TlbEntry) => { x with hidden := false }
    (∀ i, v.getLsbD 0 = true → (machine s h).barReach chip = .live →
        i = .invalidatePage chip v ∧ xinvScope v = 0 ∨ i = .invalidateContext chip v ∧ xinvScope v = 1 ∨
        i = .invalidateAperture chip v ∧ xinvScope v = 2 →
      ((chipAt s chip).inval = none → ∃ t, exec i s = .next t ∧ t.tlb.map shown = s.tlb.map shown ∧
        t.apertures = s.apertures ∧ t.groups = s.groups ∧ chipAt t chip = { fields with inval := some { value := v } } ∧
        t.mem = s.mem) ∧
      ((chipAt s chip).inval ≠ none → exec i s = .next { s with chips := AList.put s.chips chip fields })) ∧
    ∀ x, (chipAt s chip).inval = some x →
      (x.gone = none → ∃ t, exec (.invalidateDone chip) s = .next t ∧
        t.tlb = s.tlb.filter (fun y => !(mine y.chip && y.invalidated x.value)) ∧
        t.apertures = s.apertures.filter (fun y => !(mine y.1.1 && apertureInvalidated y.1.2.1 y.1.2.2 x.value)) ∧
        chipAt t chip = { chipAt s chip with inval := some { value := x.value, gone := some s.now } } ∧ t.mem = s.mem ∧
        ∀ r g rg, AList.get? s.groups r = some g → pkgOf r.chip = pkgOf chip → g.ctx = xinvCtx x.value → g.region = some rg →
          rg.sent = false → ∃ g', AList.get? t.groups r = some g' ∧ g'.region = none) ∧
      ∀ at', x.gone = some at' →
        ((machine s h).invalidated chip x.value at' = true → exec (.invalidateDone chip) s =
          .next { s with chips := AList.put s.chips chip { chipAt s chip with inval := none } }) ∧
        ((machine s h).invalidated chip x.value at' = false → exec (.invalidateDone chip) s = .next s)

/-- HOST_MEM_WRITE over a live host link and a live way to the chips, with no line checked out: inside an enabled table region
nothing is written and the completion is poisoned; elsewhere, the lines free, the bytes stand at their home and the completion
is not; while a lease on a line may be live, nothing is written yet. HOST_MEM_READ: the bytes at their home, or a poisoned
completion where one of them is (18 R411; 14 R319, R325). -/
def Sys2Proof.Statement.HostAccesses : Prop :=
  ∀ (s : State) (pkg addr cell : Nat) (h : s.memWf), s.missing = false → (machine s h).hostUp pkg = true →
    (∀ bs, bs ≠ [] → hostCell pkg addr bs.length = some cell → (machine s h).hostWay cell bs.length = .live →
        s.directory = [] → s.poison = [] →
      let span := fun m => cell ≤ m ∧ m < cell + bs.length
      ((∃ m, span m ∧ (machine s h).inTable m = true) → exec (.hostMemWrite pkg addr bs) s =
        .next { s with outputs := .hostWrite pkg true :: s.outputs }) ∧
      ((∀ m, span m → (machine s h).inTable m = false) →
        ((∀ m, span m → (machine s h).lineFree m = true) → ∃ t, exec (.hostMemWrite pkg addr bs) s = .next t ∧
          t.outputs = .hostWrite pkg false :: s.outputs ∧ (∀ i, i < bs.length → readCell t.mem (cell + i) = bs.getD i 0) ∧
          ∀ m, ¬span m → readCell t.mem m = readCell s.mem m) ∧
        ((∃ m, span m ∧ (machine s h).lineFree m = false) → ∃ t, exec (.hostMemWrite pkg addr bs) s = .next t ∧
          t.outputs = s.outputs ∧ t.mem = s.mem))) ∧
    ∀ len, len ≠ 0 → hostCell pkg addr len = some cell → (machine s h).hostWay cell len = .live →
      let bad := ∃ m, cell ≤ m ∧ m < cell + len ∧ m ∈ s.poison
      (bad → exec (.hostMemRead pkg addr len) s = .next { s with outputs := .hostRead pkg none :: s.outputs }) ∧
      (¬bad → exec (.hostMemRead pkg addr len) s = .next { s with
        outputs := .hostRead pkg (some ((List.range len).map fun i => readCell s.mem (cell + i))) :: s.outputs })

/-- PARTNER_DETECT takes a DOWN link to TRAINING; PHYSICAL_UP within 100 ms takes it to NEGOTIATING with its width and rate,
and a host that cannot train flit mode leaves its link FENCED; TRAINING_TIMEOUT takes it back DOWN after 100 ms; NEGOTIATE
takes it to UP or, below its full width or rate, DEGRADED, with the highest version both support, or FENCED where there is
none (18 R410, R418, R419). -/
def Sys2Proof.Statement.LinksComeUp : Prop :=
  ∀ (s : State) (pkg n : Nat), s.memWf → s.missing = false → linkNamed n = true →
    (linkSt s pkg n = .down → ∃ t, exec (.partnerDetect pkg n) s = .next t ∧ Moved s t pkg n .training 0 ∧
      (linkAt t pkg n).since = s.now) ∧
    (linkSt s pkg n = .training →
      let early := s.now < (linkAt s pkg n).since + 100000000
      (∀ width rate, early → width ≠ 0 → (n = 0 → hostTrains width rate = true) → ∃ t,
        exec (.physicalUp pkg n (.up width rate)) s = .next t ∧ Moved s t pkg n .negotiating 0 ∧
        (linkAt t pkg n).width = width % 512 ∧ (linkAt t pkg n).rate = if n = 0 then rate else 0) ∧
      (early → n = 0 → ∃ t, exec (.physicalUp pkg n .noFlitMode) s = .next t ∧ Moved s t pkg n .fenced 4) ∧
      ((linkAt s pkg n).since + 100000000 ≤ s.now → ∃ t, exec (.trainingTimeout pkg n) s = .next t ∧
        Moved s t pkg n .down 6)) ∧
    (linkSt s pkg n = .negotiating → ∀ lowest highest,
      (versionOf n lowest highest = none → ∃ t, exec (.negotiate pkg n lowest highest) s = .next t ∧
        Moved s t pkg n .fenced 3) ∧
      ∀ v, versionOf n lowest highest = some v → ∃ t, exec (.negotiate pkg n lowest highest) s = .next t ∧
        Moved s t pkg n (if (linkAt s pkg n).full n then .up else .degraded) 0 ∧ (linkAt t pkg n).ver = v % 256)

/-- LANE_LOSS of a link that carries traffic leaves it with what remains: DOWN with nothing, DEGRADED from UP, its event to be
made with those of the cycle, from the state the cycle found it in. LANE_REGAIN of a
DEGRADED one that is full again, with no port's paths all dead, takes it UP. LINK_FENCE leaves a link FENCED with every path
through it dead and an audit record; LINK_RETRAIN takes a FENCED or DOWN one to TRAINING (18 R416, R418, R420; 20 R445). -/
def Sys2Proof.Statement.LinksGoDown : Prop :=
  ∀ (s : State) (pkg n : Nat) (h : s.memWf), s.missing = false → linkNamed n = true →
    let x := linkAt s pkg n
    (∀ left, x.st = .up ∨ x.st = .degraded → left < x.width → ∃ t, exec (.laneLoss pkg n left) s = .next t ∧
      let lost := fun (new : LinkState) => linkSt t pkg n = new ∧ (linkAt t pkg n).reason = 1 ∧
        (linkAt t pkg n).lost = some (x.lost.getD x.st)
      (linkAt t pkg n).width = left ∧ t.mem = s.mem ∧ (left = 0 → lost .down) ∧
      (left ≠ 0 → x.st = .up → lost .degraded) ∧ (left ≠ 0 → x.st = .degraded → linkSt t pkg n = .degraded)) ∧
    (∀ width, x.st = .degraded → x.width ≤ width → fullWidth n ≤ width → width < 512 → (n = 0 → width = 16 ∧ x.rate = 64) →
      (∀ p ∈ (machine s h).pathsThrough pkg n, p.live = true) → ∃ t, exec (.laneRegain pkg n width) s = .next t ∧
      (linkAt t pkg n).width = width ∧ Moved s t pkg n .up 0) ∧
    (x.st ≠ .fenced → (machine s h).auditFull (linkChip pkg n) = false → ∃ t, exec (.linkFence pkg n) s = .next t ∧
      linkSt t pkg n = .fenced ∧ (linkAt t pkg n).reason = 5 ∧
      (chipAt t (linkChip pkg n)).appended = (chipAt s (linkChip pkg n)).appended + 1 ∧
      (∀ k y p, AList.get? t.transports k = some y → pkgOf k.1 = pkg → isPort n = true → p ∈ y.paths → p.port = n →
        p.live = false) ∧ ∀ m, m < 2 ^ 150 → readCell t.mem m = readCell s.mem m) ∧
    (x.st = .fenced ∨ x.st = .down → ∃ t, exec (.linkRetrain pkg n) s = .next t ∧ Moved s t pkg n .training 5 ∧
      (linkAt t pkg n).since = s.now)

/-- FLIT_RECEIVE on a die-to-die link that carries traffic: a flit that fails its CRC or its zero tail counts one replay,
saturating; a whole one reaches one end of the link, and of the number its class expects there it moves the class to the next
number, modulo 4,096, and returns its credits; any other is dropped (18 R414, R420; which end it is, the row does not say: log
entry 116). -/
def Sys2Proof.Statement.FlitsArrive : Prop :=
  ∀ (s : State) (pkg n : Nat) (flit : List Byte), s.memWf → s.missing = false → isDieLink n = true →
    let x := linkAt s pkg n
    let put := fun (y : Link) => { s with links := AList.put s.links (pkg, n) y }
    let header := ofBytes (flit.take 4)
    let cls := fieldOf header 4 4
    x.st = .up ∨ x.st = .degraded →
    (flitWhole flit = false → exec (.flitReceive pkg n flit) s = .next (put { x with replay := min 65535 (x.replay + 1) })) ∧
    (flitWhole flit = true → ∃ side, side < 2 ∧
      let key := 4 * side + cls
      let drawn := fun (y : Link) => { put y with draws := s.draws + 1 }
      (cls < 4 → fieldOf header 8 12 = AList.getD x.expect key 0 → exec (.flitReceive pkg n flit) s =
        .next (drawn { x with
          expect := AList.put x.expect key ((fieldOf header 8 12 + 1) % 4096)
          credits := AList.put x.credits side (AList.getD x.credits side 0 + fieldOf header 20 12) })) ∧
      (4 ≤ cls ∨ fieldOf header 8 12 ≠ AList.getD x.expect key 0 → exec (.flitReceive pkg n flit) s = .next (drawn x)))

/-- FABRIC_PACKET_RECEIVE: a packet in flight on a path is received once, and its acknowledgement ends its sending.
RETRANSMIT_TIMEOUT: a packet 20 µs without an acknowledgement counts a timeout of its path, which dies at the third in a row,
and a replay of the path's port; with a live path it is sent again, on another one where there is one (18 R416, R417, R420). -/
def Sys2Proof.Statement.PacketsTravel : Prop :=
  ∀ (s : State) (src dst seq i : Nat), s.memWf → s.missing = false →
    let x := transportAt s src dst
    (pkgOf src ≠ pkgOf dst → (∃ u ∈ x.unacked, u.seq = seq ∧ u.path.map Prod.fst = some i) →
      exec (.fabricPacketReceive src dst seq i) s = .next (withTransport s src dst { x with
        received := if seq ∈ x.received then x.received else x.received ++ [seq]
        unacked := x.unacked.filter fun u => u.seq != seq
        paths := x.paths.modify i fun p => { p with timeouts := 0 } })) ∧
    ∀ u k p, (x.unacked.find? fun u => u.seq == seq) = some u → u.path = some (i, k) → u.sent + 20000 ≤ s.now →
      x.paths[i]? = some p →
      ∃ t q, exec (.retransmitTimeout src dst seq) s = .next t ∧ t.mem = s.mem ∧
        (transportAt t src dst).paths[i]? = some q ∧ q.timeouts = p.timeouts + 1 ∧
        q.live = (p.live && decide (p.timeouts + 1 < 3)) ∧
        (linkAt t (pkgOf src) p.port).replay = min 65535 ((linkAt s (pkgOf src) p.port).replay + 1) ∧
        ((∃ j y, j ≠ i ∧ x.paths[j]? = some y ∧ y.live = true) →
          ∃ u' ∈ (transportAt t src dst).unacked, ∃ j k', u'.seq = seq ∧ u'.sent = s.now ∧ u'.path = some (j, k') ∧ j ≠ i)

/-- PATH_PROBE answered, the fabric on and the path within PATHS: a dead path over a port that carries traffic lives again with
no timeouts; the first path not yet formed is formed, alive, over some port that carries traffic (18 R415, R416). -/
def Sys2Proof.Statement.PathsForm : Prop :=
  ∀ (s : State) (src dst i : Nat) (h : s.memWf), s.missing = false → pkgOf src ≠ pkgOf dst →
    (machine s h).fabricOn src = true → i < (machine s h).maxPaths src →
    let x := transportAt s src dst
    let carries := fun n => linkSt s (pkgOf src) n = .up ∨ linkSt s (pkgOf src) n = .degraded
    (∀ p, x.paths[i]? = some p → p.live = false → carries p.port → ∃ t, exec (.pathProbe src dst i true) s = .next t ∧
      transportAt t src dst = { x with paths := x.paths.modify i fun p => { p with live := true, timeouts := 0 } } ∧
      t.mem = s.mem) ∧
    (i = x.paths.length → (∃ n, 0x30 ≤ n ∧ n ≤ 0x3F ∧ carries n) → ∃ t q, exec (.pathProbe src dst i true) s = .next t ∧
      transportAt t src dst = { x with paths := x.paths ++ [q] } ∧ q.live = true ∧ q.timeouts = 0 ∧ 0x30 ≤ q.port ∧
      q.port ≤ 0x3F ∧ carries q.port ∧ t.mem = s.mem)

namespace Sys2Proof.Statement

/-! ## The probe, trust, power and registers -/

/-- The state with one chip changed. -/
def withChip (s : State) (chip : Nat) (x : Chip) : State := { s with chips := AList.put s.chips chip x }

/-- The probe registers of a context as a chip holds them. -/
def probeAt (s : State) (chip ctx : Nat) : ProbeCtx := AList.getD (chipAt s chip).probe ctx {}

/-- The state with the probe registers of one context changed. -/
def withProbe (s : State) (chip ctx : Nat) (x : ProbeCtx) : State :=
  withChip s chip { chipAt s chip with probe := AList.put (chipAt s chip).probe ctx x }

/-- A core as a state holds it. -/
def coreAt (s : State) (chip core : Nat) : Core := AList.getD s.cores (chip, core) {}

/-- The state once an SPDM answer has been given. -/
def answering (s : State) (pkg : Nat) (bs : List Byte) : State := { s with outputs := .spdm pkg bs :: s.outputs }

/-- A package is as at its first power-on, its fuses apart: no group, no context, no link of it is left, and its HBM reads
blank (20 R440, R441, R449, R450; HBM: log entry 1). -/
structure Bare (s t : State) (pkg : Nat) : Prop where
  groups : ∀ x ∈ t.groups, pkgOf x.1.chip ≠ pkg
  contexts : ∀ k, AList.get? t.contexts (pkg, k) = none
  links : ∀ n, AList.get? t.links (pkg, n) = none
  fuses : t.fuses = s.fuses
  hbm : ∀ m, m < 2 ^ 60 → m / 2 ^ 52 = pkg → readCell t.mem m = 0

/-- A CLD's monitor of a sensor has read a level and the clock has stepped (20 R448). -/
structure Stepped (s t : State) (chip mhz : Nat) : Prop where
  mhz : (chipAt t chip).mhz = mhz
  at' : (chipAt t chip).stepAt = (s.now, s.cycle)
  stretched : (chipAt t chip).stretched = (0, 0)
  memory : t.mem = s.mem

end Sys2Proof.Statement

/-- PRSEL_WRITE selects the context, the core where it exists, and copies that core's counters. COUNTER_CLEAR writes PRCFG and
clears the selected core's counters. TRIGGER_ARM writes TRG; the trigger captures at once without a start source and is armed
with one (19 R421, R424, R431). -/
def Sys2Proof.Statement.ProbeWrites : Prop :=
  ∀ (s : State) (chip : Nat) (v : DWord) (h : s.memWf), s.missing = false → (machine s h).barReach chip = .live →
    let core := if fieldOf v.toNat 0 7 < 96 then fieldOf v.toNat 0 7 else (machine s h).selCore chip
    let ctx := (machine s h).selCtx chip
    let old := (machine s h).selCore chip
    exec (.prselWrite chip v) s = .next (withChip s chip { chipAt s chip with
      prsel := BitVec.ofNat 64 (fieldOf v.toNat 8 6 * 256 + core), snapshot := (machine s h).countersOf (chip, core) }) ∧
    (v.getLsbD 4 = true → ∃ t, exec (.counterClear chip v) s = .next t ∧
      t.chips = (withProbe s chip ctx { probeAt s chip ctx with cfg := v &&& 0xF00E }).chips ∧
      coreAt t chip old = { coreAt s chip old with counters := [], cleared := s.cycle } ∧ t.mem = s.mem) ∧
    (v.getLsbD 61 = true → exec (.triggerArm chip v) s = .next (withProbe s chip ctx { probeAt s chip ctx with
      trg := v &&& 0x00FFFFFFFFFF0000, trgState := if fieldOf v.toNat 52 4 = 0 then 2 else 1 }))

/-- PRRES: each STOPPED group of the selected context that the write names is RESIDENT, its registers and trap registers as
they were, and its fragments meet no comparator and no watchpoint at their next instruction (08 R157; 19 R428, R430, R437). -/
def Sys2Proof.Statement.GroupsResume : Prop :=
  ∀ (s : State) (chip : Nat) (v : DWord) (h : s.memWf), s.missing = false → (machine s h).barReach chip = .live →
    let ctx := (machine s h).selCtx chip
    let st := (slotAt s (pkgOf chip) ctx).st
    v.getLsbD 0 = true → st = .running ∨ st = .bound → (s.groups.map Prod.fst).Nodup →
    ∃ t, exec (.prres chip v) s = .next t ∧ t.mem = s.mem ∧ ∀ r g, AList.get? s.groups r = some g →
      let named := r.chip = chip ∧ g.ctx = ctx ∧ g.st = .stopped ∧
        (v.getLsbD 1 = true ∨ r.core = fieldOf v.toNat 19 7 ∧ r.slot = fieldOf v.toNat 10 9)
      (¬named → AList.get? t.groups r = some g) ∧
      (named → ∃ g', AList.get? t.groups r = some g' ∧ g'.st = .resident ∧ g'.v = g.v ∧ g'.s = g.s ∧ g'.p = g.p ∧
        specials g' = specials g ∧ traps g' = traps g ∧ ∀ i e, AList.get? g'.entries i = some e → e.unchecked = true)

/-- SAMPLE_TICK: at a context's tick, a core's record tells the group and fragment that its sub-datapath in rotation is charged
to, and the leaf (19 R426). -/
def Sys2Proof.Statement.SamplesTaken : Prop :=
  ∀ (s : State) (chip core ctx : Nat) (f : FragRef) (leaf : Leaf) (g : Group) (e : Entry) (h : s.memWf), s.missing = false →
    let p := probeAt s chip ctx
    (machine s h).sampling chip ctx = true → p.ticks.2 ≠ s.cycle →
    (machine s h).chargeOf chip core (p.ticks.1 % 4) = (some f, leaf) → f.grp.chip = chip →
    AList.get? s.groups f.grp = some g → AList.get? g.entries f.entry = some e → g.ctx = ctx →
    (∀ x, (machine s h).issuer chip core (p.ticks.1 % 4) = some x → x = (g.ctx, g.block, g.gid)) →
    ∃ t, exec (.sampleTick chip core ctx) s = .next t ∧ t.mem = s.mem ∧ (probeAt t chip ctx).sampled = [core] ∧
      (probeAt t chip ctx).ticks = (p.ticks.1 + 1, s.cycle) ∧
      (probeAt t chip ctx).recs = p.recs ++ [(f.grp.core, f.grp.slot, traceRecord 1 ctx chip f.grp.core f.grp.slot f.entry 0
        e.pc.toNat e.lanes.toNat leaf.index ((machine s h).time chip))]

/-- DUMP_WRITE: while a group of the context still runs on the chip, each ACTIVE one with nothing outstanding is stopped; with
all of them stopped and the image written, the header is written once more, the dump is over, and its event is made
(19 R434, R436). -/
def Sys2Proof.Statement.DumpRuns : Prop :=
  ∀ (s : State) (chip ctx : Nat) (d : Dump) (h : s.memWf), s.missing = false → (probeAt s chip ctx).dump = some d →
    ((machine s h).dumpHalted chip ctx = false → (∀ b ∈ s.blocks, b.2.latch = none) →
      ∃ t, exec (.dumpWrite chip ctx) s = .next t ∧ t.mem = s.mem ∧
      ∀ r g, AList.get? s.groups r = some g → r.chip = chip → g.ctx = ctx → g.st = .active → g.outstanding = false →
        g.fault = none → g.turnWait = none → g.region = none →
        ∃ g', AList.get? t.groups r = some g' ∧ g'.st = .stopped ∧ g'.stopCause = some .dumpHalt) ∧
    ∀ bs table w, (machine s h).dumpHalted chip ctx = true → (machine s h).dumpDrained chip ctx = true →
      d.image = some (bs, table) → bs.length ≤ d.written → d.stop = none → s.poison = [] →
      let now := (machine s h).time chip
      let d1 := { d with haltTime := some (d.haltTime.getD now) }
      let w0 := (machine s h).updProbe chip ctx fun p => { p with dump := some d1 }
      let p := probeAt s chip ctx
      128 ≤ p.dumpLen.toNat →
      w0.unitWrite chip ctx p.dumpAt (w0.dumpHeader chip ctx d1 table 1 0xFF now d1.written) = (w, .done) →
      w.s.missing = false → ∃ t, exec (.dumpWrite chip ctx) s = .next t ∧ (probeAt t chip ctx).dump = none ∧ t.mem = w.m.1 ∧
        Tells s t chip 0x0A ctx

/-- POWER_ON of a package that was off, and POWER_OFF of one that was on: the package holds nothing, its fuses apart. After
POWER_ON its time base starts, and every chip is at its power-on values (19 R439; 20 R440, R441, R445, R449, R450). -/
def Sys2Proof.Statement.PowerSwitches : Prop :=
  ∀ (s : State) (pkg : Nat), s.memWf → s.missing = false →
    (pkg ∈ s.off → ∃ t, exec (.powerOn pkg) s = .next t ∧ Bare s t pkg ∧ pkg ∉ t.off ∧
      AList.get? t.epoch pkg = some s.now ∧
      ∀ c ∈ chipsOf pkg, chipAt t c = { cycleBase := s.cycle, stepAt := (s.now, s.cycle) }) ∧
    (pkg ∉ s.off → ∃ t, exec (.powerOff pkg) s = .next t ∧ Bare s t pkg ∧ pkg ∈ t.off ∧ ∀ c ∈ chipsOf pkg, chipAt t c = {})

/-- BOOT_STAGE of the next stage: its measurement register is extended with the image's digest; an image that is accepted
runs, with an audit record, and the third makes the chip READY; one that is refused leaves it in RECOVERY (20 R440 to R443,
R450). -/
def Sys2Proof.Statement.StagesBoot : Prop :=
  ∀ (s : State) (chip : Nat) (x : StageImage) (h : s.memWf), s.missing = false → pkgOf chip ∉ s.off →
    let c := chipAt s chip
    c.power = .boot → x.stage = c.stages + 1 → x.stage ≤ 3 → (machine s h).auditFull chip = false →
    ∃ t, exec (.bootStage chip x) s = .next t ∧
      (chipAt t chip).measure c.stages = sha256 (c.measure c.stages ++ sha256 x.bytes) ∧
      (∀ i, i ≠ c.stages → (chipAt t chip).measure i = c.measure i) ∧
      ((machine s h).accepts chip x = true → (chipAt t chip).stages = x.stage ∧ (chipAt t chip).appended = c.appended + 1 ∧
        (chipAt t chip).power = if x.stage = 3 then .ready else .boot) ∧
      ((machine s h).accepts chip x = false → t = withChip s chip { (c.extend c.stages (sha256 x.bytes)) with
        power := .recovery })

/-- FUSE_WRITE: where the command is signed the fuses named are blown and no other, with an audit record; where it is not,
nothing happens. FIRMWARE_RECORD: the record is submitted, and the end of the cycle appends it. AUDIT_CONSUME: the reader's
count is written unless it would pass the writer's (20 R442, R445 to R447). -/
def Sys2Proof.Statement.FusesAndAudit : Prop :=
  ∀ (s : State) (chip : Nat) (h : s.memWf), s.missing = false →
    (∀ x, (machine s h).firmware chip = true → (machine s h).auditFull chip = false →
      let signed := Config.commandSigned chip (bytesOf 1 x.revoke.toNat ++ bytesOf 4 x.version.toNat) x.signature = true
      ∃ t, exec (.fuseWrite chip x) s = .next t ∧ (¬signed → t = s) ∧
        (signed → (chipAt t chip).appended = (chipAt s chip).appended + 1) ∧
        (signed → AList.get? t.fuses chip = some (((machine s h).fuse chip).1 ||| x.revoke, ((machine s h).fuse chip).2 ||| x.version)) ∧
        ∀ k, k ≠ chip → AList.get? t.fuses k = AList.get? s.fuses k) ∧
    (∀ ctx bs, (machine s h).firmware chip = true → (machine s h).auditFull chip = false → ctx = 0xFF ∨ ctx < 64 →
      exec (.firmwareRecord chip ctx bs) s = .next (withChip s chip
        { chipAt s chip with submitted := (chipAt s chip).submitted ++ [(ctx, bs)] }) ∧
      let w := (machine s h).appendSubmitted chip [(ctx, bs)]
      (w.chip chip).appended = (chipAt s chip).appended + 1 ∧ (w.chip chip).submitted = [] ∧
        ∀ m, m < 2 ^ 150 → readCell w.m.1 m = readCell s.mem m) ∧
    ∀ v : DWord, (machine s h).barReach chip = .live → exec (.auditConsume chip v) s = .next (
      if (machine s h).auditFill chip < (v.setWidth 32 - (chipAt s chip).consumed).toNat then s
      else withChip s chip { chipAt s chip with consumed := v.setWidth 32 })

/-- The SPDM answers of a package whose CLD 0 answers: the versions 1.2 and 1.3; and in either of them the capabilities, the
algorithms ECDSA over P-384 with SHA-256, the digest and the portions of the certificate chain, the challenge's signature over
its nonce, and the measurements, signed where a nonce is given. Nothing else changes. (20 R444; the answers' header and layout
are the model's, log entry 37.) -/
def Sys2Proof.Statement.Attestation : Prop :=
  ∀ (s : State) (pkg v : Nat) (h : s.memWf), s.missing = false → (machine s h).spdmReady pkg = true →
    exec (.getVersion pkg) s = .next (answering s pkg (spdmHeader 0x10 0x04 0 0 ++ [0, 2, 0x00, 0x12, 0x00, 0x13])) ∧
    (v = 0x12 ∨ v = 0x13 →
      let chain := Config.certificates pkg
      (∃ t bs, exec (.getCapabilities pkg v) s = .next t ∧ t.outputs = .spdm pkg (spdmHeader v 0x61 0 0 ++ bs) :: s.outputs ∧
        t.mem = s.mem) ∧
      (∃ t bs, exec (.negotiateAlgorithms pkg v) s = .next t ∧ t.mem = s.mem ∧ t.outputs =
        .spdm pkg (spdmHeader v 0x63 0 0 ++ bytesOf 4 36 ++ bytesOf 4 0x02 ++ bytesOf 4 0x80 ++ bs) :: s.outputs) ∧
      exec (.getDigests pkg v) s = .next (answering s pkg (spdmHeader v 0x01 0 1 ++ sha256 chain)) ∧
      (∀ off len, let part := (chain.drop off).take len
        exec (.getCertificate pkg v off len) s = .next (answering s pkg (spdmHeader v 0x02 0 0 ++ bytesOf 2 part.length ++
          bytesOf 2 (chain.length - off - part.length) ++ part))) ∧
      (∀ nonce, exec (.challenge pkg v nonce) s = .next (answering s pkg (spdmHeader v 0x03 0 1 ++ sha256 chain ++
        Config.signature pkg (nonce ++ sha256 chain)))) ∧
      ∀ i nonce, 1 ≤ i → i ≤ 32 →
        let body := spdmHeader v 0x60 0 0 ++ bytesOf 1 i ++ (chipAt s (4 * pkg + (i - 1) / 8)).measure ((i - 1) % 8)
        exec (.getMeasurements pkg v i nonce) s =
          .next (answering s pkg (body ++ if nonce = [] then [] else Config.signature pkg (nonce ++ body))))

/-- SENSOR_READ keeps the highest sensor and the ring count, saturating; above 110 °C a READY or IDLE chip is SAFE. IDLE_TIMER:
a READY chip with no group for 100 µs is IDLE. DROOP beyond 8 % for 4 cycles stretches the cluster's clock until DROOP_END
(20 R448 to R450). -/
def Sys2Proof.Statement.MonitorsRead : Prop :=
  ∀ (s : State) (chip : Nat), s.memWf → s.missing = false →
    let c := chipAt s chip
    (∀ temp ring, pkgOf chip ∉ s.off → ∃ t, exec (.sensorRead chip temp ring) s = .next t ∧ t.mem = s.mem ∧
      (chipAt t chip).temp = min temp 255 ∧ (chipAt t chip).ring = min ring 255 ∧
      (chipAt t chip).power = if 110 < temp ∧ (c.power = .ready ∨ c.power = .idle) then .safe else c.power) ∧
    (∀ since, c.power = .ready → c.idleSince = some since → since + 100000 ≤ s.now → (∀ x ∈ s.groups, x.1.chip ≠ chip) →
      exec (.idleTimer chip) s = .next (withChip s chip { c with power := .idle })) ∧
    (∀ hw percent cycles, 8 < percent → 4 ≤ cycles → hw < 24 → exec (.droop chip hw percent cycles) s =
      .next (withChip s chip { c with
        droop := if hw ∈ c.droop then c.droop else c.droop ++ [hw], stretched := (c.stretched.1, max c.stretched.2 percent) })) ∧
    ∀ hw, exec (.droopEnd chip hw) s = .next (withChip s chip { c with droop := c.droop.filter (· != hw) })

/-- CLOCK_STEP, a millisecond after the last: above 95 °C for a millisecond the clock is 100 MHz lower, at least 500, and the
THERMAL event is made; with more than 1 % of its cycles stretched it is lower, with a VOLTAGE event; below 90 °C for a
millisecond with neither it is 100 MHz higher, at most 1,000; otherwise it stays (20 R448; how long a range must have lasted
is the model's, log entry 95). -/
def Sys2Proof.Statement.ClockSteps : Prop :=
  ∀ (s : State) (chip : Nat), s.memWf → s.missing = false → pkgOf chip ∉ s.off →
    let c := chipAt s chip
    let droopy := s.cycle - c.stepAt.2 < 100 * c.stretched.1
    let lasting := c.rangeAt + 1000000 ≤ s.now
    c.power ≠ .safe → c.stepAt.1 + 1000000 ≤ s.now →
    (95 < c.temp → lasting → ¬droopy → 500 < c.mhz → ∃ t, exec (.clockStep chip) s = .next t ∧
      Stepped s t chip (max 500 (c.mhz - 100)) ∧ Tells s t chip 0x07 0xFF) ∧
    (c.temp ≤ 95 → droopy → 500 < c.mhz → ∃ t, exec (.clockStep chip) s = .next t ∧
      Stepped s t chip (max 500 (c.mhz - 100)) ∧ Tells s t chip 0x08 0xFF) ∧
    (c.temp < 90 → lasting → ¬droopy → c.mhz < 1000 → ∃ t, exec (.clockStep chip) s = .next t ∧
      Stepped s t chip (min 1000 (c.mhz + 100)) ∧ (900 ≤ c.mhz → Tells s t chip 0x07 0xFF)) ∧
    ((90 ≤ c.temp ∧ c.temp ≤ 95) ∨ ¬lasting → ¬droopy → ∃ t, exec (.clockStep chip) s = .next t ∧ Stepped s t chip c.mhz)

/-- EVENT_SPACE_FREED: held event records go to the ring in order, as many as there is room for (05 R122, R467). -/
def Sys2Proof.Statement.EventsDrain : Prop :=
  ∀ (s : State) (chip n : Nat), s.memWf → s.missing = false →
    let c := chipAt s chip
    let room := min 256 (c.eventRoom + n)
    let k := min room c.eventHeld.length
    exec (.eventSpaceFreed chip n) s = .next { withChip s chip { c with
        eventRoom := room - k, eventHeld := c.eventHeld.drop k } with
      outputs := ((c.eventHeld.take k).reverse.map fun bs => Output.event chip bs) ++ s.outputs }

/-- REGISTER_WRITE of a powered package's registers: a lease length takes its 16 bits; TBBASE takes its field unless EN is
set; a queue's note register takes its fields unless EN is set; a comparator's address takes its field. REGISTER_READ answers
with the register: a lease length, PWRSTAT, a queue's HEAD; a read of LKSTAT clears REPLAY. Nothing else changes (06 R124; 14
R318; 15 R345; 18 R413, R420; 19 R421; 20 R450). -/
def Sys2Proof.Statement.RegisterAccesses : Prop :=
  ∀ (s : State) (chip : Nat) (v : DWord) (h : s.memWf), s.missing = false → pkgOf chip ∉ s.off →
    (machine s h).barReach chip = .live →
    let c := chipAt s chip
    let put := fun (x : Chip) => Host.Outcome.next (φ := Fault) (ρ := Refusal) (withChip s chip x)
    let read := fun off => Host.Outcome.next (φ := Fault) (ρ := Refusal)
      { s with outputs := .register chip off (BitVec.ofNat 64 ((machine s h).registerAt chip off)) :: s.outputs }
    exec (.registerWrite chip 0x100000 v) s = put { c with leaseL1 := v.setWidth 16 } ∧
    exec (.registerWrite chip 0x100008 v) s = put { c with leaseLLC := v.setWidth 16 } ∧
    exec (.registerWrite chip 0x100108 v) s = (if c.seat.cfg.getLsbD 0 then .next s
      else put { c with seat := { c.seat with base := v &&& 0x000FFFFFC0000000 } }) ∧
    (∀ q, q < 256 → exec (.registerWrite chip (q * 0x40 + 0x28) v) s = .next (withQueue s chip q
      (if (queueAt s chip q).en then queueAt s chip q
        else { queueAt s chip q with note := v &&& 0x00FFFFFFFFFFF03D }))) ∧
    (∀ i, i < 8 → ∃ t, exec (.registerWrite chip (0x101840 + 8 * i) v) s = .next t ∧ t.chips = s.chips ∧ t.mem = s.mem ∧
      AList.get? (coreAt t chip ((machine s h).selCore chip)).comparators i =
        some { AList.getD (coreAt s chip ((machine s h).selCore chip)).comparators i {} with addr := v &&& 0x00FFFFFFFFFFFFFC }) ∧
    (exec (.registerRead chip 0x100000) s = read 0x100000 ∧ (machine s h).registerAt chip 0x100000 = c.leaseL1.toNat) ∧
    (exec (.registerRead chip 0x100410) s = read 0x100410 ∧ (machine s h).registerAt chip 0x100410 = c.pwrstat) ∧
    (∀ q, q < 256 → exec (.registerRead chip (q * 0x40 + 0x10)) s = read (q * 0x40 + 0x10) ∧
      (machine s h).registerAt chip (q * 0x40 + 0x10) = (queueAt s chip q).head.toNat) ∧
    ∀ n, linkNamed n = true → ∃ t, exec (.registerRead chip (0x101000 + 16 * n)) s = .next t ∧ t.mem = s.mem ∧
      linkAt t (pkgOf chip) n = { linkAt s (pkgOf chip) n with replay := 0 }

namespace Sys2Proof.Statement

/-! ## Words, steps and reset -/

/-- The VI function of each code (03 R67). -/
def immediateWord (k : Bool) (d a : BitVec 7) (i : BitVec 10) (code : BitVec 3) : Instr :=
  match code.toNat with
  | 0 => .vaddi k d a i
  | 1 => .vmuli k d a i
  | 2 => .vandi k d a i
  | 3 => .vori k d a i
  | 4 => .vxori k d a i
  | 5 => .vshli k d a (i.setWidth 6)
  | 6 => .vshri k d a (i.setWidth 6)
  | _ => .vsrai k d a (i.setWidth 6)

/-- The narrowing of an exact integer result to an integer type, raw (02 R37). -/
def narrowed (t : EType) (sat : Bool) (z : Int) : LaneRes :=
  let lo := if isSigned t then -(2 : Int) ^ (widthOf t - 1) else 0
  let hi := if isSigned t then (2 : Int) ^ (widthOf t - 1) - 1 else (2 : Int) ^ widthOf t - 1
  if lo ≤ z ∧ z ≤ hi then (laneForm t (z % (2 : Int) ^ widthOf t).toNat, 0)
  else if sat then (laneForm t ((if z < lo then lo else hi) % (2 : Int) ^ widthOf t).toNat, flSV)
  else (laneForm t (z % (2 : Int) ^ widthOf t).toNat, 0)

/-- Words the spec writes out, one or more of each class, with what they are. -/
def sampleWords : List (Nat × Instr) := [
  (0x00224401, .vadd false 9 8 1),
  (0x18040801, .vaddi false 2 2 1),
  (0x45048002, .bnz false 9 2),
  (0x4308000C, .brd false 1 0 12),
  (0x4E882000, .pfromv false 1 2),
  (0x53400000, .regrp false),
  (0xD8428402, .vld true 10 8 2),
  (0x61040080, .mma false 2 0 1),
  (0x69D10000, .bar false 1 1),
  (0xEB802000, .osig true 32),
  (0x7040014F, .mode false 0x14F),
  (0x73400008, .ab false 8)]

/-- What a step answers where the fetched bytes are bs. -/
def runBytes (s : State) (f : FragRef) (bs : List Byte) : Host.Outcome State Fault Refusal :=
  match decodeBytes bs with
  | .ok (i, _) => exec i { s with issuer := some f }
  | .error _ => execIllegalWord (BitVec.ofNat 32 (ofBytes bs)) { s with issuer := some f }

end Sys2Proof.Statement
open Sys2Proof.Statement

/-- A step with an empty agenda is the attempt of the fragment that issues next: a due restore of its mode, else the
instruction that the bytes at its pc decode to, with the fragment as issuer; a word of no instruction raises ILLEGAL. An event
at the head of the agenda is taken first (03 R54, R59, R78; 08 R162). -/
def Obligations.StepRunsDecoded : Prop :=
  (∀ (s : State) (f : FragRef) (a : At), s.agenda = [] → s.nextFragment = some f → s.toSys.view.at' f = some a →
    (a.e.restoreDue = true → step s = exec (.modeRestore f) s) ∧
    (∀ bs, a.e.restoreDue = false → s.fetch a = .bytes bs → step s = runBytes s f bs)) ∧
  (∀ (s : State) (i : Instr) (rest : List Move), s.agenda = .event i :: rest → step s = exec i { s with agenda := rest }) ∧
  (∀ (s : State) (a : At) (h : s.memWf) (e : TlbEntry) (acc : Acc), fieldOf a.e.pc.toNat 56 8 = 0 →
    (machine s h).groupLookup a a.e.pc.toNat = some (.leaf e.leaf e.bits e.aperture) →
    (machine s h).checkLeaf a.r.chip a.g.ctx .fetch false 0 4 a.e.pc e.leaf e.bits e.aperture = .ok acc →
    (machine s h).reach a.r.chip acc.path = .live → s.directory = [] → s.poison = [] →
    s.waiting = [] →
    s.fetch a = .bytes [readCell s.mem acc.key, readCell s.mem (acc.key + 1), readCell s.mem (acc.key + 2),
      readCell s.mem (acc.key + 3)])

/-- Twelve words of the spec's listings decode to the instructions their listings name. -/
def Obligations.DecodeSample : Prop :=
  ∀ w i, (w, i) ∈ sampleWords → decodeBytes (wordBytes w) = .ok (i, [])

/-- The word of every well-formed instruction has 32 bits and decodes to that instruction, with every field. -/
def Obligations.EncodeDecode : Prop :=
  ∀ (i : Instr) (w : Nat), WellFormed i → encode i = some w → w < 2 ^ 32 ∧ decodeBytes (wordBytes w) = .ok (i, [])

/-- Each instruction has one word: a word that decodes is the word of what it decodes to, and that is well-formed; so no two
words mean the same instruction, and a word with a bit in a field marked — decodes to none. -/
def Obligations.DecodeEncode : Prop :=
  ∀ (i : Instr) (w : Nat), w < 2 ^ 32 → decodeWord w = .ok i → WellFormed i ∧ encode i = some w

/-- Every step, of every instruction and of every entry of the agenda, keeps the memory in its canonical form and leaves no
access to a missing frame behind. -/
def Obligations.StepKeepsMemory : Prop :=
  ∀ s t : State, s.memWf → s.missing = false → step s = .next t → t.memWf ∧ t.missing = false

/-- The state after reset has the form that `StepKeepsMemory` keeps. -/
def Obligations.ResetInvariant : Prop := State.reset.memWf ∧ State.reset.missing = false

/-- What reset leaves, where the spec gives it: the package boots with its links DOWN, its context slots FREE, its queues
disabled and empty, its seats OFF, the measurement registers zero, and nothing resident. -/
def Obligations.ResetState : Prop :=
  let s := State.reset
  s.groups = [] ∧ s.blocks = [] ∧ s.clusters = [] ∧ s.launches = [] ∧ s.copies = [] ∧ s.now = 0 ∧
  (∀ p k, (slotAt s p k).st = .free) ∧
  (∀ p l, (AList.getD s.links (p, l) {}).st = .down) ∧
  (∀ c, (chipAt s c).power = .boot ∧ (chipAt s c).stages = 0 ∧ (chipAt s c).seat.st = .off ∧ (chipAt s c).head = zero32 ∧
    (chipAt s c).appended = 0 ∧ (chipAt s c).leaseL1 = 100 ∧ (chipAt s c).leaseLLC = 1000 ∧
    (∀ n, (AList.getD (chipAt s c).measures n zero32) = zero32) ∧
    (∀ q, (AList.getD (chipAt s c).queues q {}).cfg = 0 ∧ (AList.getD (chipAt s c).queues q {}).tail = 0 ∧
      (AList.getD (chipAt s c).queues q {}).head = 0))

/-- The integer arithmetic of a lane, in exact integers: sums, differences, products and fused products narrow once, by
saturation with SV or by wrapping; quotients round toward zero and remainders take the dividend's sign, with the special cases
of division (02 R37, R38; 09 R208, R213). -/
def Obligations.IntegerLanes : Prop :=
  ∀ (t : EType) (m : NumMode) (a b d : Nat), isInteger t = true → a < 2 ^ widthOf t → b < 2 ^ widthOf t → d < 2 ^ widthOf t →
    let x := readInt t a
    let y := readInt t b
    let z := readInt t d
    lnAdd t m a b = narrowed t m.sat (x + y) ∧ lnSub t m a b = narrowed t m.sat (x - y) ∧
    lnMul t m a b = narrowed t m.sat (x * y) ∧ lnMad t m false a b d = narrowed t m.sat (x * y + z) ∧
    lnMad t m true a b d = narrowed t m.sat (x * y - z) ∧ lnNeg t m a = narrowed t m.sat (-x) ∧
    lnAbs t m a = narrowed t m.sat (if x < 0 then -x else x) ∧
    (lnAbsd t m a b).1 = (if x ≤ y then y - x else x - y).toNat ∧ (lnAbsd t m a b).2 = 0 ∧
    lnDiv t m a b = (if y = 0 then (laneForm t (2 ^ widthOf t - 1), flDZ) else narrowed t m.sat (x.tdiv y)) ∧
    lnRem t a b = (if y = 0 then (laneForm t a, flDZ) else narrowed t false (x.tmod y))

/-- `nop` and `nop.k`: the words, and no effect but to issue; with K set the group parks until its V-class results are
written, or passes the marker at once where it has none; a pending restore and an open region count it (03 R86). -/
def Obligations.NopWord : Prop :=
  decodeWord 0x70000000 = .ok (.nop false) ∧ decodeWord 0xF0000000 = .ok (.nop true) ∧
  ∀ (s : State) (a : At) (k : Bool), Free s a (.nop k) k {} → HasRoom a {} →
    ∃ t g e, exec (.nop k) s = .next t ∧ Kept t a g e ∧ e.pc = a.e.pc + 4 ∧ Alone s t a ∧ RegsBut a g [] [] [] ∧
      g.fflags = a.g.fflags ∧ g.ops = a.g.ops ∧
      (k = false → g.parked = a.g.parked ∧ g.unmarked = a.g.unmarked) ∧
      (k = true → a.g.outstanding = true → g.parked = true) ∧
      (k = true → a.g.outstanding = false → g.parked = false ∧ g.unmarked = ([], [])) ∧
      ∀ rg, a.g.region = some rg → ∃ rg', g.region = some rg' ∧ rg'.issued = rg.issued + 1

/-- `aa` and `ac` outside a region raise REGION 11; inside one, `aa` restores the checkpoint, goes on at the fallback and leaves
outcome 4 with cause 1 (16 R372). -/
def Obligations.RegionEdges : Prop :=
  (∀ (s : State) (a : At) (k : Bool) (i : Instr), i = .ac k ∨ i = .aa k → Free s a i k {} → Calm s a →
    ∃ t g e, exec i s = .next t ∧ Taken s t a 0x13 11 none a.e.pc g e) ∧
  (∀ (s : State) (a : At) (k : Bool) (rg : Region), a.g.region = some rg → rg.entry = a.ei →
    HasRoom a { counts := false } → Free s a (.aa k) k {} →
    ∃ t g, exec (.aa k) s = .next t ∧ AList.get? t.groups a.r = some g ∧ Restored g rg rg.fallback rg.after ∧
      rgnOut g.rgn = 4 ∧ fieldOf g.rgn.toNat 8 8 = 1 ∧ ∀ m, readCell t.mem m = readCell s.mem m)

/-- BIND chooses version 1 of each format: where each of the descriptor's three ranges (lowest byte first) holds 1, the slot is
BOUND with versions 1, 1, 1 and the answer reports them; where one does not, the answer is VERSION (05 R105). -/
def Obligations.FormatVersions : Prop :=
  ∀ (s : State) (pkg slot addr : Nat) (h : s.memWf), s.missing = false → (machine s h).packageReady pkg = true → slot < 64 →
    (machine s h).auditStalls pkg = false → (slotAt s pkg slot).st = .building → anyCell pkg addr ≠ none →
    let bs := (machine s h).physRead pkg addr 128
    let holds := fun o => (bs.getD o 0).toNat ≤ 1 ∧ 1 ≤ (bs.getD (o + 1) 0).toNat
    descBad addr bs = false →
    (holds 0x58 ∧ holds 0x5A ∧ holds 0x5C → (machine s h).noResources pkg (contextOfDesc bs) = false →
      ∃ t, exec (.bind pkg slot addr) s = .next t ∧ (slotAt t pkg slot).st = .bound ∧
        (slotAt t pkg slot).versions = (1, 1, 1) ∧ .command pkg slot .ok (1, 1, 1) ∈ t.outputs) ∧
    (¬ (holds 0x58 ∧ holds 0x5A ∧ holds 0x5C) → ∃ t, exec (.bind pkg slot addr) s = .next t ∧
      (slotAt t pkg slot).st = .free ∧ t.outputs = .command pkg slot .version (0, 0, 0) :: s.outputs)

/-- An entry of the split table beside the issuing one, whatever its state — RUN, JOINWAIT or HOLLOW — makes `regrp` raise
BARRIER 5 (22 R454). -/
def Obligations.RegroupNeedsOne : Prop :=
  ∀ (s : State) (a : At) (k : Bool) (j : Nat) (e' : Entry), j ≠ a.ei → AList.get? a.g.entries j = some e' →
    a.e.wait ≠ some .regroup → Free s a (.regrp k) k {} → Calm s a →
    ∃ t g e, exec (.regrp k) s = .next t ∧ Taken s t a 0x11 5 none a.e.pc g e

/-- The VI functions: each of the eight codes decodes to its instruction, with every operand; each completes on an integer type
with its result written at once and nothing outstanding; a float type raises TYPE (03 R67). -/
def Obligations.ImmediateCodes : Prop :=
  ∀ (k : Bool) (d a : BitVec 7) (i : BitVec 10) (code : BitVec 3), (5 ≤ code.toNat → i.toNat < 64) →
    let j := immediateWord k d a i code
    decodeWord ((if k then 2 ^ 31 else 0) + 3 * 2 ^ 27 + code.toNat * 2 ^ 24 + d.toNat * 2 ^ 17 + a.toNat * 2 ^ 10 + i.toNat) =
      .ok j ∧
    (∀ (s : State) (x : At) (z : VectorWord), vectorWord x j = some z → isInteger x.ty = true → x.etype.isSome = true →
      z.even = true → Free s x j k { vr := z.reads, vw := z.dests, sr := z.scalars } → HasRoom x (writing z.lanes z.dests) →
      ∃ t g e, exec j s = .next t ∧ Kept t x g e ∧ e.pc = x.e.pc + 4 ∧ Holds g.vget x z ∧ g.ops = x.g.ops) ∧
    (∀ (s : State) (x : At), x.etype.isSome = true → isInteger x.ty = false →
      Free s x j k { vr := [a.toNat], vw := [d.toNat] } →
      Calm s x → ∃ t g e, exec j s = .next t ∧ Taken s t x 0x19 0 none x.e.pc g e)

/-! ## Statements of several parts -/

/-- The words that vote, count, find and combine predicates complete, each with its row's result and nothing else changed. -/
def Obligations.MaskWords : Prop :=
  Statement.VoteWords ∧ Statement.PredicateWords

/-- The words of index windows and of the operand set: `vldx`, `vstx`, `ixw`, `opf`, and where an index leaves its window. -/
def Obligations.IndexWindows : Prop :=
  Statement.WindowLoad ∧ Statement.WindowStore ∧ Statement.WindowIndex ∧ Statement.OperandSets

/-- Uniform branches, calls and returns go where their rows say, a target that is no multiple of 4 faults, `rcv` sets the
rejoin address, a branch on a mixed predicate splits the fragment, and `join` fuses the parts again. -/
def Obligations.ControlFlow : Prop :=
  Statement.JumpWords ∧ Statement.MisalignedJump ∧ Statement.RejoinAddress ∧ Statement.DivergentBranch ∧ Statement.Fusion

/-- `exit`, `halt`, `trap`, `brk`, `eret`, `launch`, a word of no instruction, TRAP_DELIVER, TABLE_PACKET_RECEIVE,
VECTOR_BROADCAST, VECTOR_RECEIVE and LAG complete with their own effect, under conditions on the state and operands alone. -/
def Obligations.FormsComplete : Prop :=
  Statement.GroupFormsComplete ∧ Statement.TableFormsComplete

/-- `exit` ends lanes, `halt` stops the group and keeps its slot. -/
def Obligations.EndOfGroup : Prop :=
  Statement.ExitWord ∧ Statement.HaltWord

/-- `mode` and `fmt` write `%mode` and `%fmt`, for good or for a count of issues; reserved values raise MODEVAL. -/
def Obligations.ModeRegisters : Prop :=
  Statement.ModeWords ∧ Statement.ModeReverts ∧ Statement.ReservedMode

/-- `srd` and `swr` read and write each listed system register; the trap registers and `eret` outside handler mode raise
PRIV. -/
def Obligations.SystemRegisters : Prop :=
  Statement.SystemRead ∧ Statement.FlagsRead ∧ Statement.SystemWrite ∧ Statement.Privilege

/-- What taking a fault or trap saves and where it goes, when it is delivered, and what `eret` restores. -/
def Obligations.Traps : Prop :=
  Statement.IllegalWord ∧ Statement.TrapWords ∧ Statement.TrapReturn ∧ Statement.FaultDelivered

/-- Scalar words of variable latency, the block's scalars, and `probe`. -/
def Obligations.SharedScalars : Prop :=
  Statement.LateScalarWords ∧ Statement.BlockScalarWrite ∧ Statement.BlockScalarRead ∧ Statement.ProbeWord

/-- Tiles are configured, freed, written from lanes and read into lanes; a tile in the wrong state faults. -/
def Obligations.Tiles : Prop :=
  Statement.TileConfigure ∧ Statement.TileFree ∧ Statement.LanesToTile ∧ Statement.TileToLanes ∧ Statement.TileFaults ∧
    Statement.LanesLand

/-- `macq` and `mrel` take and give back an engine, and `mquor` sets the quorum. -/
def Obligations.EngineHold : Prop :=
  Statement.EngineAcquire ∧ Statement.QuorumWords

/-- Engine words issue: tiles claimed, the operation queued, its batch extended; faults of engine words; `spoog` reads the
count. -/
def Obligations.EngineIssue : Prop :=
  Statement.EngineWords ∧ Statement.OutOfGridWord ∧ Statement.EngineFaults

/-- Engine operations complete with their results in the tile, and a rendezvous goes or times out. -/
def Obligations.EngineRuns : Prop :=
  Statement.EngineZeroes ∧ Statement.IntegerMatrix ∧ Statement.RendezvousGoes ∧ Statement.RendezvousTimesOut

/-- Batches are sealed, waited for and retired in order, and copy templates are written. -/
def Obligations.Batches : Prop :=
  Statement.SealWord ∧ Statement.WaitBatch ∧ Statement.TemplateWrite ∧ Statement.BatchRetires

/-- Barriers count arrivals, turn their phase when the last member has arrived, and are waited for and asked; a second arrival
in a phase faults. -/
def Obligations.Barriers : Prop :=
  Statement.BarrierArrive ∧ Statement.BarrierMeet ∧ Statement.BarrierWaitQuery ∧ Statement.BarrierTwice

/-- `yield`, promotion, demotion and forced rotation among the groups of a sub-datapath. -/
def Obligations.IssueRotation : Prop :=
  Statement.YieldWord ∧ Statement.Rotation

/-- Loads, stores and atomics issue with their translated accesses, and the checks of an access to the block's shared memory. -/
def Obligations.MemoryIssue : Prop :=
  Statement.MemoryWords ∧ Statement.SharedAccess

/-- `prf`, the spill stack and `fence`. -/
def Obligations.OtherMemoryWords : Prop :=
  Statement.PrefetchWord ∧ Statement.SpillWords ∧ Statement.FenceWord

/-- Results, stores and atomics are performed: what reaches the registers, and which bytes of memory change. -/
def Obligations.MemoryArrives : Prop :=
  Statement.ResultArrives ∧ Statement.StoreArrives ∧ Statement.AtomicArrives ∧ Statement.WriteOrder

/-- Unordered reductions issue and are applied at their homes. -/
def Obligations.Reductions : Prop :=
  Statement.ReductionWords ∧ Statement.ReductionApplies

/-- A reduction window opens, closes and combines its contributions. -/
def Obligations.ReductionWindows : Prop :=
  Statement.WindowOpen ∧ Statement.WindowClose ∧ Statement.WindowCombines

/-- `cput`, `cget` and `cred` issue and arrive. -/
def Obligations.Collectives : Prop :=
  Statement.CollectiveWords ∧ Statement.CollectiveArrives

/-- `cpy` and `mcast` issue from their templates. -/
def Obligations.CopyIssue : Prop :=
  Statement.CopyWord ∧ Statement.MulticastWord

/-- Copies start, move their elements, fault, wait for translations and complete. -/
def Obligations.CopyRuns : Prop :=
  Statement.CopyStarts ∧ Statement.CopyArrives ∧ Statement.CopyFaults ∧ Statement.CopyAnswers ∧ Statement.MulticastArrives

/-- Page walks return leaves to those that wait for them, and invalidations remove what they name. -/
def Obligations.Translation : Prop :=
  Statement.WalkReturns ∧ Statement.Invalidation

/-- `ab` opens an atomic region with its checkpoint, `ac` sends it for commit, and `ab` where none may open raises REGION 12. -/
def Obligations.RegionWords : Prop :=
  Statement.RegionOpens ∧ Statement.RegionSends ∧ Statement.RegionFaults

/-- A region's commit compares, stores or aborts, and its outcome patches or restores the group. -/
def Obligations.RegionOutcomes : Prop :=
  Statement.RegionCommits ∧ Statement.RegionEnds

/-- `turn` and `tsync` go and come back. -/
def Obligations.Turns : Prop :=
  Statement.TurnWords ∧ Statement.TurnReturns

/-- The life of a context slot, command by command. -/
def Obligations.Contexts : Prop :=
  Statement.ContextCreated ∧ Statement.ContextBound ∧ Statement.ContextSuspended ∧ Statement.ContextReleased ∧
    Statement.ContextDrained ∧ Statement.ContextScrubbed

/-- Queues are enabled, rung, stopped and read, and records are checked. -/
def Obligations.Queues : Prop :=
  Statement.QueueSwitches ∧ Statement.QueueBells ∧ Statement.WaitsEvaluated ∧ Statement.RecordChecked

/-- `launch` issues; launches read their arguments, are placed cluster by cluster, complete, and append. -/
def Obligations.Launches : Prop :=
  Statement.LaunchWord ∧ Statement.ArgumentsRead ∧ Statement.LaunchCompletes ∧ Statement.LaunchAppends ∧
    Statement.ClusterPlaced ∧ Statement.GangStarves

/-- Clusters stop, are saved and move. -/
def Obligations.Preemption : Prop :=
  Statement.ClusterStops ∧ Statement.ClusterSaved ∧ Statement.BlockMoves

/-- Seats of a table form, leave, are removed, and views change. -/
def Obligations.Seats : Prop :=
  Statement.SeatEnabled ∧ Statement.SeatDisabled ∧ Statement.SeatForms ∧ Statement.SeatEvicted ∧ Statement.ViewChanges

/-- Packets of the table apply in order at each seat, and vectors say how far. -/
def Obligations.TablePackets : Prop :=
  Statement.PacketApplies ∧ Statement.VectorsExchange ∧ Statement.LagSaid

/-- Turns are requested, granted, redirected, handed off and rebased. -/
def Obligations.TurnProtocol : Prop :=
  Statement.TurnGranted ∧ Statement.TurnBroadcast ∧ Statement.ShooterTurns

/-- Links, flits, transport packets and paths. -/
def Obligations.Fabric : Prop :=
  Statement.LinksComeUp ∧ Statement.LinksGoDown ∧ Statement.FlitsArrive ∧ Statement.PacketsTravel ∧ Statement.PathsForm

/-- Probe registers, resumption, sampling and core dumps. -/
def Obligations.Probes : Prop :=
  Statement.ProbeWrites ∧ Statement.GroupsResume ∧ Statement.SamplesTaken ∧ Statement.DumpRuns

/-- Power-on, boot stages, clock steps and monitors. -/
def Obligations.Power : Prop :=
  Statement.PowerSwitches ∧ Statement.StagesBoot ∧ Statement.ClockSteps ∧ Statement.MonitorsRead

/-- Fuses, firmware records, the audit log and the SPDM answers. -/
def Obligations.Trust : Prop :=
  Statement.FusesAndAudit ∧ Statement.Attestation

/-- The event ring, register accesses and host accesses to memory. -/
def Obligations.HostInterface : Prop :=
  Statement.EventsDrain ∧ Statement.RegisterAccesses ∧ Statement.HostAccesses
end

