-- ==== Sys2Proof/Laws/Memory.lean ====
section
/-! SUPPORT. The laws of memory: reading a byte after a write, the canonical form kept by every operation, and equal memories
being those that read alike. -/
namespace Sys2Proof.Machine

theorem readCell_below (m : Memory) : ∀ lo a, memoryRises lo m = true → a < lo → readCell m a = blankByte := by
  cases m with
  | nil => intros; rfl
  | cons c r =>
    intro lo a h hlt
    simp only [memoryRises, Bool.and_eq_true, decide_eq_true_eq] at h
    have h1 : ¬ c.1 = a := by omega
    have h2 : a < c.1 := by omega
    simp [readCell, h1, h2]

theorem readCell_writeCell (m : Memory) : ∀ lo a b c, memoryRises lo m = true →
    readCell (writeCell m a b) c = if c = a then b else readCell m c := by
  induction m with
  | nil =>
    intro lo a b c _
    by_cases hb : b = blankByte
    · by_cases hc : c = a <;> simp [writeCell, hb, readCell, hc]
    · by_cases hc : c = a
      · simp [writeCell, hb, readCell, hc]
      · have h1 : ¬ a = c := fun e => hc e.symm
        simp [writeCell, hb, readCell, hc, h1]
  | cons x r ih =>
    intro lo a b c h
    simp only [memoryRises, Bool.and_eq_true, decide_eq_true_eq] at h
    have ihr := ih (x.1 + 1) a b c h.2
    have below := readCell_below r (x.1 + 1)
    by_cases h1 : a < x.1
    · by_cases hb : b = blankByte
      · by_cases hc : c = a
        · subst hc
          have e1 : ¬ x.1 = c := by omega
          simp [writeCell, h1, hb, readCell, e1]
        · simp [writeCell, h1, hb, hc]
      · by_cases hc : c = a
        · simp [writeCell, h1, hb, readCell, hc]
        · have e1 : ¬ a = c := fun e => hc e.symm
          by_cases h3 : c < a
          · have e2 : ¬ x.1 = c := by omega
            have e3 : c < x.1 := by omega
            simp [writeCell, h1, hb, readCell, hc, e1, h3, e2, e3]
          · simp [writeCell, h1, hb, readCell, hc, e1, h3]
    · by_cases h2 : a = x.1
      · by_cases hb : b = blankByte
        · by_cases hc : c = a
          · have : readCell r x.1 = blankByte := below x.1 h.2 (by omega)
            simp [writeCell, h2, hb, this, hc]
          · have e1 : ¬ x.1 = c := fun e => hc (by omega)
            by_cases h3 : c < x.1
            · have : readCell r c = blankByte := below c h.2 (by omega)
              have e2 : ¬ c = x.1 := by omega
              simp [writeCell, h2, hb, readCell, e1, e2, h3, this]
            · have e2 : ¬ c = x.1 := by omega
              simp [writeCell, h2, hb, readCell, e1, e2, h3]
        · by_cases hc : c = a
          · simp [writeCell, h2, hb, readCell, hc]
          · have e1 : ¬ x.1 = c := fun e => hc (by omega)
            have e2 : ¬ c = x.1 := by omega
            simp [writeCell, h2, hb, readCell, e1, e2]
      · by_cases hx : x.1 = c
        · subst hx
          have e1 : ¬ x.1 = a := fun e => h2 e.symm
          simp [writeCell, h1, h2, readCell, e1]
        · by_cases h3 : c < x.1
          · have e1 : ¬ c = a := by omega
            simp [writeCell, h1, h2, readCell, hx, h3, e1]
          · simp [writeCell, h1, h2, readCell, hx, h3, ihr]

/-- A byte reads what was written to it last. -/
@[simp] theorem GoodMem.get_set_self (m : GoodMem) (a : Nat) (b : Byte) : (m.set a b).get a = b := by
  simp [GoodMem.set, GoodMem.get, readCell_writeCell m.1 0 a b a m.2]

/-- A write leaves every other byte alone. -/
@[simp] theorem GoodMem.get_set_ne (m : GoodMem) {a c : Nat} (b : Byte) (h : c ≠ a) : (m.set a b).get c = m.get c := by
  simp [GoodMem.set, GoodMem.get, readCell_writeCell m.1 0 a b c m.2, h]

/-- Every operation on memory keeps the canonical form. -/
theorem memoryWf_set (m : GoodMem) (a : Nat) (b : Byte) : memoryWf (m.set a b).1 = true := (m.set a b).2
theorem memoryWf_clear (m : GoodMem) (f : Nat → Bool) : memoryWf (m.clear f).1 = true := (m.clear f).2
theorem memoryWf_store (m : GoodMem) (a : Nat) (bs : List Byte) : memoryWf (m.store a bs).1 = true := (m.store a bs).2

/-- Equal memories are equal data: two memories in canonical form that read alike are one. -/
theorem memory_ext (m : Memory) : ∀ lo n, memoryRises lo m = true → memoryRises lo n = true →
    (∀ a, readCell m a = readCell n a) → m = n := by
  induction m with
  | nil =>
    intro lo n _ hn h
    cases n with
    | nil => rfl
    | cons y t =>
      simp only [memoryRises, Bool.and_eq_true, decide_eq_true_eq] at hn
      have := h y.1
      simp [readCell] at this
      exact absurd this.symm hn.1.2
  | cons x r ih =>
    intro lo n hm hn h
    have hm0 := hm
    simp only [memoryRises, Bool.and_eq_true, decide_eq_true_eq] at hm
    cases n with
    | nil =>
      have := h x.1
      simp [readCell] at this
      exact absurd this hm.1.2
    | cons y t =>
      have hn0 := hn
      simp only [memoryRises, Bool.and_eq_true, decide_eq_true_eq] at hn
      have hx := h x.1
      have hy := h y.1
      have e : x.1 = y.1 := by
        rcases Nat.lt_trichotomy x.1 y.1 with hlt | heq | hgt
        · have e1 : ¬ y.1 = x.1 := by omega
          simp [readCell, e1, hlt] at hx
          exact absurd hx hm.1.2
        · exact heq
        · have e1 : ¬ x.1 = y.1 := by omega
          have e2 : y.1 < x.1 := hgt
          simp [readCell, e1, e2] at hy
          exact absurd hy.symm hn.1.2
      have e2 : x.2 = y.2 := by
        simp [readCell, e] at hx
        exact hx
      have hr : r = t := by
        refine ih (x.1 + 1) t hm.2 (e ▸ hn.2) fun a => ?_
        have ha := h a
        by_cases h1 : x.1 = a
        · rw [readCell_below r (x.1 + 1) a hm.2 (by omega), readCell_below t (y.1 + 1) a hn.2 (by omega)]
        · by_cases h2 : a < x.1
          · rw [readCell_below r (x.1 + 1) a hm.2 (by omega), readCell_below t (y.1 + 1) a hn.2 (by omega)]
          · have h3 : ¬ y.1 = a := by omega
            have h4 : ¬ a < y.1 := by omega
            simpa [readCell, h1, h2, h3, h4] using ha
      rw [hr]
      exact congrArg (· :: t) (Prod.ext e e2)

/-- Reading n bytes gives n bytes. -/
@[simp] theorem GoodMem.bytes_length (m : GoodMem) : ∀ n a, (m.bytes a n).length = n
  | 0, _ => rfl
  | n + 1, a => by simp [GoodMem.bytes, GoodMem.bytes_length m n (a + 1)]

end Sys2Proof.Machine
end

