-- ==== Sys2Proof/Laws/Table.lean ====
section
/-! SUPPORT. The laws of the association list: what a key reads after a change of it or of another key. -/
namespace Sys2Proof.AList
variable {α β : Type} [DecidableEq α]

@[simp] theorem get?_nil (k : α) : get? ([] : AList α β) k = none := rfl

theorem get?_cons (a : α) (b : β) (r : AList α β) (k : α) :
    get? ((a, b) :: r) k = if a = k then some b else get? r k := rfl

@[simp] theorem get?_put_self (t : AList α β) (k : α) (v : β) : get? (put t k v) k = some v := by
  induction t with
  | nil => simp [put, get?_cons]
  | cons p r ih =>
    obtain ⟨a, b⟩ := p
    by_cases h : a = k <;> simp [put, get?_cons, h, ih]

@[simp] theorem get?_put_ne (t : AList α β) {k j : α} (v : β) (h : j ≠ k) : get? (put t k v) j = get? t j := by
  have h' : k ≠ j := fun e => h e.symm
  induction t with
  | nil => simp [put, get?_cons, h']
  | cons p r ih =>
    obtain ⟨a, b⟩ := p
    by_cases ha : a = k
    · subst ha; simp [put, get?_cons, h']
    · by_cases hj : a = j <;> simp [put, get?_cons, ha, hj, ih, h]

theorem get?_upd (t : AList α β) (k j : α) (f : β → β) :
    get? (upd t k f) j = if j = k then (get? t j).map f else get? t j := by
  induction t with
  | nil => simp [upd]
  | cons p r ih =>
    obtain ⟨a, b⟩ := p
    by_cases ha : a = k
    · subst ha
      by_cases hj : a = j
      · subst hj; simp [upd, get?_cons]
      · have : ¬ j = a := fun e => hj e.symm
        simp [upd, get?_cons, hj, this]
    · by_cases hj : a = j
      · subst hj; simp [upd, get?_cons, ha]
      · simp only [upd, ha, if_false, get?_cons, hj, ih]

@[simp] theorem get?_upd_self (t : AList α β) (k : α) (f : β → β) : get? (upd t k f) k = (get? t k).map f := by
  simp [get?_upd]

@[simp] theorem get?_upd_ne (t : AList α β) {k j : α} (f : β → β) (h : j ≠ k) : get? (upd t k f) j = get? t j := by
  simp [get?_upd, h]

@[simp] theorem get?_del_self (t : AList α β) (k : α) : get? (del t k) k = none := by
  induction t with
  | nil => rfl
  | cons p r ih =>
    obtain ⟨a, b⟩ := p
    by_cases ha : a = k
    · simpa [del, ha] using ih
    · have : del ((a, b) :: r) k = (a, b) :: del r k := by simp [del, ha]
      rw [this, get?_cons, if_neg ha, ih]

@[simp] theorem get?_del_ne (t : AList α β) {k j : α} (h : j ≠ k) : get? (del t k) j = get? t j := by
  induction t with
  | nil => rfl
  | cons p r ih =>
    obtain ⟨a, b⟩ := p
    by_cases ha : a = k
    · subst ha
      have h1 : del ((a, b) :: r) a = del r a := by simp [del]
      have h2 : ¬ a = j := fun e => h e.symm
      rw [h1, ih, get?_cons, if_neg h2]
    · have h1 : del ((a, b) :: r) k = (a, b) :: del r k := by simp [del, ha]
      rw [h1, get?_cons, get?_cons, ih]

@[simp] theorem get?_mapVal (t : AList α β) (f : α → β → β) (k : α) : get? (mapVal t f) k = (get? t k).map (f k) := by
  induction t with
  | nil => rfl
  | cons p r ih =>
    obtain ⟨a, b⟩ := p
    have h1 : mapVal ((a, b) :: r) f = (a, f a b) :: mapVal r f := rfl
    by_cases ha : a = k
    · subst ha; simp [h1, get?_cons]
    · rw [h1, get?_cons, get?_cons, if_neg ha, if_neg ha, ih]

@[simp] theorem getD_put_self (t : AList α β) (k : α) (v d : β) : getD (put t k v) k d = v := by simp [getD]

@[simp] theorem getD_put_ne (t : AList α β) {k j : α} (v d : β) (h : j ≠ k) : getD (put t k v) j d = getD t j d := by
  simp [getD, h]

theorem getD_of_get? {t : AList α β} {k : α} {v d : β} (h : get? t k = some v) : getD t k d = v := by simp [getD, h]

/-- Changing a key twice is one change. -/
theorem upd_upd (t : AList α β) (k : α) (f g : β → β) : upd (upd t k f) k g = upd t k fun x => g (f x) := by
  induction t with
  | nil => rfl
  | cons p r ih =>
    obtain ⟨a, b⟩ := p
    by_cases ha : a = k
    · simp [upd, ha]
    · simp [upd, ha, ih]

/-- Putting a key twice keeps the second value. -/
theorem put_put (t : AList α β) (k : α) (v w : β) : put (put t k v) k w = put t k w := by
  induction t with
  | nil => simp [put]
  | cons p r ih =>
    obtain ⟨a, b⟩ := p
    by_cases ha : a = k
    · simp [put, ha]
    · simp [put, ha, ih]

/-- A change of a key that has a pair is a put. -/
theorem upd_eq_put {t : AList α β} {k : α} {v : β} (h : get? t k = some v) (f : β → β) : upd t k f = put t k (f v) := by
  induction t with
  | nil => cases h
  | cons p r ih =>
    obtain ⟨a, b⟩ := p
    by_cases ha : a = k
    · simp only [get?_cons, ha, if_true, Option.some.injEq] at h
      simp [upd, put, ha, h]
    · simp only [get?_cons, ha, if_false] at h
      simp [upd, put, ha, ih h]

end Sys2Proof.AList
end

