-- ==== Sys2Proof/Laws/Lift.lean ====
section
/-! SUPPORT. What a step made of named operations can do: `lift` answers a next state whose memory is in canonical form, or one
of the two faults. -/
namespace Sys2Proof.Machine

/-- A state as the named operations see it. -/
def State.toW (s : State) (h : s.memWf) : W := ⟨s.toSys, ⟨s.mem, h⟩⟩

@[simp] theorem State.toW_s (s : State) (h : s.memWf) : (s.toW h).s = s.toSys := rfl
@[simp] theorem State.toW_m (s : State) (h : s.memWf) : (s.toW h).m.1 = s.mem := rfl

/-- The state that a list of tables and a memory make. -/
def W.toState (w : W) : State := { toSys := w.s, mem := w.m.1 }

@[simp] theorem W.toState_toSys (w : W) : w.toState.toSys = w.s := rfl
@[simp] theorem W.toState_mem (w : W) : w.toState.mem = w.m.1 := rfl

/-- What `lift` answers on memory in canonical form. -/
theorem lift_eq (f : W → W) (s : State) (h : s.memWf) :
    lift f s = if (f (s.toW h)).s.missing then .fault .noFrame else .next (f (s.toW h)).toState := by
  unfold lift
  rw [dif_pos h]
  rfl

/-- `lift` answers the result of its operation where no absent frame was met. -/
theorem lift_next_of (f : W → W) (s : State) (h : s.memWf) (hm : (f (s.toW h)).s.missing = false) :
    lift f s = .next (f (s.toW h)).toState := by
  rw [lift_eq f s h, hm]; rfl

/-- Everything that `lift` can answer with a next state. -/
theorem lift_next {f : W → W} {s t : State} (e : lift f s = .next t) :
    ∃ h : s.memWf, (f (s.toW h)).s.missing = false ∧ t = (f (s.toW h)).toState := by
  by_cases h : s.memWf
  · rw [lift_eq f s h] at e
    split at e
    · cases e
    · rename_i hm
      cases e
      exact ⟨h, by simpa using hm, rfl⟩
  · unfold lift at e
    rw [dif_neg h] at e
    cases e

/-- A next state of `lift` has its memory in canonical form and has met no absent frame. -/
theorem lift_wf {f : W → W} {s t : State} (e : lift f s = .next t) : t.memWf ∧ t.missing = false := by
  obtain ⟨h, hm, rfl⟩ := lift_next e
  exact ⟨(f (s.toW h)).m.2, hm⟩

end Sys2Proof.Machine
end

