-- ==== Sys2Proof/Laws/State.lean ====
section
/-! SUPPORT. What each field of the state reads after each of the named updates: one lemma a field and an update. -/
namespace Sys2Proof.Machine

variable (w : W)

/-! ### `updGroup` -/

@[simp] theorem W.updGroup_mem (r : GroupRef) (f : Group → Group) : (w.updGroup r f).m = w.m := rfl
@[simp] theorem W.updGroup_agenda (r : GroupRef) (f : Group → Group) : (w.updGroup r f).s.agenda = w.s.agenda := rfl
@[simp] theorem W.updGroup_now (r : GroupRef) (f : Group → Group) : (w.updGroup r f).s.now = w.s.now := rfl
@[simp] theorem W.updGroup_epoch (r : GroupRef) (f : Group → Group) : (w.updGroup r f).s.epoch = w.s.epoch := rfl
@[simp] theorem W.updGroup_cycle (r : GroupRef) (f : Group → Group) : (w.updGroup r f).s.cycle = w.s.cycle := rfl
@[simp] theorem W.updGroup_issuer (r : GroupRef) (f : Group → Group) : (w.updGroup r f).s.issuer = w.s.issuer := rfl
@[simp] theorem W.updGroup_draws (r : GroupRef) (f : Group → Group) : (w.updGroup r f).s.draws = w.s.draws := rfl
@[simp] theorem W.updGroup_serial (r : GroupRef) (f : Group → Group) : (w.updGroup r f).s.serial = w.s.serial := rfl
@[simp] theorem W.updGroup_chips (r : GroupRef) (f : Group → Group) : (w.updGroup r f).s.chips = w.s.chips := rfl
@[simp] theorem W.updGroup_cores (r : GroupRef) (f : Group → Group) : (w.updGroup r f).s.cores = w.s.cores := rfl
@[simp] theorem W.updGroup_contexts (r : GroupRef) (f : Group → Group) : (w.updGroup r f).s.contexts = w.s.contexts := rfl
@[simp] theorem W.updGroup_blocks (r : GroupRef) (f : Group → Group) : (w.updGroup r f).s.blocks = w.s.blocks := rfl
@[simp] theorem W.updGroup_clusters (r : GroupRef) (f : Group → Group) : (w.updGroup r f).s.clusters = w.s.clusters := rfl
@[simp] theorem W.updGroup_launches (r : GroupRef) (f : Group → Group) : (w.updGroup r f).s.launches = w.s.launches := rfl
@[simp] theorem W.updGroup_spillStacks (r : GroupRef) (f : Group → Group) : (w.updGroup r f).s.spillStacks = w.s.spillStacks := rfl
@[simp] theorem W.updGroup_copies (r : GroupRef) (f : Group → Group) : (w.updGroup r f).s.copies = w.s.copies := rfl
@[simp] theorem W.updGroup_units (r : GroupRef) (f : Group → Group) : (w.updGroup r f).s.units = w.s.units := rfl
@[simp] theorem W.updGroup_waiting (r : GroupRef) (f : Group → Group) : (w.updGroup r f).s.waiting = w.s.waiting := rfl
@[simp] theorem W.updGroup_horizon (r : GroupRef) (f : Group → Group) : (w.updGroup r f).s.horizon = w.s.horizon := rfl
@[simp] theorem W.updGroup_awaited (r : GroupRef) (f : Group → Group) : (w.updGroup r f).s.awaited = w.s.awaited := rfl
@[simp] theorem W.updGroup_directory (r : GroupRef) (f : Group → Group) : (w.updGroup r f).s.directory = w.s.directory := rfl
@[simp] theorem W.updGroup_poison (r : GroupRef) (f : Group → Group) : (w.updGroup r f).s.poison = w.s.poison := rfl
@[simp] theorem W.updGroup_windows (r : GroupRef) (f : Group → Group) : (w.updGroup r f).s.windows = w.s.windows := rfl
@[simp] theorem W.updGroup_tlb (r : GroupRef) (f : Group → Group) : (w.updGroup r f).s.tlb = w.s.tlb := rfl
@[simp] theorem W.updGroup_apertures (r : GroupRef) (f : Group → Group) : (w.updGroup r f).s.apertures = w.s.apertures := rfl
@[simp] theorem W.updGroup_walks (r : GroupRef) (f : Group → Group) : (w.updGroup r f).s.walks = w.s.walks := rfl
@[simp] theorem W.updGroup_owners (r : GroupRef) (f : Group → Group) : (w.updGroup r f).s.owners = w.s.owners := rfl
@[simp] theorem W.updGroup_packets (r : GroupRef) (f : Group → Group) : (w.updGroup r f).s.packets = w.s.packets := rfl
@[simp] theorem W.updGroup_messages (r : GroupRef) (f : Group → Group) : (w.updGroup r f).s.messages = w.s.messages := rfl
@[simp] theorem W.updGroup_links (r : GroupRef) (f : Group → Group) : (w.updGroup r f).s.links = w.s.links := rfl
@[simp] theorem W.updGroup_transports (r : GroupRef) (f : Group → Group) : (w.updGroup r f).s.transports = w.s.transports := rfl
@[simp] theorem W.updGroup_off (r : GroupRef) (f : Group → Group) : (w.updGroup r f).s.off = w.s.off := rfl
@[simp] theorem W.updGroup_fuses (r : GroupRef) (f : Group → Group) : (w.updGroup r f).s.fuses = w.s.fuses := rfl
@[simp] theorem W.updGroup_outputs (r : GroupRef) (f : Group → Group) : (w.updGroup r f).s.outputs = w.s.outputs := rfl
@[simp] theorem W.updGroup_missing (r : GroupRef) (f : Group → Group) : (w.updGroup r f).s.missing = w.s.missing := rfl

/-! ### `putGroup` -/

@[simp] theorem W.putGroup_mem (r : GroupRef) (g : Group) : (w.putGroup r g).m = w.m := rfl
@[simp] theorem W.putGroup_agenda (r : GroupRef) (g : Group) : (w.putGroup r g).s.agenda = w.s.agenda := rfl
@[simp] theorem W.putGroup_now (r : GroupRef) (g : Group) : (w.putGroup r g).s.now = w.s.now := rfl
@[simp] theorem W.putGroup_epoch (r : GroupRef) (g : Group) : (w.putGroup r g).s.epoch = w.s.epoch := rfl
@[simp] theorem W.putGroup_cycle (r : GroupRef) (g : Group) : (w.putGroup r g).s.cycle = w.s.cycle := rfl
@[simp] theorem W.putGroup_issuer (r : GroupRef) (g : Group) : (w.putGroup r g).s.issuer = w.s.issuer := rfl
@[simp] theorem W.putGroup_draws (r : GroupRef) (g : Group) : (w.putGroup r g).s.draws = w.s.draws := rfl
@[simp] theorem W.putGroup_serial (r : GroupRef) (g : Group) : (w.putGroup r g).s.serial = w.s.serial := rfl
@[simp] theorem W.putGroup_chips (r : GroupRef) (g : Group) : (w.putGroup r g).s.chips = w.s.chips := rfl
@[simp] theorem W.putGroup_cores (r : GroupRef) (g : Group) : (w.putGroup r g).s.cores = w.s.cores := rfl
@[simp] theorem W.putGroup_contexts (r : GroupRef) (g : Group) : (w.putGroup r g).s.contexts = w.s.contexts := rfl
@[simp] theorem W.putGroup_blocks (r : GroupRef) (g : Group) : (w.putGroup r g).s.blocks = w.s.blocks := rfl
@[simp] theorem W.putGroup_clusters (r : GroupRef) (g : Group) : (w.putGroup r g).s.clusters = w.s.clusters := rfl
@[simp] theorem W.putGroup_launches (r : GroupRef) (g : Group) : (w.putGroup r g).s.launches = w.s.launches := rfl
@[simp] theorem W.putGroup_spillStacks (r : GroupRef) (g : Group) : (w.putGroup r g).s.spillStacks = w.s.spillStacks := rfl
@[simp] theorem W.putGroup_copies (r : GroupRef) (g : Group) : (w.putGroup r g).s.copies = w.s.copies := rfl
@[simp] theorem W.putGroup_units (r : GroupRef) (g : Group) : (w.putGroup r g).s.units = w.s.units := rfl
@[simp] theorem W.putGroup_waiting (r : GroupRef) (g : Group) : (w.putGroup r g).s.waiting = w.s.waiting := rfl
@[simp] theorem W.putGroup_horizon (r : GroupRef) (g : Group) : (w.putGroup r g).s.horizon = w.s.horizon := rfl
@[simp] theorem W.putGroup_awaited (r : GroupRef) (g : Group) : (w.putGroup r g).s.awaited = w.s.awaited := rfl
@[simp] theorem W.putGroup_directory (r : GroupRef) (g : Group) : (w.putGroup r g).s.directory = w.s.directory := rfl
@[simp] theorem W.putGroup_poison (r : GroupRef) (g : Group) : (w.putGroup r g).s.poison = w.s.poison := rfl
@[simp] theorem W.putGroup_windows (r : GroupRef) (g : Group) : (w.putGroup r g).s.windows = w.s.windows := rfl
@[simp] theorem W.putGroup_tlb (r : GroupRef) (g : Group) : (w.putGroup r g).s.tlb = w.s.tlb := rfl
@[simp] theorem W.putGroup_apertures (r : GroupRef) (g : Group) : (w.putGroup r g).s.apertures = w.s.apertures := rfl
@[simp] theorem W.putGroup_walks (r : GroupRef) (g : Group) : (w.putGroup r g).s.walks = w.s.walks := rfl
@[simp] theorem W.putGroup_owners (r : GroupRef) (g : Group) : (w.putGroup r g).s.owners = w.s.owners := rfl
@[simp] theorem W.putGroup_packets (r : GroupRef) (g : Group) : (w.putGroup r g).s.packets = w.s.packets := rfl
@[simp] theorem W.putGroup_messages (r : GroupRef) (g : Group) : (w.putGroup r g).s.messages = w.s.messages := rfl
@[simp] theorem W.putGroup_links (r : GroupRef) (g : Group) : (w.putGroup r g).s.links = w.s.links := rfl
@[simp] theorem W.putGroup_transports (r : GroupRef) (g : Group) : (w.putGroup r g).s.transports = w.s.transports := rfl
@[simp] theorem W.putGroup_off (r : GroupRef) (g : Group) : (w.putGroup r g).s.off = w.s.off := rfl
@[simp] theorem W.putGroup_fuses (r : GroupRef) (g : Group) : (w.putGroup r g).s.fuses = w.s.fuses := rfl
@[simp] theorem W.putGroup_outputs (r : GroupRef) (g : Group) : (w.putGroup r g).s.outputs = w.s.outputs := rfl
@[simp] theorem W.putGroup_missing (r : GroupRef) (g : Group) : (w.putGroup r g).s.missing = w.s.missing := rfl

/-! ### `dropGroup` -/

@[simp] theorem W.dropGroup_mem (r : GroupRef) : (w.dropGroup r).m = w.m := rfl
@[simp] theorem W.dropGroup_agenda (r : GroupRef) : (w.dropGroup r).s.agenda = w.s.agenda := rfl
@[simp] theorem W.dropGroup_now (r : GroupRef) : (w.dropGroup r).s.now = w.s.now := rfl
@[simp] theorem W.dropGroup_epoch (r : GroupRef) : (w.dropGroup r).s.epoch = w.s.epoch := rfl
@[simp] theorem W.dropGroup_cycle (r : GroupRef) : (w.dropGroup r).s.cycle = w.s.cycle := rfl
@[simp] theorem W.dropGroup_issuer (r : GroupRef) : (w.dropGroup r).s.issuer = w.s.issuer := rfl
@[simp] theorem W.dropGroup_draws (r : GroupRef) : (w.dropGroup r).s.draws = w.s.draws := rfl
@[simp] theorem W.dropGroup_serial (r : GroupRef) : (w.dropGroup r).s.serial = w.s.serial := rfl
@[simp] theorem W.dropGroup_chips (r : GroupRef) : (w.dropGroup r).s.chips = w.s.chips := rfl
@[simp] theorem W.dropGroup_cores (r : GroupRef) : (w.dropGroup r).s.cores = w.s.cores := rfl
@[simp] theorem W.dropGroup_contexts (r : GroupRef) : (w.dropGroup r).s.contexts = w.s.contexts := rfl
@[simp] theorem W.dropGroup_blocks (r : GroupRef) : (w.dropGroup r).s.blocks = w.s.blocks := rfl
@[simp] theorem W.dropGroup_clusters (r : GroupRef) : (w.dropGroup r).s.clusters = w.s.clusters := rfl
@[simp] theorem W.dropGroup_launches (r : GroupRef) : (w.dropGroup r).s.launches = w.s.launches := rfl
@[simp] theorem W.dropGroup_spillStacks (r : GroupRef) : (w.dropGroup r).s.spillStacks = w.s.spillStacks := rfl
@[simp] theorem W.dropGroup_copies (r : GroupRef) : (w.dropGroup r).s.copies = w.s.copies := rfl
@[simp] theorem W.dropGroup_units (r : GroupRef) : (w.dropGroup r).s.units = w.s.units := rfl
@[simp] theorem W.dropGroup_waiting (r : GroupRef) : (w.dropGroup r).s.waiting = w.s.waiting := rfl
@[simp] theorem W.dropGroup_horizon (r : GroupRef) : (w.dropGroup r).s.horizon = w.s.horizon := rfl
@[simp] theorem W.dropGroup_awaited (r : GroupRef) : (w.dropGroup r).s.awaited = w.s.awaited := rfl
@[simp] theorem W.dropGroup_directory (r : GroupRef) : (w.dropGroup r).s.directory = w.s.directory := rfl
@[simp] theorem W.dropGroup_poison (r : GroupRef) : (w.dropGroup r).s.poison = w.s.poison := rfl
@[simp] theorem W.dropGroup_windows (r : GroupRef) : (w.dropGroup r).s.windows = w.s.windows := rfl
@[simp] theorem W.dropGroup_tlb (r : GroupRef) : (w.dropGroup r).s.tlb = w.s.tlb := rfl
@[simp] theorem W.dropGroup_apertures (r : GroupRef) : (w.dropGroup r).s.apertures = w.s.apertures := rfl
@[simp] theorem W.dropGroup_walks (r : GroupRef) : (w.dropGroup r).s.walks = w.s.walks := rfl
@[simp] theorem W.dropGroup_owners (r : GroupRef) : (w.dropGroup r).s.owners = w.s.owners := rfl
@[simp] theorem W.dropGroup_packets (r : GroupRef) : (w.dropGroup r).s.packets = w.s.packets := rfl
@[simp] theorem W.dropGroup_messages (r : GroupRef) : (w.dropGroup r).s.messages = w.s.messages := rfl
@[simp] theorem W.dropGroup_links (r : GroupRef) : (w.dropGroup r).s.links = w.s.links := rfl
@[simp] theorem W.dropGroup_transports (r : GroupRef) : (w.dropGroup r).s.transports = w.s.transports := rfl
@[simp] theorem W.dropGroup_off (r : GroupRef) : (w.dropGroup r).s.off = w.s.off := rfl
@[simp] theorem W.dropGroup_fuses (r : GroupRef) : (w.dropGroup r).s.fuses = w.s.fuses := rfl
@[simp] theorem W.dropGroup_outputs (r : GroupRef) : (w.dropGroup r).s.outputs = w.s.outputs := rfl
@[simp] theorem W.dropGroup_missing (r : GroupRef) : (w.dropGroup r).s.missing = w.s.missing := rfl

/-! ### `updChip` -/

@[simp] theorem W.updChip_mem (c : Nat) (f : Chip → Chip) : (w.updChip c f).m = w.m := rfl
@[simp] theorem W.updChip_agenda (c : Nat) (f : Chip → Chip) : (w.updChip c f).s.agenda = w.s.agenda := rfl
@[simp] theorem W.updChip_now (c : Nat) (f : Chip → Chip) : (w.updChip c f).s.now = w.s.now := rfl
@[simp] theorem W.updChip_epoch (c : Nat) (f : Chip → Chip) : (w.updChip c f).s.epoch = w.s.epoch := rfl
@[simp] theorem W.updChip_cycle (c : Nat) (f : Chip → Chip) : (w.updChip c f).s.cycle = w.s.cycle := rfl
@[simp] theorem W.updChip_issuer (c : Nat) (f : Chip → Chip) : (w.updChip c f).s.issuer = w.s.issuer := rfl
@[simp] theorem W.updChip_draws (c : Nat) (f : Chip → Chip) : (w.updChip c f).s.draws = w.s.draws := rfl
@[simp] theorem W.updChip_serial (c : Nat) (f : Chip → Chip) : (w.updChip c f).s.serial = w.s.serial := rfl
@[simp] theorem W.updChip_cores (c : Nat) (f : Chip → Chip) : (w.updChip c f).s.cores = w.s.cores := rfl
@[simp] theorem W.updChip_contexts (c : Nat) (f : Chip → Chip) : (w.updChip c f).s.contexts = w.s.contexts := rfl
@[simp] theorem W.updChip_groups (c : Nat) (f : Chip → Chip) : (w.updChip c f).s.groups = w.s.groups := rfl
@[simp] theorem W.updChip_blocks (c : Nat) (f : Chip → Chip) : (w.updChip c f).s.blocks = w.s.blocks := rfl
@[simp] theorem W.updChip_clusters (c : Nat) (f : Chip → Chip) : (w.updChip c f).s.clusters = w.s.clusters := rfl
@[simp] theorem W.updChip_launches (c : Nat) (f : Chip → Chip) : (w.updChip c f).s.launches = w.s.launches := rfl
@[simp] theorem W.updChip_spillStacks (c : Nat) (f : Chip → Chip) : (w.updChip c f).s.spillStacks = w.s.spillStacks := rfl
@[simp] theorem W.updChip_copies (c : Nat) (f : Chip → Chip) : (w.updChip c f).s.copies = w.s.copies := rfl
@[simp] theorem W.updChip_units (c : Nat) (f : Chip → Chip) : (w.updChip c f).s.units = w.s.units := rfl
@[simp] theorem W.updChip_waiting (c : Nat) (f : Chip → Chip) : (w.updChip c f).s.waiting = w.s.waiting := rfl
@[simp] theorem W.updChip_horizon (c : Nat) (f : Chip → Chip) : (w.updChip c f).s.horizon = w.s.horizon := rfl
@[simp] theorem W.updChip_awaited (c : Nat) (f : Chip → Chip) : (w.updChip c f).s.awaited = w.s.awaited := rfl
@[simp] theorem W.updChip_directory (c : Nat) (f : Chip → Chip) : (w.updChip c f).s.directory = w.s.directory := rfl
@[simp] theorem W.updChip_poison (c : Nat) (f : Chip → Chip) : (w.updChip c f).s.poison = w.s.poison := rfl
@[simp] theorem W.updChip_windows (c : Nat) (f : Chip → Chip) : (w.updChip c f).s.windows = w.s.windows := rfl
@[simp] theorem W.updChip_tlb (c : Nat) (f : Chip → Chip) : (w.updChip c f).s.tlb = w.s.tlb := rfl
@[simp] theorem W.updChip_apertures (c : Nat) (f : Chip → Chip) : (w.updChip c f).s.apertures = w.s.apertures := rfl
@[simp] theorem W.updChip_walks (c : Nat) (f : Chip → Chip) : (w.updChip c f).s.walks = w.s.walks := rfl
@[simp] theorem W.updChip_owners (c : Nat) (f : Chip → Chip) : (w.updChip c f).s.owners = w.s.owners := rfl
@[simp] theorem W.updChip_packets (c : Nat) (f : Chip → Chip) : (w.updChip c f).s.packets = w.s.packets := rfl
@[simp] theorem W.updChip_messages (c : Nat) (f : Chip → Chip) : (w.updChip c f).s.messages = w.s.messages := rfl
@[simp] theorem W.updChip_links (c : Nat) (f : Chip → Chip) : (w.updChip c f).s.links = w.s.links := rfl
@[simp] theorem W.updChip_transports (c : Nat) (f : Chip → Chip) : (w.updChip c f).s.transports = w.s.transports := rfl
@[simp] theorem W.updChip_off (c : Nat) (f : Chip → Chip) : (w.updChip c f).s.off = w.s.off := rfl
@[simp] theorem W.updChip_fuses (c : Nat) (f : Chip → Chip) : (w.updChip c f).s.fuses = w.s.fuses := rfl
@[simp] theorem W.updChip_outputs (c : Nat) (f : Chip → Chip) : (w.updChip c f).s.outputs = w.s.outputs := rfl
@[simp] theorem W.updChip_missing (c : Nat) (f : Chip → Chip) : (w.updChip c f).s.missing = w.s.missing := rfl

/-! ### `updCore` -/

@[simp] theorem W.updCore_mem (k : Nat × Nat) (f : Core → Core) : (w.updCore k f).m = w.m := rfl
@[simp] theorem W.updCore_agenda (k : Nat × Nat) (f : Core → Core) : (w.updCore k f).s.agenda = w.s.agenda := rfl
@[simp] theorem W.updCore_now (k : Nat × Nat) (f : Core → Core) : (w.updCore k f).s.now = w.s.now := rfl
@[simp] theorem W.updCore_epoch (k : Nat × Nat) (f : Core → Core) : (w.updCore k f).s.epoch = w.s.epoch := rfl
@[simp] theorem W.updCore_cycle (k : Nat × Nat) (f : Core → Core) : (w.updCore k f).s.cycle = w.s.cycle := rfl
@[simp] theorem W.updCore_issuer (k : Nat × Nat) (f : Core → Core) : (w.updCore k f).s.issuer = w.s.issuer := rfl
@[simp] theorem W.updCore_draws (k : Nat × Nat) (f : Core → Core) : (w.updCore k f).s.draws = w.s.draws := rfl
@[simp] theorem W.updCore_serial (k : Nat × Nat) (f : Core → Core) : (w.updCore k f).s.serial = w.s.serial := rfl
@[simp] theorem W.updCore_chips (k : Nat × Nat) (f : Core → Core) : (w.updCore k f).s.chips = w.s.chips := rfl
@[simp] theorem W.updCore_contexts (k : Nat × Nat) (f : Core → Core) : (w.updCore k f).s.contexts = w.s.contexts := rfl
@[simp] theorem W.updCore_groups (k : Nat × Nat) (f : Core → Core) : (w.updCore k f).s.groups = w.s.groups := rfl
@[simp] theorem W.updCore_blocks (k : Nat × Nat) (f : Core → Core) : (w.updCore k f).s.blocks = w.s.blocks := rfl
@[simp] theorem W.updCore_clusters (k : Nat × Nat) (f : Core → Core) : (w.updCore k f).s.clusters = w.s.clusters := rfl
@[simp] theorem W.updCore_launches (k : Nat × Nat) (f : Core → Core) : (w.updCore k f).s.launches = w.s.launches := rfl
@[simp] theorem W.updCore_spillStacks (k : Nat × Nat) (f : Core → Core) : (w.updCore k f).s.spillStacks = w.s.spillStacks := rfl
@[simp] theorem W.updCore_copies (k : Nat × Nat) (f : Core → Core) : (w.updCore k f).s.copies = w.s.copies := rfl
@[simp] theorem W.updCore_units (k : Nat × Nat) (f : Core → Core) : (w.updCore k f).s.units = w.s.units := rfl
@[simp] theorem W.updCore_waiting (k : Nat × Nat) (f : Core → Core) : (w.updCore k f).s.waiting = w.s.waiting := rfl
@[simp] theorem W.updCore_horizon (k : Nat × Nat) (f : Core → Core) : (w.updCore k f).s.horizon = w.s.horizon := rfl
@[simp] theorem W.updCore_awaited (k : Nat × Nat) (f : Core → Core) : (w.updCore k f).s.awaited = w.s.awaited := rfl
@[simp] theorem W.updCore_directory (k : Nat × Nat) (f : Core → Core) : (w.updCore k f).s.directory = w.s.directory := rfl
@[simp] theorem W.updCore_poison (k : Nat × Nat) (f : Core → Core) : (w.updCore k f).s.poison = w.s.poison := rfl
@[simp] theorem W.updCore_windows (k : Nat × Nat) (f : Core → Core) : (w.updCore k f).s.windows = w.s.windows := rfl
@[simp] theorem W.updCore_tlb (k : Nat × Nat) (f : Core → Core) : (w.updCore k f).s.tlb = w.s.tlb := rfl
@[simp] theorem W.updCore_apertures (k : Nat × Nat) (f : Core → Core) : (w.updCore k f).s.apertures = w.s.apertures := rfl
@[simp] theorem W.updCore_walks (k : Nat × Nat) (f : Core → Core) : (w.updCore k f).s.walks = w.s.walks := rfl
@[simp] theorem W.updCore_owners (k : Nat × Nat) (f : Core → Core) : (w.updCore k f).s.owners = w.s.owners := rfl
@[simp] theorem W.updCore_packets (k : Nat × Nat) (f : Core → Core) : (w.updCore k f).s.packets = w.s.packets := rfl
@[simp] theorem W.updCore_messages (k : Nat × Nat) (f : Core → Core) : (w.updCore k f).s.messages = w.s.messages := rfl
@[simp] theorem W.updCore_links (k : Nat × Nat) (f : Core → Core) : (w.updCore k f).s.links = w.s.links := rfl
@[simp] theorem W.updCore_transports (k : Nat × Nat) (f : Core → Core) : (w.updCore k f).s.transports = w.s.transports := rfl
@[simp] theorem W.updCore_off (k : Nat × Nat) (f : Core → Core) : (w.updCore k f).s.off = w.s.off := rfl
@[simp] theorem W.updCore_fuses (k : Nat × Nat) (f : Core → Core) : (w.updCore k f).s.fuses = w.s.fuses := rfl
@[simp] theorem W.updCore_outputs (k : Nat × Nat) (f : Core → Core) : (w.updCore k f).s.outputs = w.s.outputs := rfl
@[simp] theorem W.updCore_missing (k : Nat × Nat) (f : Core → Core) : (w.updCore k f).s.missing = w.s.missing := rfl

/-! ### `updContext` -/

@[simp] theorem W.updContext_mem (p q : Nat) (f : Context → Context) : (w.updContext p q f).m = w.m := rfl
@[simp] theorem W.updContext_agenda (p q : Nat) (f : Context → Context) : (w.updContext p q f).s.agenda = w.s.agenda := rfl
@[simp] theorem W.updContext_now (p q : Nat) (f : Context → Context) : (w.updContext p q f).s.now = w.s.now := rfl
@[simp] theorem W.updContext_epoch (p q : Nat) (f : Context → Context) : (w.updContext p q f).s.epoch = w.s.epoch := rfl
@[simp] theorem W.updContext_cycle (p q : Nat) (f : Context → Context) : (w.updContext p q f).s.cycle = w.s.cycle := rfl
@[simp] theorem W.updContext_issuer (p q : Nat) (f : Context → Context) : (w.updContext p q f).s.issuer = w.s.issuer := rfl
@[simp] theorem W.updContext_draws (p q : Nat) (f : Context → Context) : (w.updContext p q f).s.draws = w.s.draws := rfl
@[simp] theorem W.updContext_serial (p q : Nat) (f : Context → Context) : (w.updContext p q f).s.serial = w.s.serial := rfl
@[simp] theorem W.updContext_chips (p q : Nat) (f : Context → Context) : (w.updContext p q f).s.chips = w.s.chips := rfl
@[simp] theorem W.updContext_cores (p q : Nat) (f : Context → Context) : (w.updContext p q f).s.cores = w.s.cores := rfl
@[simp] theorem W.updContext_groups (p q : Nat) (f : Context → Context) : (w.updContext p q f).s.groups = w.s.groups := rfl
@[simp] theorem W.updContext_blocks (p q : Nat) (f : Context → Context) : (w.updContext p q f).s.blocks = w.s.blocks := rfl
@[simp] theorem W.updContext_clusters (p q : Nat) (f : Context → Context) : (w.updContext p q f).s.clusters = w.s.clusters := rfl
@[simp] theorem W.updContext_launches (p q : Nat) (f : Context → Context) : (w.updContext p q f).s.launches = w.s.launches := rfl
@[simp] theorem W.updContext_spillStacks (p q : Nat) (f : Context → Context) : (w.updContext p q f).s.spillStacks = w.s.spillStacks := rfl
@[simp] theorem W.updContext_copies (p q : Nat) (f : Context → Context) : (w.updContext p q f).s.copies = w.s.copies := rfl
@[simp] theorem W.updContext_units (p q : Nat) (f : Context → Context) : (w.updContext p q f).s.units = w.s.units := rfl
@[simp] theorem W.updContext_waiting (p q : Nat) (f : Context → Context) : (w.updContext p q f).s.waiting = w.s.waiting := rfl
@[simp] theorem W.updContext_horizon (p q : Nat) (f : Context → Context) : (w.updContext p q f).s.horizon = w.s.horizon := rfl
@[simp] theorem W.updContext_awaited (p q : Nat) (f : Context → Context) : (w.updContext p q f).s.awaited = w.s.awaited := rfl
@[simp] theorem W.updContext_directory (p q : Nat) (f : Context → Context) : (w.updContext p q f).s.directory = w.s.directory := rfl
@[simp] theorem W.updContext_poison (p q : Nat) (f : Context → Context) : (w.updContext p q f).s.poison = w.s.poison := rfl
@[simp] theorem W.updContext_windows (p q : Nat) (f : Context → Context) : (w.updContext p q f).s.windows = w.s.windows := rfl
@[simp] theorem W.updContext_tlb (p q : Nat) (f : Context → Context) : (w.updContext p q f).s.tlb = w.s.tlb := rfl
@[simp] theorem W.updContext_apertures (p q : Nat) (f : Context → Context) : (w.updContext p q f).s.apertures = w.s.apertures := rfl
@[simp] theorem W.updContext_walks (p q : Nat) (f : Context → Context) : (w.updContext p q f).s.walks = w.s.walks := rfl
@[simp] theorem W.updContext_owners (p q : Nat) (f : Context → Context) : (w.updContext p q f).s.owners = w.s.owners := rfl
@[simp] theorem W.updContext_packets (p q : Nat) (f : Context → Context) : (w.updContext p q f).s.packets = w.s.packets := rfl
@[simp] theorem W.updContext_messages (p q : Nat) (f : Context → Context) : (w.updContext p q f).s.messages = w.s.messages := rfl
@[simp] theorem W.updContext_links (p q : Nat) (f : Context → Context) : (w.updContext p q f).s.links = w.s.links := rfl
@[simp] theorem W.updContext_transports (p q : Nat) (f : Context → Context) : (w.updContext p q f).s.transports = w.s.transports := rfl
@[simp] theorem W.updContext_off (p q : Nat) (f : Context → Context) : (w.updContext p q f).s.off = w.s.off := rfl
@[simp] theorem W.updContext_fuses (p q : Nat) (f : Context → Context) : (w.updContext p q f).s.fuses = w.s.fuses := rfl
@[simp] theorem W.updContext_outputs (p q : Nat) (f : Context → Context) : (w.updContext p q f).s.outputs = w.s.outputs := rfl
@[simp] theorem W.updContext_missing (p q : Nat) (f : Context → Context) : (w.updContext p q f).s.missing = w.s.missing := rfl

/-! ### `updBlock` -/

@[simp] theorem W.updBlock_mem (b : Nat) (f : Block → Block) : (w.updBlock b f).m = w.m := rfl
@[simp] theorem W.updBlock_agenda (b : Nat) (f : Block → Block) : (w.updBlock b f).s.agenda = w.s.agenda := rfl
@[simp] theorem W.updBlock_now (b : Nat) (f : Block → Block) : (w.updBlock b f).s.now = w.s.now := rfl
@[simp] theorem W.updBlock_epoch (b : Nat) (f : Block → Block) : (w.updBlock b f).s.epoch = w.s.epoch := rfl
@[simp] theorem W.updBlock_cycle (b : Nat) (f : Block → Block) : (w.updBlock b f).s.cycle = w.s.cycle := rfl
@[simp] theorem W.updBlock_issuer (b : Nat) (f : Block → Block) : (w.updBlock b f).s.issuer = w.s.issuer := rfl
@[simp] theorem W.updBlock_draws (b : Nat) (f : Block → Block) : (w.updBlock b f).s.draws = w.s.draws := rfl
@[simp] theorem W.updBlock_serial (b : Nat) (f : Block → Block) : (w.updBlock b f).s.serial = w.s.serial := rfl
@[simp] theorem W.updBlock_chips (b : Nat) (f : Block → Block) : (w.updBlock b f).s.chips = w.s.chips := rfl
@[simp] theorem W.updBlock_cores (b : Nat) (f : Block → Block) : (w.updBlock b f).s.cores = w.s.cores := rfl
@[simp] theorem W.updBlock_contexts (b : Nat) (f : Block → Block) : (w.updBlock b f).s.contexts = w.s.contexts := rfl
@[simp] theorem W.updBlock_groups (b : Nat) (f : Block → Block) : (w.updBlock b f).s.groups = w.s.groups := rfl
@[simp] theorem W.updBlock_clusters (b : Nat) (f : Block → Block) : (w.updBlock b f).s.clusters = w.s.clusters := rfl
@[simp] theorem W.updBlock_launches (b : Nat) (f : Block → Block) : (w.updBlock b f).s.launches = w.s.launches := rfl
@[simp] theorem W.updBlock_spillStacks (b : Nat) (f : Block → Block) : (w.updBlock b f).s.spillStacks = w.s.spillStacks := rfl
@[simp] theorem W.updBlock_copies (b : Nat) (f : Block → Block) : (w.updBlock b f).s.copies = w.s.copies := rfl
@[simp] theorem W.updBlock_units (b : Nat) (f : Block → Block) : (w.updBlock b f).s.units = w.s.units := rfl
@[simp] theorem W.updBlock_waiting (b : Nat) (f : Block → Block) : (w.updBlock b f).s.waiting = w.s.waiting := rfl
@[simp] theorem W.updBlock_horizon (b : Nat) (f : Block → Block) : (w.updBlock b f).s.horizon = w.s.horizon := rfl
@[simp] theorem W.updBlock_awaited (b : Nat) (f : Block → Block) : (w.updBlock b f).s.awaited = w.s.awaited := rfl
@[simp] theorem W.updBlock_directory (b : Nat) (f : Block → Block) : (w.updBlock b f).s.directory = w.s.directory := rfl
@[simp] theorem W.updBlock_poison (b : Nat) (f : Block → Block) : (w.updBlock b f).s.poison = w.s.poison := rfl
@[simp] theorem W.updBlock_windows (b : Nat) (f : Block → Block) : (w.updBlock b f).s.windows = w.s.windows := rfl
@[simp] theorem W.updBlock_tlb (b : Nat) (f : Block → Block) : (w.updBlock b f).s.tlb = w.s.tlb := rfl
@[simp] theorem W.updBlock_apertures (b : Nat) (f : Block → Block) : (w.updBlock b f).s.apertures = w.s.apertures := rfl
@[simp] theorem W.updBlock_walks (b : Nat) (f : Block → Block) : (w.updBlock b f).s.walks = w.s.walks := rfl
@[simp] theorem W.updBlock_owners (b : Nat) (f : Block → Block) : (w.updBlock b f).s.owners = w.s.owners := rfl
@[simp] theorem W.updBlock_packets (b : Nat) (f : Block → Block) : (w.updBlock b f).s.packets = w.s.packets := rfl
@[simp] theorem W.updBlock_messages (b : Nat) (f : Block → Block) : (w.updBlock b f).s.messages = w.s.messages := rfl
@[simp] theorem W.updBlock_links (b : Nat) (f : Block → Block) : (w.updBlock b f).s.links = w.s.links := rfl
@[simp] theorem W.updBlock_transports (b : Nat) (f : Block → Block) : (w.updBlock b f).s.transports = w.s.transports := rfl
@[simp] theorem W.updBlock_off (b : Nat) (f : Block → Block) : (w.updBlock b f).s.off = w.s.off := rfl
@[simp] theorem W.updBlock_fuses (b : Nat) (f : Block → Block) : (w.updBlock b f).s.fuses = w.s.fuses := rfl
@[simp] theorem W.updBlock_outputs (b : Nat) (f : Block → Block) : (w.updBlock b f).s.outputs = w.s.outputs := rfl
@[simp] theorem W.updBlock_missing (b : Nat) (f : Block → Block) : (w.updBlock b f).s.missing = w.s.missing := rfl

/-! ### `updCluster` -/

@[simp] theorem W.updCluster_mem (c : Nat) (f : Cluster → Cluster) : (w.updCluster c f).m = w.m := rfl
@[simp] theorem W.updCluster_agenda (c : Nat) (f : Cluster → Cluster) : (w.updCluster c f).s.agenda = w.s.agenda := rfl
@[simp] theorem W.updCluster_now (c : Nat) (f : Cluster → Cluster) : (w.updCluster c f).s.now = w.s.now := rfl
@[simp] theorem W.updCluster_epoch (c : Nat) (f : Cluster → Cluster) : (w.updCluster c f).s.epoch = w.s.epoch := rfl
@[simp] theorem W.updCluster_cycle (c : Nat) (f : Cluster → Cluster) : (w.updCluster c f).s.cycle = w.s.cycle := rfl
@[simp] theorem W.updCluster_issuer (c : Nat) (f : Cluster → Cluster) : (w.updCluster c f).s.issuer = w.s.issuer := rfl
@[simp] theorem W.updCluster_draws (c : Nat) (f : Cluster → Cluster) : (w.updCluster c f).s.draws = w.s.draws := rfl
@[simp] theorem W.updCluster_serial (c : Nat) (f : Cluster → Cluster) : (w.updCluster c f).s.serial = w.s.serial := rfl
@[simp] theorem W.updCluster_chips (c : Nat) (f : Cluster → Cluster) : (w.updCluster c f).s.chips = w.s.chips := rfl
@[simp] theorem W.updCluster_cores (c : Nat) (f : Cluster → Cluster) : (w.updCluster c f).s.cores = w.s.cores := rfl
@[simp] theorem W.updCluster_contexts (c : Nat) (f : Cluster → Cluster) : (w.updCluster c f).s.contexts = w.s.contexts := rfl
@[simp] theorem W.updCluster_groups (c : Nat) (f : Cluster → Cluster) : (w.updCluster c f).s.groups = w.s.groups := rfl
@[simp] theorem W.updCluster_blocks (c : Nat) (f : Cluster → Cluster) : (w.updCluster c f).s.blocks = w.s.blocks := rfl
@[simp] theorem W.updCluster_launches (c : Nat) (f : Cluster → Cluster) : (w.updCluster c f).s.launches = w.s.launches := rfl
@[simp] theorem W.updCluster_spillStacks (c : Nat) (f : Cluster → Cluster) : (w.updCluster c f).s.spillStacks = w.s.spillStacks := rfl
@[simp] theorem W.updCluster_copies (c : Nat) (f : Cluster → Cluster) : (w.updCluster c f).s.copies = w.s.copies := rfl
@[simp] theorem W.updCluster_units (c : Nat) (f : Cluster → Cluster) : (w.updCluster c f).s.units = w.s.units := rfl
@[simp] theorem W.updCluster_waiting (c : Nat) (f : Cluster → Cluster) : (w.updCluster c f).s.waiting = w.s.waiting := rfl
@[simp] theorem W.updCluster_horizon (c : Nat) (f : Cluster → Cluster) : (w.updCluster c f).s.horizon = w.s.horizon := rfl
@[simp] theorem W.updCluster_awaited (c : Nat) (f : Cluster → Cluster) : (w.updCluster c f).s.awaited = w.s.awaited := rfl
@[simp] theorem W.updCluster_directory (c : Nat) (f : Cluster → Cluster) : (w.updCluster c f).s.directory = w.s.directory := rfl
@[simp] theorem W.updCluster_poison (c : Nat) (f : Cluster → Cluster) : (w.updCluster c f).s.poison = w.s.poison := rfl
@[simp] theorem W.updCluster_windows (c : Nat) (f : Cluster → Cluster) : (w.updCluster c f).s.windows = w.s.windows := rfl
@[simp] theorem W.updCluster_tlb (c : Nat) (f : Cluster → Cluster) : (w.updCluster c f).s.tlb = w.s.tlb := rfl
@[simp] theorem W.updCluster_apertures (c : Nat) (f : Cluster → Cluster) : (w.updCluster c f).s.apertures = w.s.apertures := rfl
@[simp] theorem W.updCluster_walks (c : Nat) (f : Cluster → Cluster) : (w.updCluster c f).s.walks = w.s.walks := rfl
@[simp] theorem W.updCluster_owners (c : Nat) (f : Cluster → Cluster) : (w.updCluster c f).s.owners = w.s.owners := rfl
@[simp] theorem W.updCluster_packets (c : Nat) (f : Cluster → Cluster) : (w.updCluster c f).s.packets = w.s.packets := rfl
@[simp] theorem W.updCluster_messages (c : Nat) (f : Cluster → Cluster) : (w.updCluster c f).s.messages = w.s.messages := rfl
@[simp] theorem W.updCluster_links (c : Nat) (f : Cluster → Cluster) : (w.updCluster c f).s.links = w.s.links := rfl
@[simp] theorem W.updCluster_transports (c : Nat) (f : Cluster → Cluster) : (w.updCluster c f).s.transports = w.s.transports := rfl
@[simp] theorem W.updCluster_off (c : Nat) (f : Cluster → Cluster) : (w.updCluster c f).s.off = w.s.off := rfl
@[simp] theorem W.updCluster_fuses (c : Nat) (f : Cluster → Cluster) : (w.updCluster c f).s.fuses = w.s.fuses := rfl
@[simp] theorem W.updCluster_outputs (c : Nat) (f : Cluster → Cluster) : (w.updCluster c f).s.outputs = w.s.outputs := rfl
@[simp] theorem W.updCluster_missing (c : Nat) (f : Cluster → Cluster) : (w.updCluster c f).s.missing = w.s.missing := rfl

/-! ### `updLaunch` -/

@[simp] theorem W.updLaunch_mem (l : Nat) (f : Launch → Launch) : (w.updLaunch l f).m = w.m := rfl
@[simp] theorem W.updLaunch_agenda (l : Nat) (f : Launch → Launch) : (w.updLaunch l f).s.agenda = w.s.agenda := rfl
@[simp] theorem W.updLaunch_now (l : Nat) (f : Launch → Launch) : (w.updLaunch l f).s.now = w.s.now := rfl
@[simp] theorem W.updLaunch_epoch (l : Nat) (f : Launch → Launch) : (w.updLaunch l f).s.epoch = w.s.epoch := rfl
@[simp] theorem W.updLaunch_cycle (l : Nat) (f : Launch → Launch) : (w.updLaunch l f).s.cycle = w.s.cycle := rfl
@[simp] theorem W.updLaunch_issuer (l : Nat) (f : Launch → Launch) : (w.updLaunch l f).s.issuer = w.s.issuer := rfl
@[simp] theorem W.updLaunch_draws (l : Nat) (f : Launch → Launch) : (w.updLaunch l f).s.draws = w.s.draws := rfl
@[simp] theorem W.updLaunch_serial (l : Nat) (f : Launch → Launch) : (w.updLaunch l f).s.serial = w.s.serial := rfl
@[simp] theorem W.updLaunch_chips (l : Nat) (f : Launch → Launch) : (w.updLaunch l f).s.chips = w.s.chips := rfl
@[simp] theorem W.updLaunch_cores (l : Nat) (f : Launch → Launch) : (w.updLaunch l f).s.cores = w.s.cores := rfl
@[simp] theorem W.updLaunch_contexts (l : Nat) (f : Launch → Launch) : (w.updLaunch l f).s.contexts = w.s.contexts := rfl
@[simp] theorem W.updLaunch_groups (l : Nat) (f : Launch → Launch) : (w.updLaunch l f).s.groups = w.s.groups := rfl
@[simp] theorem W.updLaunch_blocks (l : Nat) (f : Launch → Launch) : (w.updLaunch l f).s.blocks = w.s.blocks := rfl
@[simp] theorem W.updLaunch_clusters (l : Nat) (f : Launch → Launch) : (w.updLaunch l f).s.clusters = w.s.clusters := rfl
@[simp] theorem W.updLaunch_spillStacks (l : Nat) (f : Launch → Launch) : (w.updLaunch l f).s.spillStacks = w.s.spillStacks := rfl
@[simp] theorem W.updLaunch_copies (l : Nat) (f : Launch → Launch) : (w.updLaunch l f).s.copies = w.s.copies := rfl
@[simp] theorem W.updLaunch_units (l : Nat) (f : Launch → Launch) : (w.updLaunch l f).s.units = w.s.units := rfl
@[simp] theorem W.updLaunch_waiting (l : Nat) (f : Launch → Launch) : (w.updLaunch l f).s.waiting = w.s.waiting := rfl
@[simp] theorem W.updLaunch_horizon (l : Nat) (f : Launch → Launch) : (w.updLaunch l f).s.horizon = w.s.horizon := rfl
@[simp] theorem W.updLaunch_awaited (l : Nat) (f : Launch → Launch) : (w.updLaunch l f).s.awaited = w.s.awaited := rfl
@[simp] theorem W.updLaunch_directory (l : Nat) (f : Launch → Launch) : (w.updLaunch l f).s.directory = w.s.directory := rfl
@[simp] theorem W.updLaunch_poison (l : Nat) (f : Launch → Launch) : (w.updLaunch l f).s.poison = w.s.poison := rfl
@[simp] theorem W.updLaunch_windows (l : Nat) (f : Launch → Launch) : (w.updLaunch l f).s.windows = w.s.windows := rfl
@[simp] theorem W.updLaunch_tlb (l : Nat) (f : Launch → Launch) : (w.updLaunch l f).s.tlb = w.s.tlb := rfl
@[simp] theorem W.updLaunch_apertures (l : Nat) (f : Launch → Launch) : (w.updLaunch l f).s.apertures = w.s.apertures := rfl
@[simp] theorem W.updLaunch_walks (l : Nat) (f : Launch → Launch) : (w.updLaunch l f).s.walks = w.s.walks := rfl
@[simp] theorem W.updLaunch_owners (l : Nat) (f : Launch → Launch) : (w.updLaunch l f).s.owners = w.s.owners := rfl
@[simp] theorem W.updLaunch_packets (l : Nat) (f : Launch → Launch) : (w.updLaunch l f).s.packets = w.s.packets := rfl
@[simp] theorem W.updLaunch_messages (l : Nat) (f : Launch → Launch) : (w.updLaunch l f).s.messages = w.s.messages := rfl
@[simp] theorem W.updLaunch_links (l : Nat) (f : Launch → Launch) : (w.updLaunch l f).s.links = w.s.links := rfl
@[simp] theorem W.updLaunch_transports (l : Nat) (f : Launch → Launch) : (w.updLaunch l f).s.transports = w.s.transports := rfl
@[simp] theorem W.updLaunch_off (l : Nat) (f : Launch → Launch) : (w.updLaunch l f).s.off = w.s.off := rfl
@[simp] theorem W.updLaunch_fuses (l : Nat) (f : Launch → Launch) : (w.updLaunch l f).s.fuses = w.s.fuses := rfl
@[simp] theorem W.updLaunch_outputs (l : Nat) (f : Launch → Launch) : (w.updLaunch l f).s.outputs = w.s.outputs := rfl
@[simp] theorem W.updLaunch_missing (l : Nat) (f : Launch → Launch) : (w.updLaunch l f).s.missing = w.s.missing := rfl

/-! ### `out` -/

@[simp] theorem W.out_mem (o : Output) : (w.out o).m = w.m := rfl
@[simp] theorem W.out_agenda (o : Output) : (w.out o).s.agenda = w.s.agenda := rfl
@[simp] theorem W.out_now (o : Output) : (w.out o).s.now = w.s.now := rfl
@[simp] theorem W.out_epoch (o : Output) : (w.out o).s.epoch = w.s.epoch := rfl
@[simp] theorem W.out_cycle (o : Output) : (w.out o).s.cycle = w.s.cycle := rfl
@[simp] theorem W.out_issuer (o : Output) : (w.out o).s.issuer = w.s.issuer := rfl
@[simp] theorem W.out_draws (o : Output) : (w.out o).s.draws = w.s.draws := rfl
@[simp] theorem W.out_serial (o : Output) : (w.out o).s.serial = w.s.serial := rfl
@[simp] theorem W.out_chips (o : Output) : (w.out o).s.chips = w.s.chips := rfl
@[simp] theorem W.out_cores (o : Output) : (w.out o).s.cores = w.s.cores := rfl
@[simp] theorem W.out_contexts (o : Output) : (w.out o).s.contexts = w.s.contexts := rfl
@[simp] theorem W.out_groups (o : Output) : (w.out o).s.groups = w.s.groups := rfl
@[simp] theorem W.out_blocks (o : Output) : (w.out o).s.blocks = w.s.blocks := rfl
@[simp] theorem W.out_clusters (o : Output) : (w.out o).s.clusters = w.s.clusters := rfl
@[simp] theorem W.out_launches (o : Output) : (w.out o).s.launches = w.s.launches := rfl
@[simp] theorem W.out_spillStacks (o : Output) : (w.out o).s.spillStacks = w.s.spillStacks := rfl
@[simp] theorem W.out_copies (o : Output) : (w.out o).s.copies = w.s.copies := rfl
@[simp] theorem W.out_units (o : Output) : (w.out o).s.units = w.s.units := rfl
@[simp] theorem W.out_waiting (o : Output) : (w.out o).s.waiting = w.s.waiting := rfl
@[simp] theorem W.out_horizon (o : Output) : (w.out o).s.horizon = w.s.horizon := rfl
@[simp] theorem W.out_awaited (o : Output) : (w.out o).s.awaited = w.s.awaited := rfl
@[simp] theorem W.out_directory (o : Output) : (w.out o).s.directory = w.s.directory := rfl
@[simp] theorem W.out_poison (o : Output) : (w.out o).s.poison = w.s.poison := rfl
@[simp] theorem W.out_windows (o : Output) : (w.out o).s.windows = w.s.windows := rfl
@[simp] theorem W.out_tlb (o : Output) : (w.out o).s.tlb = w.s.tlb := rfl
@[simp] theorem W.out_apertures (o : Output) : (w.out o).s.apertures = w.s.apertures := rfl
@[simp] theorem W.out_walks (o : Output) : (w.out o).s.walks = w.s.walks := rfl
@[simp] theorem W.out_owners (o : Output) : (w.out o).s.owners = w.s.owners := rfl
@[simp] theorem W.out_packets (o : Output) : (w.out o).s.packets = w.s.packets := rfl
@[simp] theorem W.out_messages (o : Output) : (w.out o).s.messages = w.s.messages := rfl
@[simp] theorem W.out_links (o : Output) : (w.out o).s.links = w.s.links := rfl
@[simp] theorem W.out_transports (o : Output) : (w.out o).s.transports = w.s.transports := rfl
@[simp] theorem W.out_off (o : Output) : (w.out o).s.off = w.s.off := rfl
@[simp] theorem W.out_fuses (o : Output) : (w.out o).s.fuses = w.s.fuses := rfl
@[simp] theorem W.out_missing (o : Output) : (w.out o).s.missing = w.s.missing := rfl

/-! ### `noFrame` -/

@[simp] theorem W.noFrame_mem : (w.noFrame).m = w.m := rfl
@[simp] theorem W.noFrame_agenda : (w.noFrame).s.agenda = w.s.agenda := rfl
@[simp] theorem W.noFrame_now : (w.noFrame).s.now = w.s.now := rfl
@[simp] theorem W.noFrame_epoch : (w.noFrame).s.epoch = w.s.epoch := rfl
@[simp] theorem W.noFrame_cycle : (w.noFrame).s.cycle = w.s.cycle := rfl
@[simp] theorem W.noFrame_issuer : (w.noFrame).s.issuer = w.s.issuer := rfl
@[simp] theorem W.noFrame_draws : (w.noFrame).s.draws = w.s.draws := rfl
@[simp] theorem W.noFrame_serial : (w.noFrame).s.serial = w.s.serial := rfl
@[simp] theorem W.noFrame_chips : (w.noFrame).s.chips = w.s.chips := rfl
@[simp] theorem W.noFrame_cores : (w.noFrame).s.cores = w.s.cores := rfl
@[simp] theorem W.noFrame_contexts : (w.noFrame).s.contexts = w.s.contexts := rfl
@[simp] theorem W.noFrame_groups : (w.noFrame).s.groups = w.s.groups := rfl
@[simp] theorem W.noFrame_blocks : (w.noFrame).s.blocks = w.s.blocks := rfl
@[simp] theorem W.noFrame_clusters : (w.noFrame).s.clusters = w.s.clusters := rfl
@[simp] theorem W.noFrame_launches : (w.noFrame).s.launches = w.s.launches := rfl
@[simp] theorem W.noFrame_spillStacks : (w.noFrame).s.spillStacks = w.s.spillStacks := rfl
@[simp] theorem W.noFrame_copies : (w.noFrame).s.copies = w.s.copies := rfl
@[simp] theorem W.noFrame_units : (w.noFrame).s.units = w.s.units := rfl
@[simp] theorem W.noFrame_waiting : (w.noFrame).s.waiting = w.s.waiting := rfl
@[simp] theorem W.noFrame_horizon : (w.noFrame).s.horizon = w.s.horizon := rfl
@[simp] theorem W.noFrame_awaited : (w.noFrame).s.awaited = w.s.awaited := rfl
@[simp] theorem W.noFrame_directory : (w.noFrame).s.directory = w.s.directory := rfl
@[simp] theorem W.noFrame_poison : (w.noFrame).s.poison = w.s.poison := rfl
@[simp] theorem W.noFrame_windows : (w.noFrame).s.windows = w.s.windows := rfl
@[simp] theorem W.noFrame_tlb : (w.noFrame).s.tlb = w.s.tlb := rfl
@[simp] theorem W.noFrame_apertures : (w.noFrame).s.apertures = w.s.apertures := rfl
@[simp] theorem W.noFrame_walks : (w.noFrame).s.walks = w.s.walks := rfl
@[simp] theorem W.noFrame_owners : (w.noFrame).s.owners = w.s.owners := rfl
@[simp] theorem W.noFrame_packets : (w.noFrame).s.packets = w.s.packets := rfl
@[simp] theorem W.noFrame_messages : (w.noFrame).s.messages = w.s.messages := rfl
@[simp] theorem W.noFrame_links : (w.noFrame).s.links = w.s.links := rfl
@[simp] theorem W.noFrame_transports : (w.noFrame).s.transports = w.s.transports := rfl
@[simp] theorem W.noFrame_off : (w.noFrame).s.off = w.s.off := rfl
@[simp] theorem W.noFrame_fuses : (w.noFrame).s.fuses = w.s.fuses := rfl
@[simp] theorem W.noFrame_outputs : (w.noFrame).s.outputs = w.s.outputs := rfl

/-! ### What the updates change -/

@[simp] theorem W.group_updGroup (r : GroupRef) (f : Group → Group) : (w.updGroup r f).group r = (w.group r).map f :=
  AList.get?_upd_self _ _ _
theorem W.group_updGroup_ne {q r : GroupRef} (f : Group → Group) (h : q ≠ r) : (w.updGroup r f).group q = w.group q :=
  AList.get?_upd_ne _ _ h
@[simp] theorem W.group_updCore (k : Nat × Nat) (f : Core → Core) (r : GroupRef) : (w.updCore k f).group r = w.group r := rfl
@[simp] theorem W.group_updChip (c : Nat) (f : Chip → Chip) (r : GroupRef) : (w.updChip c f).group r = w.group r := rfl
@[simp] theorem W.group_updBlock (b : Nat) (f : Block → Block) (r : GroupRef) : (w.updBlock b f).group r = w.group r := rfl
@[simp] theorem W.core_updCore (k : Nat × Nat) (f : Core → Core) : (w.updCore k f).core k = f (w.core k) :=
  AList.getD_put_self _ _ _ _
theorem W.core_updCore_ne {j k : Nat × Nat} (f : Core → Core) (h : j ≠ k) : (w.updCore k f).core j = w.core j :=
  AList.getD_put_ne _ _ _ h
@[simp] theorem W.core_updGroup (r : GroupRef) (f : Group → Group) (k : Nat × Nat) : (w.updGroup r f).core k = w.core k := rfl
@[simp] theorem W.chip_updChip (c : Nat) (f : Chip → Chip) : (w.updChip c f).chip c = f (w.chip c) :=
  AList.getD_put_self _ _ _ _
theorem W.chip_updChip_ne {b c : Nat} (f : Chip → Chip) (h : b ≠ c) : (w.updChip c f).chip b = w.chip b :=
  AList.getD_put_ne _ _ _ h
@[simp] theorem W.chip_updGroup (r : GroupRef) (f : Group → Group) (c : Nat) : (w.updGroup r f).chip c = w.chip c := rfl
@[simp] theorem W.chip_updCore (k : Nat × Nat) (f : Core → Core) (c : Nat) : (w.updCore k f).chip c = w.chip c := rfl
@[simp] theorem W.context_updContext (p q : Nat) (f : Context → Context) :
    (w.updContext p q f).context p q = f (w.context p q) := AList.getD_put_self _ _ _ _
@[simp] theorem W.block_updBlock (b : Nat) (f : Block → Block) : (w.updBlock b f).block b = (w.block b).map f :=
  AList.get?_upd_self _ _ _
@[simp] theorem W.block_updGroup (r : GroupRef) (f : Group → Group) (b : Nat) : (w.updGroup r f).block b = w.block b := rfl
@[simp] theorem W.cluster_updCluster (c : Nat) (f : Cluster → Cluster) : (w.updCluster c f).cluster c = (w.cluster c).map f :=
  AList.get?_upd_self _ _ _
@[simp] theorem W.launch_updLaunch (l : Nat) (f : Launch → Launch) : (w.updLaunch l f).launch l = (w.launch l).map f :=
  AList.get?_upd_self _ _ _
@[simp] theorem W.seat_updSeat (c : Nat) (f : Seat → Seat) : (w.updSeat c f).seat c = f (w.seat c) := by
  simp [W.updSeat, W.seat]
@[simp] theorem W.queue_updQueue (c q : Nat) (f : Queue → Queue) : (w.updQueue c q f).queue c q = f (w.queue c q) := by
  simp [W.updQueue, W.queue]
@[simp] theorem W.probe_updProbe (c x : Nat) (f : ProbeCtx → ProbeCtx) : (w.updProbe c x f).probe c x = f (w.probe c x) := by
  simp [W.updProbe, W.probe]
@[simp] theorem W.out_outputs (o : Output) : (w.out o).s.outputs = o :: w.s.outputs := rfl

@[simp] theorem W.group_putGroup (r : GroupRef) (g : Group) : (w.putGroup r g).group r = some g := AList.get?_put_self _ _ _
theorem W.group_putGroup_ne {q r : GroupRef} (g : Group) (h : q ≠ r) : (w.putGroup r g).group q = w.group q :=
  AList.get?_put_ne _ _ h
@[simp] theorem W.core_putGroup (r : GroupRef) (g : Group) (k : Nat × Nat) : (w.putGroup r g).core k = w.core k := rfl
@[simp] theorem W.chip_putGroup (r : GroupRef) (g : Group) (c : Nat) : (w.putGroup r g).chip c = w.chip c := rfl
@[simp] theorem W.block_putGroup (r : GroupRef) (g : Group) (b : Nat) : (w.putGroup r g).block b = w.block b := rfl

/-- A change of a group that is there puts the changed group in its place. -/
theorem W.updGroup_eq {w : W} {r : GroupRef} {g : Group} (h : w.group r = some g) (f : Group → Group) :
    w.updGroup r f = w.putGroup r (f g) := by
  simp only [W.updGroup, W.putGroup, AList.upd_eq_put h]

@[simp] theorem W.updGroup_putGroup (r : GroupRef) (g : Group) (f : Group → Group) :
    (w.putGroup r g).updGroup r f = w.putGroup r (f g) := by
  simp [W.updGroup, W.putGroup, AList.upd_eq_put (AList.get?_put_self _ _ _), AList.put_put]

@[simp] theorem W.putGroup_putGroup (r : GroupRef) (g h : Group) : (w.putGroup r g).putGroup r h = w.putGroup r h := by
  simp [W.putGroup, AList.put_put]

/-- Changes of a core and putting a group commute. -/
theorem W.updCore_putGroup (k : Nat × Nat) (c : Core → Core) (r : GroupRef) (g : Group) :
    (w.putGroup r g).updCore k c = (w.updCore k c).putGroup r g := rfl

@[simp] theorem W.updEntry_putGroup (r : GroupRef) (g : Group) (n : Nat) (f : Entry → Entry) :
    (w.putGroup r g).updEntry r n f = w.putGroup r (g.updEntry n f) := W.updGroup_putGroup ..

/-- Two changes of a group are one. -/
theorem W.updGroup_updGroup (r : GroupRef) (f g : Group → Group) :
    (w.updGroup r f).updGroup r g = w.updGroup r fun x => g (f x) := by
  simp [W.updGroup, AList.upd_upd]

/-- Two changes of a core are one. -/
theorem W.updCore_updCore (k : Nat × Nat) (f g : Core → Core) :
    (w.updCore k f).updCore k g = w.updCore k fun x => g (f x) := by
  simp [W.updCore, W.core, AList.put_put]

/-- Changes of a group and of a core commute. -/
theorem W.updCore_updGroup (k : Nat × Nat) (c : Core → Core) (r : GroupRef) (f : Group → Group) :
    (w.updCore k c).updGroup r f = (w.updGroup r f).updCore k c := rfl

@[simp] theorem Group.updEntry_entry (g : Group) (n : Nat) (f : Entry → Entry) :
    AList.get? (g.updEntry n f).entries n = (AList.get? g.entries n).map f := AList.get?_upd_self _ _ _
theorem Group.updEntry_entry_ne (g : Group) {n m : Nat} (f : Entry → Entry) (h : m ≠ n) :
    AList.get? (g.updEntry n f).entries m = AList.get? g.entries m := AList.get?_upd_ne _ _ h

end Sys2Proof.Machine
end

