-- ==== Sys2Proof/Laws/Issue.lean ====
section
/-! SUPPORT. What an attempt to issue does: the conditions under which the body runs, what an issue leaves behind, and what the
words on registers write. -/
namespace Sys2Proof.Machine
open Sys2Proof.Statement

theorem mem_upTo {n k : Nat} : k ∈ upTo n ↔ k < n := by
  induction n with
  | zero => simp [upTo]
  | succ n ih => simp [upTo, ih]; omega

/-! ## Whether the body runs -/

/-- Without a comparator that hits there is no hit. -/
theorem hits_eq_nil {s : State} {a : At} (h : s.memWf) (u : Unwatched s a) : (s.toW h).hits a = [] := by
  unfold W.hits
  rcases u with u | u
  · simp [u]
  · dsimp only
    split
    · rfl
    · apply List.filterMap_eq_nil_iff.2
      intro n _
      split
      · rename_i c hc
        have : AList.get? (AList.getD s.cores (coreKey a.r) {}).comparators n = some c := hc
        simp [u n c this]
      · rfl

theorem noteHits_nil (w : W) (a : At) : w.noteHits a [] = w := rfl

/-- Whether an attempt has its operands (09 R189). -/
def operandsReady (x : Issue) (a : At) (w : W) : Prop :=
  match a.e.refill with
  | some c => c ≤ w.s.cycle
  | none => ∀ n ∈ (x.chk a).use.vr, n ∈ a.g.buffer

/-- The group's operand buffer after the reads of an issue. -/
def W.readOperands (w : W) (x : Issue) (a : At) : W :=
  w.updGroup a.r fun g => { g with buffer := (x.chk a).use.vr.foldl (bufferRead g.opf) g.buffer }

/-- An attempt that nothing stands against runs the body. -/
theorem attempt_eq {x : Issue} {a : At} {w : W} (hh : w.hits a = []) (hf : firstFault x a = none)
    (ho : operandsReady x a w) :
    attempt x a w = match x.body ((w.readOperands x a).countIssue a) a with
      | .done w2 pc reused => w2.finish x a pc reused
      | .fault w2 f none => (w2.uncount a).raise a.r
          { code := f.code, detail := f.detail, tval := f.tval, tpc := a.e.pc, entry := a.ei }
      | .fault w2 f (some tpc) => w2.raise a.r
          { code := f.code, detail := f.detail, tval := f.tval, tpc := tpc, entry := a.ei }
      | .stall w2 leaf => (w2.uncount a).stalled a.r a.ei leaf := by
  have hw : (match a.e.refill with
      | some c => decide (w.s.cycle < c)
      | none => !(((x.chk a).use.vr.eraseDups).filter fun n => !a.g.buffer.contains n).isEmpty) = false := by
    unfold operandsReady at ho
    split <;> rename_i h <;> rw [h] at ho
    · simpa using ho
    · simp only [Bool.not_eq_false', List.isEmpty_iff, List.filter_eq_nil_iff]
      intro n hn
      simp [ho n (List.mem_eraseDups.1 hn)]
  unfold attempt
  simp only [hh, hf, List.find?_nil]
  rw [if_neg fun h => absurd (h.symm.trans hw) (by decide)]
  simp only [noteHits_nil]
  rfl

/-- The checks of a word pass where its registers are declared, its own checks pass, and the region has room. -/
theorem firstFault_eq_none {x : Issue} {a : At} (hr : rejectOf x.i = none) (hp : (x.chk a).priv = false)
    (hd : ∀ n ∈ (x.chk a).use.vr ++ (x.chk a).use.vw, n < a.g.vregs) (hg : (x.chk a).reg = false)
    (ht : (x.chk a).typ = false) (hm : (x.chk a).modeval = none)
    (hz : a.g.runCheck = true → hazardOf a.g (x.chk a).use = none) (hroom : HasRoom a (x.region a)) :
    firstFault x a = none := by
  have hd' : ((x.chk a).use.vr ++ (x.chk a).use.vw).any (fun n => decide (a.g.vregs ≤ n)) = false := by
    rw [List.any_eq_false]
    intro n hn
    have := hd n hn
    simp; omega
  have hz' : (if a.g.runCheck then hazardOf a.g (x.chk a).use else none) = none := by
    split <;> rename_i h
    · exact hz h
    · rfl
  simp only [firstFault, hr, hp, hd', hg, ht, hm, hz']
  simp only [Option.isSome_none, Bool.false_or, Bool.false_eq_true, if_false]
  split
  · rfl
  · rename_i rg hrg
    rw [hroom rg hrg]; rfl

/-! ## What an issue leaves behind -/

/-- A group without a late fault after a park at a marker (03 R55). -/
def parkedAs (w : W) (r : GroupRef) (g : Group) : Group :=
  if g.outstanding then { g with parked := true }
  else { g with
    parked := false
    unmarked := ([], [])
    runCheck := bitOf (w.probe r.chip g.ctx).cfg.toNat 2
    scalarMark := (match w.block g.block with
      | some b => b.scalars.length
      | none => 0)
    late := none }

/-- The park at a marker of a group without a late fault. -/
theorem park_eq {w : W} {r : GroupRef} {g : Group} (hg : w.group r = some g) (hl : g.late = none) :
    w.park r = w.putGroup r (parkedAs w r g) := by
  unfold W.park parkedAs
  simp only [hg]
  split
  · rw [W.updGroup_eq hg]
  · unfold W.marker
    simp only [hg, hl]
    exact W.updGroup_eq hg _

/-- The group after an issue, its park apart (03 R55; 08 R162). -/
def issuedAs (x : Issue) (a : At) (pc : Option DWord) (g : Group) : Group :=
  { (g.updEntry a.ei fun e => { e with
      pc := pc.getD e.pc, wait := none, stall := none, linkWait := false, refill := none }) with
    lastEntry := a.ei
    unmarked := if isVariable x.i then (g.unmarked.1 ++ (x.chk a).use.vw, g.unmarked.2 ++ (x.chk a).use.sw) else g.unmarked
    region := g.region.map fun rg => rg.charge (x.region a) }

/-- The core's account of an issue. -/
def W.account (w : W) (a : At) (reused : Bool) : W :=
  w.updCore (coreKey a.r) fun c => { c with
    lastSlot := AList.put c.lastSlot (a.r.slot % 4) a.r.slot
    used := AList.put c.used (a.r.slot % 4) (if reused then .reused else .executed)
    charged := AList.put c.charged (a.r.slot % 4) (some ⟨a.r, a.ei⟩, if reused then .reused else .executed)
    issuedBy := AList.put c.issuedBy (a.r.slot % 4) (a.g.ctx, a.g.block, a.g.gid) }

/-- What an issue leaves behind. -/
theorem finish_eq {x : Issue} {a : At} {w : W} {pc : Option DWord} {reused : Bool} {g : Group} (hg : w.group a.r = some g)
    (hl : x.k = true → g.late = none) :
    w.finish x a pc reused = (w.account a reused).putGroup a.r
      (if x.k then parkedAs w a.r (issuedAs x a pc g) else issuedAs x a pc g) := by
  have h1 : ∀ w1 : W, w1 = (w.account a reused).putGroup a.r (issuedAs x a pc g) →
      (if x.k then w1.park a.r else w1) = (w.account a reused).putGroup a.r
        (if x.k then parkedAs w a.r (issuedAs x a pc g) else issuedAs x a pc g) := by
    intro w1 e
    subst e
    split
    · rename_i hk
      rw [park_eq (W.group_putGroup _ _ _) (show (issuedAs x a pc g).late = none from hl hk), W.putGroup_putGroup]
      rfl
    · rfl
  refine h1 _ ?_
  rw [W.updGroup_eq hg]
  rfl

/-! ## Words on registers -/

/-- A machine with other core tables. -/
def W.withCores (w : W) (cs : AList (Nat × Nat) Core) : W := { w with s := { w.s with cores := cs } }
/-- A group with other registers. -/
def Group.withRegs (g : Group) (v : AList Nat VMap) (s : AList Nat DWord) (p : AList Nat LaneMask) : Group :=
  { g with v := v, s := s, p := p }

@[simp] theorem W.withCores_group (w : W) (cs : AList (Nat × Nat) Core) (r : GroupRef) :
    (w.withCores cs).group r = w.group r := rfl
@[simp] theorem W.withCores_m (w : W) (cs : AList (Nat × Nat) Core) : (w.withCores cs).m = w.m := rfl
theorem W.withCores_self (w : W) : w.withCores w.s.cores = w := rfl
theorem W.updCore_withCores (w : W) (k : Nat × Nat) (c : Core → Core) :
    w.updCore k c = w.withCores (AList.put w.s.cores k (c (w.core k))) := rfl

/-- What a step leaves of a machine in which only one group and the tables of cores have changed. -/
def OnlyGroup (w : W) (r : GroupRef) (g : Group) (w' : W) : Prop := ∃ cs, w' = (w.withCores cs).putGroup r g

theorem OnlyGroup.group {w w' : W} {r : GroupRef} {g : Group} (h : OnlyGroup w r g w') : w'.group r = some g := by
  obtain ⟨cs, rfl⟩ := h; simp

theorem OnlyGroup.refl {w : W} {r : GroupRef} {g : Group} (h : w.group r = some g) : OnlyGroup w r g w := by
  refine ⟨w.s.cores, ?_⟩
  have := W.updGroup_eq h fun g => g
  have h2 : w.updGroup r (fun g => g) = w := by
    have : ∀ t : AList GroupRef Group, AList.upd t r (fun g => g) = t := by
      intro t
      induction t with
      | nil => rfl
      | cons q t ih => obtain ⟨k, v⟩ := q; by_cases h : k = r <;> simp [AList.upd, h, ih]
    simp [W.updGroup, this]
  rw [W.withCores_self, ← this, h2]

theorem OnlyGroup.trans {w w1 w2 : W} {r : GroupRef} {g h : Group} (a : OnlyGroup w r g w1) (b : OnlyGroup w1 r h w2) :
    OnlyGroup w r h w2 := by
  obtain ⟨cs, rfl⟩ := a
  obtain ⟨ds, rfl⟩ := b
  exact ⟨ds, by
    show ((w.withCores ds).putGroup r g).putGroup r h = _
    rw [W.putGroup_putGroup]⟩

theorem OnlyGroup.put {w w1 : W} {r : GroupRef} {g : Group} (a : OnlyGroup w r g w1) (f : Group → Group) :
    OnlyGroup w r (f g) (w1.updGroup r f) := by
  obtain ⟨cs, rfl⟩ := a
  exact ⟨cs, by rw [W.updGroup_putGroup]⟩

theorem OnlyGroup.core {w w1 : W} {r : GroupRef} {g : Group} (a : OnlyGroup w r g w1) (k : Nat × Nat) (c : Core → Core) :
    OnlyGroup w r g (w1.updCore k c) := by
  obtain ⟨cs, rfl⟩ := a
  exact ⟨_, rfl⟩

/-- The group g' holds what some register writes leave of the registers of g, and is g apart from them. -/
def Wrote (g : Group) (ws : List RegWrite) (g' : Group) : Prop :=
  (∃ v s p, g' = g.withRegs v s p) ∧ (∀ n, g'.vget n = lastV ws n (g.vget n)) ∧
    (∀ n, g'.sget n = lastS ws n (g.sget n)) ∧ ∀ n, g'.pget n = lastP ws n (g.pget n)

/-- A value's mapping holds the value (09 R191). -/
@[simp] theorem mapTo_bits (c : Core) (now : Nat × Nat) (value : VReg) : (c.mapTo now value).1.bits = value := by
  unfold Core.mapTo Core.newUnnamed
  split
  · rfl
  · split
    · split <;> rfl
    · split <;> rfl

/-- One register write. -/
theorem writeReg_only {w : W} {r : GroupRef} {g : Group} (hg : w.group r = some g) (x : RegWrite) :
    ∃ g', OnlyGroup w r g' (w.writeReg r x) ∧ Wrote g [x] g' := by
  cases x with
  | v n value =>
    simp only [W.writeReg, W.setV, hg]
    refine ⟨_, OnlyGroup.put (OnlyGroup.core (OnlyGroup.refl hg) _ _) _, ⟨_, g.s, g.p, rfl⟩, ?_, fun _ => rfl, fun _ => rfl⟩
    intro m
    by_cases h : n = m
    · subst h; simp [Group.vget, lastV]
    · simp [Group.vget, lastV, h, AList.get?_put_ne _ _ (fun e : m = n => h e.symm)]
  | s n value =>
    refine ⟨_, OnlyGroup.put (OnlyGroup.refl hg) _, ⟨g.v, _, g.p, rfl⟩, fun _ => rfl, ?_, fun _ => rfl⟩
    intro m
    by_cases h : n = m
    · subst h; simp [Group.sget, lastS]
    · simp [Group.sget, lastS, h, AList.getD, AList.get?_put_ne _ _ (fun e : m = n => h e.symm)]
  | p n value =>
    refine ⟨_, OnlyGroup.put (OnlyGroup.refl hg) _, ⟨g.v, g.s, _, rfl⟩, fun _ => rfl, fun _ => rfl, ?_⟩
    intro m
    by_cases h : n = m
    · subst h; simp [Group.pget, lastP]
    · simp [Group.pget, lastP, h, AList.getD, AList.get?_put_ne _ _ (fun e : m = n => h e.symm)]

/-- Register writes in order. -/
theorem writeRegs_only (ws : List RegWrite) : ∀ {w : W} {r : GroupRef} {g : Group}, w.group r = some g →
    ∃ g', OnlyGroup w r g' (w.each ws fun w x => w.writeReg r x) ∧ Wrote g ws g' := by
  induction ws with
  | nil => intro w r g hg; exact ⟨g, OnlyGroup.refl hg, ⟨g.v, g.s, g.p, rfl⟩, fun _ => rfl, fun _ => rfl, fun _ => rfl⟩
  | cons x ws ih =>
    intro w r g hg
    obtain ⟨g1, o1, ⟨v1, s1, p1, e1⟩, hv1, hs1, hp1⟩ := writeReg_only hg x
    obtain ⟨g2, o2, ⟨v2, s2, p2, e2⟩, hv2, hs2, hp2⟩ := ih o1.group
    refine ⟨g2, o1.trans o2, ⟨v2, s2, p2, by rw [e2, e1]; rfl⟩, fun n => ?_, fun n => ?_, fun n => ?_⟩
    · rw [hv2, hv1]; rfl
    · rw [hs2, hs1]; rfl
    · rw [hp2, hp1]; rfl

/-- The reuse table's lookup changes a core's table at most. -/
theorem reuseLookup_only {w : W} {r : GroupRef} {g : Group} (hg : w.group r = some g) (k : Nat × Nat) (ctx : Nat)
    (key : List Nat) : OnlyGroup w r g (w.reuseLookup k ctx key).2 := by
  unfold W.reuseLookup
  split
  · exact OnlyGroup.refl hg
  · dsimp only
    exact (OnlyGroup.refl hg).core _ _

theorem OnlyGroup.reuseInsert {w w1 : W} {r : GroupRef} {g : Group} (o : OnlyGroup w r g w1) (k : Nat × Nat)
    (e : ReuseEntry) : OnlyGroup w r g (w1.reuseInsert k e) := o.core _ _

/-- A record in the reuse table changes a core's table at most. -/
theorem OnlyGroup.reuseRecord {w w1 : W} {r : GroupRef} {g : Group} (o : OnlyGroup w r g w1) (key : List Nat × List VReg)
    (ws : List RegWrite) (fl : Flags) (lines : List Nat) : OnlyGroup w r g (w1.reuseRecord r key ws fl lines) := by
  unfold W.reuseRecord
  rw [o.group]
  dsimp only
  split
  · exact o.reuseInsert _ _
  · exact o

/-- A word of registers that is not variable: the body writes the results and the flags, and records them in the reuse table
and the region's tags. -/
theorem regBody_done {x : RegOp} {w : W} {a : At} {g : Group} (hx : x.late = false) (hg : w.group a.r = some g) :
    ∃ w' g' u hit, regBody x w a = .done w' (some a.next) hit ∧ OnlyGroup w a.r g' w' ∧
      Wrote { g with region := u, fflags := g.fflags ||| (x.result a).flags } (x.result a).writes g' := by
  unfold regBody
  simp only [hx, Bool.false_eq_true, if_false]
  generalize x.keyAt a = key
  have h1 : ∃ hit w1, w.reuseTry a key = (hit, w1) ∧ OnlyGroup w a.r g w1 := by
    cases key with
    | none => exact ⟨_, _, rfl, OnlyGroup.refl hg⟩
    | some k => exact ⟨_, _, rfl, reuseLookup_only hg _ _ _⟩
  obtain ⟨hit, w1, e1, o1⟩ := h1
  simp only [e1]
  let tags := fun rg : Region => (rg.addFragile (rg.refs (x.frag a))).tagWrites (x.chk a).use.vw (x.written a) (x.tagging a)
  have o2 := o1.put fun g => { g with region := g.region.map tags }
  obtain ⟨g3, o3, ⟨v, s, p, e3⟩, hv, hs, hp⟩ := writeRegs_only (x.result a).writes o2.group
  have o4 := (o2.trans o3).put fun g => { g with fflags := g.fflags ||| (x.result a).flags }
  refine ⟨_, { g3 with fflags := g3.fflags ||| (x.result a).flags }, g.region.map tags, hit.isSome, rfl, ?_, ⟨v, s, p, ?_⟩, hv, hs, hp⟩
  · cases key with
    | none => exact o4
    | some k =>
      cases hit with
      | some _ => exact o4
      | none => exact o4.reuseRecord _ _ _ _
  · rw [e3]; rfl

/-! ## The whole word -/

/-- What `issuing` says of a fragment. -/
theorem issuing_eq {s : State} {a : At} (h : issuing s = some a) :
    AList.get? s.groups a.r = some a.g ∧ AList.get? a.g.entries a.ei = some a.e := by
  unfold issuing at h
  split at h
  · cases h
  · split at h
    · cases h
    · rename_i g hg
      split at h
      · cases h
      · rename_i e he
        cases h
        exact ⟨hg, he⟩

/-- The issuing group as the body of a word finds it: operands read, the issue counted (03 R78; 09 R189). -/
def startedAs (x : Issue) (a : At) : Group :=
  { (a.g.updEntry a.ei fun e => { e with pending := e.pending.map PendingRestore.counted, unchecked := false }) with
    buffer := (x.chk a).use.vr.foldl (bufferRead a.g.opf) a.g.buffer }

/-- The issuing group after the word. -/
def endedAs (x : Issue) (a : At) (pc : Option DWord) (w : W) (g : Group) : Group :=
  if x.k then parkedAs w a.r (issuedAs x a pc g) else issuedAs x a pc g

theorem started_eq {s : State} {a : At} (x : Issue) (h : s.memWf) (hi : issuing s = some a) :
    ((s.toW h).readOperands x a).countIssue a = (s.toW h).putGroup a.r (startedAs x a) := by
  unfold W.readOperands W.countIssue
  rw [W.updGroup_eq (show (s.toW h).group a.r = some a.g from (issuing_eq hi).1), W.updEntry_putGroup]
  rfl

/-- A word whose checks pass and whose body is done answers a next state: the body's, accounted for, with the issuing group
as an issue leaves it. -/
theorem issue_done {x : Issue} {s : State} {a : At} (f : Here s a) (hf : firstFault x a = none)
    (ho : AtHand s a (x.chk a).use.vr) {w2 : W} {pc : Option DWord} {reused : Bool} {g2 : Group}
    (hb : x.body ((s.toW f.wf).putGroup a.r (startedAs x a)) a = .done w2 pc reused) (hg : w2.group a.r = some g2)
    (hl : x.k = true → g2.late = none) (hm : w2.s.missing = false) :
    issue x s = .next ((w2.account a reused).putGroup a.r (endedAs x a pc w2 g2)).toState := by
  unfold issue
  simp only [f.here]
  have e : attempt x a (s.toW f.wf) = (w2.account a reused).putGroup a.r (endedAs x a pc w2 g2) := by
    rw [attempt_eq (hits_eq_nil f.wf f.unwatched) hf ho, started_eq x f.wf f.here, hb]
    exact finish_eq hg hl
  rw [lift_next_of _ s f.wf (by rw [e]; exact hm), e]

theorem endedAs_entries (x : Issue) (a : At) (pc : Option DWord) (w : W) (g : Group) :
    (endedAs x a pc w g).entries = (issuedAs x a pc g).entries := by
  unfold endedAs parkedAs; split
  · split <;> rfl
  · rfl
theorem endedAs_specials (x : Issue) (a : At) (pc : Option DWord) (w : W) (g : Group) :
    specials (endedAs x a pc w g) = specials g := by
  unfold endedAs parkedAs; split
  · split <;> rfl
  · rfl
theorem endedAs_traps (x : Issue) (a : At) (pc : Option DWord) (w : W) (g : Group) :
    traps (endedAs x a pc w g) = traps g := by
  unfold endedAs parkedAs; split
  · split <;> rfl
  · rfl
theorem endedAs_identity (x : Issue) (a : At) (pc : Option DWord) (w : W) (g : Group) :
    identity (endedAs x a pc w g) = identity g := by
  unfold endedAs parkedAs; split
  · split <;> rfl
  · rfl
theorem endedAs_vget (x : Issue) (a : At) (pc : Option DWord) (w : W) (g : Group) (n : Nat) :
    (endedAs x a pc w g).vget n = g.vget n := by
  unfold endedAs parkedAs; split
  · split <;> rfl
  · rfl
theorem endedAs_sget (x : Issue) (a : At) (pc : Option DWord) (w : W) (g : Group) (n : Nat) :
    (endedAs x a pc w g).sget n = g.sget n := by
  unfold endedAs parkedAs; split
  · split <;> rfl
  · rfl
theorem endedAs_pget (x : Issue) (a : At) (pc : Option DWord) (w : W) (g : Group) (n : Nat) :
    (endedAs x a pc w g).pget n = g.pget n := by
  unfold endedAs parkedAs; split
  · split <;> rfl
  · rfl
@[simp] theorem endedAs_fflags (x : Issue) (a : At) (pc : Option DWord) (w : W) (g : Group) :
    (endedAs x a pc w g).fflags = g.fflags := by
  unfold endedAs parkedAs; split
  · split <;> rfl
  · rfl
@[simp] theorem endedAs_ops (x : Issue) (a : At) (pc : Option DWord) (w : W) (g : Group) :
    (endedAs x a pc w g).ops = g.ops := by
  unfold endedAs parkedAs; split
  · split <;> rfl
  · rfl

/-- The group and the fragment that a word leaves, where its body has left the group's entries, special and trap registers
and identity as it found them. -/
theorem kept_of {x : Issue} {s : State} {a : At} (hi : issuing s = some a) {t : State} {w2 : W} {pc : Option DWord} {g2 : Group}
    (ht : AList.get? t.groups a.r = some (endedAs x a pc w2 g2)) (he : g2.entries = (startedAs x a).entries)
    (hs : specials g2 = specials a.g) (hp : traps g2 = traps a.g) (hd : identity g2 = identity a.g) :
    ∃ e, Kept t a (endedAs x a pc w2 g2) e ∧ e.pc = pc.getD a.e.pc := by
  have he0 := (issuing_eq hi).2
  have h1 : AList.get? (startedAs x a).entries a.ei =
      some { a.e with pending := a.e.pending.map PendingRestore.counted, unchecked := false } := by
    show AList.get? (a.g.updEntry a.ei _).entries a.ei = _
    rw [Group.updEntry_entry, he0]; rfl
  refine ⟨{ a.e with
    pending := a.e.pending.map PendingRestore.counted, unchecked := false
    pc := pc.getD a.e.pc, wait := none, stall := none, linkWait := false, refill := none },
    ⟨ht, ?_, rfl, rfl, rfl, rfl, ?_, (endedAs_specials ..).trans hs,
      (endedAs_traps ..).trans hp, (endedAs_identity ..).trans hd⟩, rfl⟩
  · rw [endedAs_entries]
    show AList.get? (g2.updEntry a.ei _).entries a.ei = _
    rw [Group.updEntry_entry, he, h1]; rfl
  · intro j hj
    rw [endedAs_entries]
    show AList.get? (g2.updEntry a.ei _).entries j = _
    rw [Group.updEntry_entry_ne _ _ hj, he]
    exact Group.updEntry_entry_ne _ _ hj

theorem W.putGroup_s (w : W) (r : GroupRef) (g : Group) : (w.putGroup r g).s = { w.s with groups := AList.put w.s.groups r g } := rfl
theorem W.withCores_s (w : W) (cs : AList (Nat × Nat) Core) : (w.withCores cs).s = { w.s with cores := cs } := rfl
theorem W.putGroup_m (w : W) (r : GroupRef) (g : Group) : (w.putGroup r g).m = w.m := rfl
theorem W.account_m (w : W) (a : At) (b : Bool) : (w.account a b).m = w.m := rfl
theorem W.account_s (w : W) (a : At) (b : Bool) : ∃ cs, (w.account a b).s = { w.s with cores := cs } := ⟨_, rfl⟩

/-- A machine in which only the issuing group and the cores' tables have changed. -/
theorem alone_of {s : State} {a : At} (h : s.memWf) {g0 g1 g2 : Group} {w2 : W} {reused : Bool}
    (o : OnlyGroup ((s.toW h).putGroup a.r g0) a.r g1 w2) :
    Alone s ((w2.account a reused).putGroup a.r g2).toState a := by
  obtain ⟨cs, rfl⟩ := o
  have hm : ((((((s.toW h).putGroup a.r g0).withCores cs).putGroup a.r g1).account a reused).putGroup a.r g2).toState.mem = s.mem := by
    simp only [W.toState_mem, W.putGroup_m, W.account_m, W.withCores_m, State.toW_m]
  refine ⟨fun _ => by rw [hm], fun r hr => ?_, ?_⟩
  · show AList.get? (AList.put (AList.put (AList.put s.groups a.r g0) a.r g1) a.r g2) r = _
    simp [AList.put_put, AList.get?_put_ne _ _ hr]
  · simp only [W.toState_toSys, W.putGroup_s]
    obtain ⟨ds, e⟩ := W.account_s ((((s.toW h).putGroup a.r g0).withCores cs).putGroup a.r g1) a reused
    rw [e]
    simp only [W.putGroup_s, W.withCores_s, State.toW_s]
theorem OnlyGroup.missing {w w' : W} {r : GroupRef} {g : Group} (o : OnlyGroup w r g w') : w'.s.missing = w.s.missing := by
  obtain ⟨cs, rfl⟩ := o; rfl

/-- A word of registers that is variable: the body queues the results as the group's youngest operation. -/
theorem regBody_late {x : RegOp} {w : W} {a : At} {g : Group} (hx : x.late = true) (hg : w.group a.r = some g) :
    ∃ w' hit u o, regBody x w a = .done w' (some a.next) hit ∧ o.id = g.nextOp ∧ o.kind = .value (x.result a).writes ∧
      o.flags = (x.result a).flags ∧ o.isV = true ∧
      OnlyGroup w a.r { g with region := u, ops := g.ops ++ [o], nextOp := g.nextOp + 1 } w' := by
  unfold regBody
  simp only [hx, if_true]
  generalize x.keyAt a = key
  have h1 : ∃ hit w1, w.reuseTry a key = (hit, w1) ∧ OnlyGroup w a.r g w1 := by
    cases key with
    | none => exact ⟨_, _, rfl, OnlyGroup.refl hg⟩
    | some k => exact ⟨_, _, rfl, reuseLookup_only hg _ _ _⟩
  obtain ⟨hit, w1, e1, o1⟩ := h1
  simp only [e1]
  let tags := fun rg : Region => (rg.addFragile (rg.refs (x.frag a))).tagWrites (x.chk a).use.vw (x.written a) (x.tagging a)
  have o2 := o1.put fun g => { g with region := g.region.map tags }
  exact ⟨_, hit.isSome, g.region.map tags,
    { id := g.nextOp, kind := .value (x.result a).writes, flags := (x.result a).flags, isV := true, issued := w1.s.now
      key := if hit.isSome then none else key, acquire := false
      place := ({ g with region := g.region.map tags } : Group).regionPlace }, rfl, rfl, rfl, rfl, rfl, o2.put _⟩

/-- Everything a word of registers does whose results are variable in latency: it answers a next state in which its result
waits as the group's youngest operation, and nothing else has changed. -/
theorem issueReg_late {x : RegOp} {s : State} {a : At} (f : Free s a x.i x.k (x.chk a).use) (hx : x.late = true)
    (hp : (x.chk a).priv = false) (hg : (x.chk a).reg = false) (ht : (x.chk a).typ = false)
    (hm : (x.chk a).modeval = none) (hroom : HasRoom a (writing (x.written a) (x.chk a).use.vw)) :
    ∃ t g e o, issueReg x s = .next t ∧ Kept t a g e ∧ e.pc = a.e.pc + 4 ∧ Alone s t a ∧ RegsBut a g [] [] [] ∧
      g.fflags = a.g.fflags ∧ g.ops = a.g.ops ++ [o] ∧ o.id = a.g.nextOp ∧ o.isV = true ∧
      o.kind = .value (x.result a).writes ∧ o.flags = (x.result a).flags := by
  let i := x.word
  have hf : firstFault i a = none := firstFault_eq_none f.formed hp f.declared hg ht hm f.calm hroom
  obtain ⟨w2, hit, u, op, hb, h1, h2, h3, h4, o⟩ :=
    regBody_late (x := x) (w := (s.toW f.wf).putGroup a.r (startedAs i a)) (a := a) hx (W.group_putGroup _ _ _)
  have hn := issue_done (x := i) f.toHere hf f.atHand hb o.group f.early (o.missing.trans f.whole)
  let g2 : Group := { startedAs i a with
    region := u, ops := (startedAs i a).ops ++ [op], nextOp := (startedAs i a).nextOp + 1 }
  obtain ⟨e, hk, hpc⟩ := kept_of (x := i) (t := ((w2.account a hit).putGroup a.r (endedAs i a (some a.next) w2 g2)).toState)
    (pc := some a.next) (w2 := w2) (g2 := g2) f.here (AList.get?_put_self _ _ _) rfl rfl rfl rfl
  refine ⟨_, _, e, op, hn, hk, hpc, alone_of f.wf o, ⟨fun n _ => ?_, fun n _ => ?_, fun n _ => ?_⟩, ?_, ?_, h1, h4, h2, h3⟩
  · rw [endedAs_vget]; rfl
  · rw [endedAs_sget]; rfl
  · rw [endedAs_pget]; rfl
  · rw [endedAs_fflags]; rfl
  · rw [endedAs_ops]; rfl

/-- Everything a word of registers does whose results are fixed in latency: it answers a next state in which the registers
hold its writes, its flags are set, and nothing else has changed. -/
theorem issueReg_next {x : RegOp} {s : State} {a : At} (f : Free s a x.i x.k (x.chk a).use) (hx : x.late = false)
    (hp : (x.chk a).priv = false) (hg : (x.chk a).reg = false) (ht : (x.chk a).typ = false)
    (hm : (x.chk a).modeval = none) (hroom : HasRoom a (writing (x.written a) (x.chk a).use.vw)) :
    ∃ t g e, issueReg x s = .next t ∧ Kept t a g e ∧ e.pc = a.e.pc + 4 ∧ Alone s t a ∧
      g.fflags = a.g.fflags ||| (x.result a).flags ∧ g.ops = a.g.ops ∧
      (∀ n, g.vget n = lastV (x.result a).writes n (a.g.vget n)) ∧
      (∀ n, g.sget n = lastS (x.result a).writes n (a.g.sget n)) ∧
      ∀ n, g.pget n = lastP (x.result a).writes n (a.g.pget n) := by
  let i := x.word
  have hf : firstFault i a = none := firstFault_eq_none f.formed hp f.declared hg ht hm f.calm hroom
  obtain ⟨w2, g2, u, hit, hb, o, ⟨v, sc, p, e2⟩, hv, hs, hpr⟩ :=
    regBody_done (x := x) (w := (s.toW f.wf).putGroup a.r (startedAs i a)) (a := a) hx (W.group_putGroup _ _ _)
  have hgo := o.group
  have hlate : i.k = true → g2.late = none := by intro hk; rw [e2]; exact f.early hk
  have hn := issue_done (x := i) f.toHere hf f.atHand hb hgo hlate (o.missing.trans f.whole)
  obtain ⟨e, hk, hpc⟩ := kept_of (x := i) (t := ((w2.account a hit).putGroup a.r (endedAs i a (some a.next) w2 g2)).toState)
    (pc := some a.next) (w2 := w2) (g2 := g2) f.here (AList.get?_put_self _ _ _) (by rw [e2]; rfl) (by rw [e2]; rfl)
    (by rw [e2]; rfl) (by rw [e2]; rfl)
  refine ⟨_, _, e, hn, hk, hpc, alone_of f.wf o, ?_, ?_, fun n => ?_, fun n => ?_, fun n => ?_⟩
  · rw [endedAs_fflags, e2]; rfl
  · rw [endedAs_ops, e2]; rfl
  · rw [endedAs_vget, hv]; rfl
  · rw [endedAs_sget, hs]; rfl
  · rw [endedAs_pget, hpr]; rfl

end Sys2Proof.Machine
end

