-- ==== Sys2Proof/Laws/Lanes.lean ====
section
/-! SUPPORT. The laws of lanes and masks: what a lane or a bit of a register built lane by lane reads. -/
namespace Sys2Proof

theorem digits32_lt (n : Nat) (f : Nat → Word) : digits32 n f < 2 ^ (32 * n) := by
  induction n with
  | zero => simp [digits32]
  | succ n ih =>
    have h := (f n).isLt
    have e : 2 ^ (32 * (n + 1)) = 2 ^ 32 * 2 ^ (32 * n) := by rw [← Nat.pow_add]; congr 1; omega
    have : (f n).toNat * 2 ^ (32 * n) ≤ (2 ^ 32 - 1) * 2 ^ (32 * n) := Nat.mul_le_mul_right _ (by omega)
    simp only [digits32]
    rw [e]
    generalize 2 ^ (32 * n) = y at *
    omega

theorem digits32_div (n : Nat) (f : Nat → Word) (l : Nat) (h : l < n) :
    digits32 n f / 2 ^ (32 * l) % 2 ^ 32 = (f l).toNat := by
  induction n with
  | zero => omega
  | succ n ih =>
    simp only [digits32]
    by_cases hl : l = n
    · subst hl
      rw [Nat.add_mul_div_right _ _ (Nat.two_pow_pos _), Nat.div_eq_of_lt (digits32_lt l f), Nat.zero_add,
        Nat.mod_eq_of_lt (f l).isLt]
    · have hlt : l < n := by omega
      have e : 2 ^ (32 * n) = 2 ^ (32 * (n - l - 1)) * 2 ^ 32 * 2 ^ (32 * l) := by
        rw [← Nat.pow_add, ← Nat.pow_add]; congr 1; omega
      rw [e, ← Nat.mul_assoc, ← Nat.mul_assoc, Nat.add_mul_div_right _ _ (Nat.two_pow_pos _), Nat.add_mul_mod_self_right]
      exact ih hlt

/-- A lane of a register built lane by lane. -/
@[simp] theorem laneOf_vregOf (f : Nat → Word) {l : Nat} (h : l < 32) : laneOf (vregOf f) l = f l := by
  apply BitVec.eq_of_toNat_eq
  have h1 : digits32 32 f < 2 ^ 1024 := digits32_lt 32 f
  simp only [laneOf, vregOf, BitVec.toNat_ofNat]
  rw [Nat.mod_eq_of_lt h1, digits32_div 32 f l h]

theorem maskBits_lt (n : Nat) (f : Nat → Bool) : maskBits n f < 2 ^ n := by
  induction n with
  | zero => simp [maskBits]
  | succ n ih =>
    have : 2 ^ (n + 1) = 2 ^ n + 2 ^ n := by rw [Nat.pow_succ]; omega
    simp only [maskBits]
    split <;> omega

theorem maskBits_testBit (n : Nat) (f : Nat → Bool) (l : Nat) : (maskBits n f).testBit l = (decide (l < n) && f l) := by
  induction n with
  | zero => simp [maskBits]
  | succ n ih =>
    have lt := maskBits_lt n f
    simp only [maskBits]
    rcases Nat.lt_trichotomy l n with h | h | h
    · have h1 : l < n + 1 := by omega
      split
      · rw [Nat.add_comm, Nat.testBit_two_pow_add_gt h, ih]; simp [h, h1]
      · rw [Nat.add_zero, ih]; simp [h, h1]
    · subst h
      have h0 : (maskBits l f).testBit l = false := Nat.testBit_lt_two_pow lt
      split
      · rename_i hf; rw [Nat.add_comm, Nat.testBit_two_pow_add_eq, h0]; simp [hf]
      · rename_i hf; rw [Nat.add_zero, h0]; simp [hf]
    · have h1 : ¬ l < n + 1 := by omega
      have hb := maskBits_lt (n + 1) f
      simp only [maskBits] at hb
      rw [Nat.testBit_lt_two_pow (Nat.lt_of_lt_of_le hb (Nat.pow_le_pow_right (by decide) (by omega)))]
      simp [h1]

/-- A bit of a mask built bit by bit. -/
@[simp] theorem laneAt_maskOf (f : Nat → Bool) {l : Nat} (h : l < 32) : laneAt (maskOf f) l = f l := by
  have h1 : maskBits 32 f % 2 ^ 32 = maskBits 32 f := Nat.mod_eq_of_lt (maskBits_lt 32 f)
  simp only [laneAt, maskOf, BitVec.getLsbD, BitVec.toNat_ofNat, h1, maskBits_testBit, h, decide_true, Bool.true_and]

namespace Machine

/-- A lane of the 32-bit register an instruction leaves. -/
theorem laneOf_newLanes (en : LaneMask) (old : VReg) (f : Nat → LaneRes) {l : Nat} (h : l < 32) :
    laneOf (newLanes en old f) l = if laneAt en l then BitVec.ofNat 32 (f l).1 else laneOf old l := laneOf_vregOf _ h

/-- A lane of the odd register of a pair. -/
theorem laneOf_newLanesHigh (en : LaneMask) (old : VReg) (f : Nat → LaneRes) {l : Nat} (h : l < 32) :
    laneOf (newLanesHigh en old f) l = if laneAt en l then BitVec.ofNat 32 ((f l).1 / 2 ^ 32) else laneOf old l :=
  laneOf_vregOf _ h

/-- A bit of a predicate with the enabled lanes replaced. -/
theorem laneAt_newPred (en old : LaneMask) (f : Nat → Bool) {l : Nat} (h : l < 32) :
    laneAt (newPred en old f) l = if laneAt en l then f l else laneAt old l := laneAt_maskOf _ h

end Machine
end Sys2Proof
end

