-- ==== Sys2Proof/Laws/Vector.lean ====
section
/-! SUPPORT. What the vector words do, over the common form of 09 R207. -/
namespace Sys2Proof.Machine
open Sys2Proof.Statement

/-- Register writes that put a vector word's results, lane by lane, into its destination. -/
def Puts (a : At) (z : VectorWord) (ws : List RegWrite) : Prop :=
  ∃ f, ws = a.put z.form z.lanes z.dest f ∧ ∀ l, l < 32 → laneAt z.lanes l = true → (f l).1 = (z.result l).1

theorem Puts.self (a : At) (z : VectorWord) : Puts a z (a.put z.form z.lanes z.dest z.result) := ⟨_, rfl, fun _ _ _ => rfl⟩

/-- A register operation that is a vector word. -/
structure Fits (x : RegOp) (a : At) (z : VectorWord) : Prop where
  k : x.k = z.k
  use : (x.chk a).use = { vr := z.reads, vw := z.dests, sr := z.scalars }
  priv : (x.chk a).priv = false
  reg : (x.chk a).reg = false
  typ : (x.chk a).typ = false
  modeval : (x.chk a).modeval = none
  lanes : x.written a = z.lanes
  writes : Puts a z (x.result a).writes
  flags : (x.result a).flags = z.flags

/-- The writes of a register or pair hold the results lane by lane. -/
theorem writes_hold {a : At} {z : VectorWord} {ws : List RegWrite} (h : Puts a z ws) :
    Holds (fun n => lastV ws n (a.g.vget n)) a z := by
  obtain ⟨f, rfl, hf⟩ := h
  constructor
  · intro l hl
    have e : lastV (a.put z.form z.lanes z.dest f) z.dest (a.g.vget z.dest) = newLanes z.lanes (a.g.vget z.dest) f := by
      simp only [At.put]; split <;> simp [lastV]
    show laneOf (lastV _ _ _) l = _
    rw [e, laneOf_newLanes _ _ _ hl]
    split
    · rename_i h; rw [hf l hl h]
    · rfl
  · intro h64 l hl
    have e : lastV (a.put z.form z.lanes z.dest f) (z.dest + 1) (a.g.vget (z.dest + 1)) =
        newLanesHigh z.lanes (a.g.vget (z.dest + 1)) f := by
      simp [At.put, h64, lastV]
    show laneOf (lastV _ _ _) l = _
    rw [e, laneOf_newLanesHigh _ _ _ hl]
    split
    · rename_i h; rw [hf l hl h]
    · rfl

theorem lastV_writes_ne {a : At} {z : VectorWord} {ws : List RegWrite} (h : Puts a z ws) {n : Nat} (hn : n ∉ z.dests)
    (old : VReg) : lastV ws n old = old := by
  obtain ⟨f, rfl, _⟩ := h
  simp only [VectorWord.dests, regsOf] at hn
  simp only [At.put]
  split at hn <;> rename_i h64
  · simp only [List.mem_cons, List.not_mem_nil, or_false, not_or] at hn
    simp [h64, lastV, show ¬ z.dest + 1 = n by omega, show ¬ z.dest = n by omega]
  · simp only [List.mem_cons, List.not_mem_nil, or_false] at hn
    simp [h64, lastV, show ¬ z.dest = n by omega]

theorem lastS_writes {a : At} {z : VectorWord} {ws : List RegWrite} (h : Puts a z ws) (n : Nat) (old : DWord) :
    lastS ws n old = old := by
  obtain ⟨f, rfl, _⟩ := h; simp only [At.put]; split <;> rfl
theorem lastP_writes {a : At} {z : VectorWord} {ws : List RegWrite} (h : Puts a z ws) (n : Nat) (old : LaneMask) :
    lastP ws n old = old := by
  obtain ⟨f, rfl, _⟩ := h; simp only [At.put]; split <;> rfl

/-- What a vector word of fixed latency does. -/
theorem vector_next {x : RegOp} {s : State} {a : At} {z : VectorWord} (hx : x.late = false) (c : Fits x a z)
    (f : Free s a x.i z.k { vr := z.reads, vw := z.dests, sr := z.scalars }) (room : HasRoom a (writing z.lanes z.dests)) :
    ∃ t g e, issueReg x s = .next t ∧ Kept t a g e ∧ e.pc = a.e.pc + 4 ∧ Alone s t a ∧ RegsBut a g z.dests [] [] ∧
      Holds g.vget a z ∧ g.fflags = a.g.fflags ||| z.flags ∧ g.ops = a.g.ops := by
  obtain ⟨t, g, e, h1, h2, h3, h4, h5, h6, hv, hs, hp⟩ := issueReg_next (x := x) (s := s) (a := a)
    (by rw [c.use, c.k]; exact f) hx c.priv c.reg c.typ c.modeval (by rw [c.lanes, c.use]; exact room)
  refine ⟨t, g, e, h1, h2, h3, h4, ⟨fun n hn => ?_, fun n _ => ?_, fun n _ => ?_⟩, ?_, ?_, h6⟩
  · rw [hv, lastV_writes_ne c.writes hn]
  · rw [hs, lastS_writes c.writes]
  · rw [hp, lastP_writes c.writes]
  · have : g.vget = fun n => lastV (x.result a).writes n (a.g.vget n) := funext hv
    rw [this]; exact writes_hold c.writes
  · rw [h5, c.flags]

/-- What a vector word of variable latency does. -/
theorem vector_late {x : RegOp} {s : State} {a : At} {z : VectorWord} (hx : x.late = true) (c : Fits x a z)
    (f : Free s a x.i z.k { vr := z.reads, vw := z.dests, sr := z.scalars }) (room : HasRoom a (writing z.lanes z.dests)) :
    ∃ t g e o ws, issueReg x s = .next t ∧ Kept t a g e ∧ e.pc = a.e.pc + 4 ∧ Alone s t a ∧ RegsBut a g [] [] [] ∧
      g.fflags = a.g.fflags ∧ g.ops = a.g.ops ++ [o] ∧ o.id = a.g.nextOp ∧ o.isV = true ∧ o.kind = .value ws ∧
      o.flags = z.flags ∧ Holds (fun n => lastV ws n (a.g.vget n)) a z := by
  obtain ⟨t, g, e, o, h1, h2, h3, h4, h5, h6, h7, h8, h9, h10, h11⟩ := issueReg_late (x := x) (s := s) (a := a)
    (by rw [c.use, c.k]; exact f) hx c.priv c.reg c.typ c.modeval (by rw [c.lanes, c.use]; exact room)
  refine ⟨t, g, e, o, _, h1, h2, h3, h4, h5, h6, h7, h8, h9, h10, h11.trans c.flags, writes_hold c.writes⟩

/-- What the checks of 09 R207 say where the types are accepted and the pairs even. -/
theorem vecChk_list {x : At} {accept : EType → Bool} {src d : List Nat} (sr : List Nat)
    (h1 : (x.etype.isSome && accept x.ty) = true)
    (h2 : (!is64 x.ty || (src ++ d).all fun n => n % 2 == 0) = true) :
    vecChk accept src d sr x = { use := { vr := src.flatMap (regsOf x.ty), vw := d.flatMap (regsOf x.ty), sr := sr } } := by
  simp only [Bool.and_eq_true, Option.isSome_iff_exists] at h1
  obtain ⟨⟨t, ht⟩, ha⟩ := h1
  have hty : x.ty = t := by simp [At.ty, ht]
  have hreg : (is64 t && (src ++ d).any fun n => n % 2 == 1) = false := by
    rw [hty] at h2
    cases h : is64 t with
    | false => rfl
    | true =>
      simp only [h, Bool.not_true, Bool.false_or, List.all_eq_true, beq_iff_eq] at h2
      simp only [Bool.true_and, List.any_eq_false, beq_iff_eq]
      intro n hn; have := h2 n hn; omega
  rw [hty] at ha
  simp only [vecChk, ht, hty, hreg, ha]
  simp

theorem vecChk_eq {x : At} {accept : EType → Bool} {src : List Nat} {d : Nat} (sr : List Nat)
    (h1 : (x.etype.isSome && accept x.ty) = true)
    (h2 : (!is64 x.ty || (src ++ [d]).all fun n => n % 2 == 0) = true) :
    vecChk accept src [d] sr x = { use := { vr := src.flatMap (regsOf x.ty), vw := regsOf x.ty d, sr := sr } } := by
  rw [vecChk_list sr h1 h2]; simp

/-- The common form of 09 R207 is the vector word of its operands. -/
theorem fits_vecOp {i : Instr} {k late : Bool} {x : At} {accept : EType → Bool} {nk : NumKey} {src : List Nat} {d : Nat}
    {sr : List Nat} {lane : At → EType → Nat → LaneRes} {sym : At → Region → Nat → Option Tag} {z : VectorWord}
    (h1 : z.accepts = true) (h2 : z.even = true) (hz : z = { ofE x k accept src d (lane x x.ty) with scalars := sr }) :
    Fits (vecOp i k late accept nk src d sr lane sym) x z := by
  subst hz
  have h := vecChk_eq (x := x) (accept := accept) (src := src) (d := d) sr h1 h2
  exact ⟨rfl, congrArg Chk.use h, congrArg Chk.priv h, congrArg Chk.reg h, congrArg Chk.typ h, congrArg Chk.modeval h,
    rfl, Puts.self _ _, rfl⟩

/-- The key of the reuse table is no part of what a word does. -/
theorem Fits.withKey {x : RegOp} {a : At} {z : VectorWord} (h : Fits x a z) (f : At → Option (List Nat)) :
    Fits { x with key := f } a z :=
  ⟨h.k, h.use, h.priv, h.reg, h.typ, h.modeval, h.lanes, h.writes, h.flags⟩

end Sys2Proof.Machine
end

