-- ==== Sys2Proof/Laws/Exchange.lean ====
section
/-! SUPPORT. The running sums of 08 R180, and the order of the lanes of a mask. -/
namespace Sys2Proof.Machine
open Sys2Proof.Statement

/-- One step of the loop of 08 R180. -/
def sumStep (t : EType) (nm : NumMode) (elem : Nat → Nat) (acc : Option Nat × Flags) (l : Nat) : Option Nat × Flags :=
  match acc.1 with
  | none => (some (lnRead t nm (elem l)).1, acc.2 ||| (lnRead t nm (elem l)).2)
  | some y => (some ((lnAdd t nm y (elem l)).1 % 2 ^ widthOf t), acc.2 ||| (lnAdd t nm y (elem l)).2)

theorem sumLanes_eq (t : EType) (nm : NumMode) (elem : Nat → Nat) (ls : List Nat) :
    sumLanes t nm elem ls = ls.foldl (sumStep t nm elem) (none, 0) := rfl

/-- The flags of a scan are those of the loop. -/
theorem scanSums_flags (t : EType) (nm : NumMode) (elem : Nat → Nat) (ls : List Nat) : ∀ (acc : Option Nat) (f : Flags),
    (ls.foldl (sumStep t nm elem) (acc, f)).2 = f ||| (scanSums t nm elem ls acc).2 := by
  induction ls with
  | nil => intro acc f; simp [scanSums]
  | cons l r ih =>
    intro acc f
    cases acc with
    | none | some y => simp only [List.foldl_cons, scanSums, scanAdd, sumStep, ih, BitVec.or_assoc]

/-- The value of a scan at a lane is the loop's after the lanes up to it. -/
theorem scanSums_at (t : EType) (nm : NumMode) (elem : Nat → Nat) (l : Nat) (q : List Nat) :
    ∀ (p : List Nat) (acc : Option Nat) (f : Flags), l ∉ p →
      some (AList.getD (scanSums t nm elem (p ++ l :: q) acc).1 l 0) = ((p ++ [l]).foldl (sumStep t nm elem) (acc, f)).1 := by
  intro p
  induction p with
  | nil =>
    intro acc f _
    cases acc <;> simp [scanSums, scanAdd, sumStep, AList.getD, AList.get?_cons]
  | cons m p ih =>
    intro acc f h
    simp only [List.mem_cons, not_or] at h
    have hm : ¬ m = l := fun e => h.1 e.symm
    cases acc with
    | none =>
      have := ih (some (lnRead t nm (elem m)).1) (f ||| (lnRead t nm (elem m)).2) h.2
      simpa [scanSums, scanAdd, sumStep, AList.getD, AList.get?_cons, hm] using this
    | some y =>
      have := ih (some ((lnAdd t nm y (elem m)).1 % 2 ^ widthOf t)) (f ||| (lnAdd t nm y (elem m)).2) h.2
      simpa [scanSums, scanAdd, sumStep, AList.getD, AList.get?_cons, hm] using this

/-- The last value of a scan is the loop's. -/
theorem scanSums_last (t : EType) (nm : NumMode) (elem : Nat → Nat) (ls : List Nat) : ∀ (acc : Option Nat) (f : Flags),
    (((scanSums t nm elem ls acc).1.getLast?.map Prod.snd).or acc) = (ls.foldl (sumStep t nm elem) (acc, f)).1 := by
  induction ls with
  | nil => intro acc f; simp [scanSums]
  | cons l r ih =>
    intro acc f
    cases acc with
    | none =>
      rw [List.foldl_cons, ← ih]
      simp only [scanSums, scanAdd, List.getLast?_cons]
      cases h : (scanSums t nm elem r (some (lnRead t nm (elem l)).1)).1.getLast? <;> simp [sumStep, h]
    | some y =>
      simp only [List.foldl_cons, sumStep]
      rw [← ih]
      simp only [scanSums, scanAdd, List.getLast?_cons]
      cases h : (scanSums t nm elem r (some ((lnAdd t nm y (elem l)).1 % 2 ^ widthOf t))).1.getLast? <;> simp

theorem lanes_sorted : lanes.Pairwise (· < ·) := by decide

theorem lanesIn_sorted (m : LaneMask) : (lanesIn m).Pairwise (· < ·) := lanes_sorted.filter _

theorem mem_lanes {l : Nat} : l ∈ lanes ↔ l < 32 := by
  constructor
  · intro h; simp [lanes] at h; omega
  · intro h
    have : ∀ l : Fin 32, l.1 ∈ lanes := by decide
    exact this ⟨l, h⟩

theorem mem_lanesIn {m : LaneMask} {l : Nat} : l ∈ lanesIn m ↔ l < 32 ∧ laneAt m l = true := by
  simp [lanesIn, List.mem_filter, mem_lanes]

/-- The lanes of a mask up to one of them. -/
theorem lanesIn_upTo {m : LaneMask} {l : Nat} (h : l ∈ lanesIn m) :
    ∃ p q, lanesIn m = p ++ l :: q ∧ l ∉ p ∧ ((lanesIn m).filter fun j => decide (j ≤ l)) = p ++ [l] := by
  obtain ⟨p, q, e⟩ := List.append_of_mem h
  have hs := lanesIn_sorted m
  rw [e, List.pairwise_append] at hs
  obtain ⟨_, h2, h3⟩ := hs
  have hp : ∀ j ∈ p, j < l := fun j hj => h3 j hj l (by simp)
  have hq : ∀ j ∈ q, l < j := (List.pairwise_cons.1 h2).1
  refine ⟨p, q, e, fun hl => by have := hp l hl; omega, ?_⟩
  rw [e, List.filter_append]
  have e1 : (p.filter fun j => decide (j ≤ l)) = p := List.filter_eq_self.2 fun j hj => by have := hp j hj; simp; omega
  have e2 : (q.filter fun j => decide (j ≤ l)) = [] := List.filter_eq_nil_iff.2 fun j hj => by have := hq j hj; simp; omega
  rw [e1, List.filter_cons_of_pos (by simp), e2]

end Sys2Proof.Machine
end

