-- ==== Sys2Proof/Laws/Predicate.lean ====
section
/-! SUPPORT. What the words that write a predicate or a scalar from vector lanes do (08 R173 to R180). -/
namespace Sys2Proof.Machine
open Sys2Proof.Statement

theorem writing_nil (m : LaneMask) : writing m [] = {} := by
  unfold writing; congr 1; funext l; simp

/-- A region's room does not depend on an order of the words in one issue: a word that writes no vector register. -/
theorem hasRoom_nil {a : At} {m : LaneMask} (h : HasRoom a {}) : HasRoom a (writing m []) := by rw [writing_nil]; exact h

/-- What a word does whose one write is a scalar register. -/
theorem vote_next {x : RegOp} {s : State} {a : At} {z : VoteWord} (hx : x.late = false) (hk : x.k = z.k)
    (hu : (x.chk a).use = { vr := z.reads, sw := [z.dest] }) (hp : (x.chk a).priv = false) (hg : (x.chk a).reg = false)
    (ht : (x.chk a).typ = false) (hm : (x.chk a).modeval = none) (hw : (x.result a).writes = [.s z.dest z.result])
    (hfl : (x.result a).flags = z.flags) (f : Free s a x.i z.k { vr := z.reads, sw := [z.dest] }) (room : HasRoom a {}) :
    ∃ t g e, issueReg x s = .next t ∧ Kept t a g e ∧ e.pc = a.e.pc + 4 ∧ Alone s t a ∧ RegsBut a g [] [z.dest] [] ∧
      g.sget z.dest = z.result ∧ g.fflags = a.g.fflags ||| z.flags := by
  obtain ⟨t, g, e, h1, h2, h3, h4, h5, h6, hv, hs, hpp⟩ := issueReg_next (x := x) (s := s) (a := a)
    (by rw [hu, hk]; exact f) hx hp hg ht hm (by rw [hu]; exact hasRoom_nil room)
  rw [hw] at hv hs hpp
  refine ⟨t, g, e, h1, h2, h3, h4, ⟨fun n _ => hv n, fun n hn => ?_, fun n _ => hpp n⟩, ?_, ?_⟩
  · rw [hs]; simp at hn; simp [lastS, show ¬ z.dest = n by omega]
  · rw [hs]; simp [lastS]
  · rw [h5, hfl]

/-- What a predicate operation does. -/
theorem predicate_next {x : RegOp} {s : State} {a : At} {z : PredicateWord} {f : Nat → Bool} (hx : x.late = false)
    (hk : x.k = z.k) (hu : (x.chk a).use = { vr := z.reads }) (hp : (x.chk a).priv = false)
    (hg : (x.chk a).reg = false) (ht : (x.chk a).typ = false) (hm : (x.chk a).modeval = none)
    (hw : (x.result a).writes = [.p z.dest (newPred a.enabled (a.g.pget z.dest) f)]) (hr : ∀ l, l < 32 → f l = z.result l)
    (hfl : (x.result a).flags = z.flags) (h : Free s a x.i z.k { vr := z.reads }) (room : HasRoom a {}) :
    ∃ t g e, issueReg x s = .next t ∧ Kept t a g e ∧ e.pc = a.e.pc + 4 ∧ Alone s t a ∧ RegsBut a g [] [] [z.dest] ∧
      (∀ l, l < 32 → laneAt (g.pget z.dest) l = if laneAt a.enabled l then z.result l else laneAt (a.g.pget z.dest) l) ∧
      g.fflags = a.g.fflags ||| z.flags := by
  obtain ⟨t, g, e, h1, h2, h3, h4, h5, h6, hv, hs, hpp⟩ := issueReg_next (x := x) (s := s) (a := a)
    (by rw [hu, hk]; exact h) hx hp hg ht hm (by rw [hu]; exact hasRoom_nil room)
  rw [hw] at hv hs hpp
  refine ⟨t, g, e, h1, h2, h3, h4, ⟨fun n _ => hv n, fun n _ => hs n, fun n hn => ?_⟩, fun l hl => ?_, ?_⟩
  · rw [hpp]; simp at hn; simp [lastP, show ¬ z.dest = n by omega]
  · rw [hpp]; simp [lastP, laneAt_newPred _ _ _ hl, hr l hl]
  · rw [h5, hfl]

/-- What a word of any body does whose body leaves the machine alone but for the group: the common end of such proofs. -/
theorem only_next {x : Issue} {s : State} {a : At} (f : Free s a x.i x.k (x.chk a).use)
    (hp : (x.chk a).priv = false) (hg : (x.chk a).reg = false) (ht : (x.chk a).typ = false)
    (hm : (x.chk a).modeval = none) (hroom : HasRoom a (x.region a)) {w2 : W} {pc : Option DWord} {reused : Bool} {g2 : Group}
    (hb : x.body ((s.toW f.wf).putGroup a.r (startedAs x a)) a = .done w2 pc reused)
    (o : OnlyGroup ((s.toW f.wf).putGroup a.r (startedAs x a)) a.r g2 w2) (hl : g2.late = a.g.late)
    (he : g2.entries = (startedAs x a).entries) (hs : specials g2 = specials a.g) (htr : traps g2 = traps a.g)
    (hd : identity g2 = identity a.g) :
    ∃ t g e, issue x s = .next t ∧ Kept t a g e ∧ e.pc = pc.getD a.e.pc ∧ Alone s t a ∧ g.fflags = g2.fflags ∧
      g.ops = g2.ops ∧ (∀ n, g.vget n = g2.vget n) ∧ (∀ n, g.sget n = g2.sget n) ∧ ∀ n, g.pget n = g2.pget n := by
  have hf : firstFault x a = none := firstFault_eq_none f.formed hp f.declared hg ht hm f.calm hroom
  have hn := issue_done (x := x) f.toHere hf f.atHand hb o.group (fun hk => hl.trans (f.early hk)) (o.missing.trans f.whole)
  obtain ⟨e, hk, hpc⟩ := kept_of (x := x) (t := ((w2.account a reused).putGroup a.r (endedAs x a pc w2 g2)).toState)
    (pc := pc) (w2 := w2) (g2 := g2) f.here (AList.get?_put_self _ _ _) he hs htr hd
  exact ⟨_, _, e, hn, hk, hpc, alone_of f.wf o, endedAs_fflags .., endedAs_ops .., fun n => endedAs_vget .., fun n =>
    endedAs_sget .., fun n => endedAs_pget ..⟩

/-- What a compare does (08 R173, R174). -/
theorem compare_next {i : Instr} {k : Bool} {op : Cmp} {accept : EType → Bool} {d : BitVec 4} {p q : BitVec 7} {s : State}
    {a : At} (h1 : (comparing a k accept d p q op).accepts = true) (h2 : (comparing a k accept d p q op).even = true)
    (h : Free s a i k { vr := (comparing a k accept d p q op).reads })
    (room : HasRoom a { constraints := (comparing a k accept d p q op).records }) :
    ∃ t g e, issue (compareOp i k op accept d.toNat p.toNat q.toNat) s = .next t ∧ Kept t a g e ∧ e.pc = a.e.pc + 4 ∧
      Alone s t a ∧ RegsBut a g [] [] [d.toNat] ∧
      (∀ l, l < 32 → laneAt (g.pget d.toNat) l =
        if laneAt a.enabled l then (comparing a k accept d p q op).result l else laneAt (a.g.pget d.toNat) l) ∧
      g.fflags = a.g.fflags ||| (comparing a k accept d p q op).flags := by
  have hc := vecChk_list (x := a) (accept := accept) (src := [p.toNat, q.toNat]) (d := []) [] h1
    (by simpa [comparing] using h2)
  have hc' : (compareOp i k op accept d.toNat p.toNat q.toNat).chk a =
      { use := { vr := (comparing a k accept d p q op).reads } } := by
    show vecChk accept [p.toNat, q.toNat] [] [] a = _
    rw [hc]; simp [comparing]
  let x := compareOp i k op accept d.toNat p.toNat q.toNat
  have hreg : x.region a = { constraints := (comparing a k accept d p q op).records } := rfl
  have o := (((OnlyGroup.refl (W.group_putGroup (s.toW h.wf) a.r (startedAs x a))).put fun g =>
    { g with region := g.region.map (compareRegion a op p.toNat q.toNat fun l =>
        (lnCmp op a.ty a.num (a.elem a.ty p.toNat l) (a.elem a.ty q.toNat l)).1) }).put fun g =>
    { g with p := AList.put g.p d.toNat (newPred a.enabled (a.g.pget d.toNat) fun l =>
        (lnCmp op a.ty a.num (a.elem a.ty p.toNat l) (a.elem a.ty q.toNat l)).1) }).put fun g =>
    { g with fflags := g.fflags ||| (comparing a k accept d p q op).flags }
  obtain ⟨t, g, e, e1, e2, e3, e4, e5, e6, e7, e8, e9⟩ := only_next (x := x) (s := s) (a := a) (by rw [hc']; exact h)
    (by rw [hc']) (by rw [hc']) (by rw [hc']) (by rw [hc']) (by rw [hreg]; exact room) rfl o rfl rfl rfl rfl rfl
  refine ⟨t, g, e, e1, e2, e3, e4, ⟨fun n _ => e7 n, fun n _ => e8 n, fun n hn => ?_⟩, fun l hl => ?_, e5⟩
  · simp at hn
    rw [e9]
    show AList.getD (AList.put a.g.p d.toNat _) n 0 = AList.getD a.g.p n 0
    rw [AList.getD_put_ne _ _ _ hn]
  · rw [e9]
    show laneAt (AList.getD (AList.put a.g.p d.toNat _) d.toNat 0) l = _
    rw [AList.getD_put_self, laneAt_newPred _ _ _ hl]
    rfl

end Sys2Proof.Machine
end

