-- ==== Sys2Proof/Laws/Scalar.lean ====
section
/-! SUPPORT. What the scalar words do, and their arithmetic in the terms of 09 R220. -/
namespace Sys2Proof.Machine
open Sys2Proof.Statement

theorem ofNat_unsignedOf (z : Int) : BitVec.ofNat 64 (unsignedOf 64 z) = BitVec.ofInt 64 z := by
  apply BitVec.eq_of_toNat_eq
  simp [unsignedOf]
  omega

theorem toInt_eq_zero {b : DWord} : b.toInt = 0 ↔ b = 0 :=
  ⟨fun h => BitVec.eq_of_toInt_eq (by rw [h]; rfl), fun h => by subst h; rfl⟩

theorem sQuot_eq (a b : DWord) : sQuot a b = if b = 0 then -1 else BitVec.ofInt 64 (a.toInt.tdiv b.toInt) := by
  unfold sQuot intDiv
  by_cases h : b = 0
  · rw [if_pos (toInt_eq_zero.2 h), if_pos h]; rfl
  · rw [if_neg fun e => h (toInt_eq_zero.1 e), if_neg h]
    exact ofNat_unsignedOf _

theorem sRem_eq (a b : DWord) : sRem a b = if b = 0 then a else BitVec.ofInt 64 (a.toInt.tmod b.toInt) := by
  unfold sRem intRem
  by_cases h : b = 0
  · rw [if_pos (toInt_eq_zero.2 h), if_pos h]
    exact (ofNat_unsignedOf _).trans (BitVec.ofInt_toInt)
  · rw [if_neg fun e => h (toInt_eq_zero.1 e), if_neg h]
    exact ofNat_unsignedOf _

theorem sMin_eq (a b : DWord) : (if a.toInt ≤ b.toInt then a else b) = if b.slt a then b else a := by
  simp only [BitVec.slt, decide_eq_true_eq]
  split <;> split <;> first | rfl | omega

theorem sMax_eq (a b : DWord) : (if a.toInt ≤ b.toInt then b else a) = if a.slt b then b else a := by
  simp only [BitVec.slt, decide_eq_true_eq]
  split <;> split <;> first | rfl | omega | (apply BitVec.eq_of_toInt_eq; omega)

/-- What a scalar word does: it writes its destination and nothing else (09 R204, R220). -/
theorem scalar_next {s : State} {a : At} {i : Instr} {k : Bool} {sr : List Nat} {d : Nat} {f : At → DWord}
    (h : Free s a i k { sr := sr, sw := [d] }) (room : HasRoom a {}) :
    ∃ t g e, issueReg (scalarOp i k sr d f) s = .next t ∧ Kept t a g e ∧ e.pc = a.e.pc + 4 ∧ Alone s t a ∧
      RegsBut a g [] [d] [] ∧ g.sget d = f a ∧ g.fflags = a.g.fflags := by
  have hw : (writing ((scalarOp i k sr d f).written a) ((scalarOp i k sr d f).chk a).use.vw) = {} := by
    unfold writing scalarOp; congr 1; funext l; simp
  obtain ⟨t, g, e, h1, h2, h3, h4, h5, _, hv, hs, hp⟩ := issueReg_next (x := scalarOp i k sr d f) (s := s) (a := a) h
    rfl rfl rfl rfl rfl (by rw [hw]; exact room)
  refine ⟨t, g, e, h1, h2, h3, h4, ⟨fun n _ => hv n, fun n hn => ?_, fun n _ => hp n⟩, ?_, ?_⟩
  · rw [hs]
    have : ¬ d = n := by intro e; subst e; simp at hn
    simp [scalarOp, lastS, this]
  · rw [hs]; simp [scalarOp, lastS]
  · rw [h5]; simp [scalarOp]

end Sys2Proof.Machine
end

