-- ==== Sys2Proof/Safety.lean ====
section
/-! DEFINITION. What a safe run is: the memory is in canonical form, and no step ends in a fault or a refusal. -/
namespace Sys2Proof.Machine

/-- A state that a step leaves in a next state. -/
def State.Steps (s : State) : Prop := ∃ t, step s = .next t

/-- The states that some number of steps lead to. -/
inductive Reaches (s : State) : State → Prop
  | here : Reaches s s
  | more {t u : State} : Reaches s t → step t = .next u → Reaches s u

/-- A run from a state is safe when every state it reaches has memory in canonical form and a next state. -/
def State.Safe (s : State) : Prop := ∀ t, Reaches s t → t.memWf ∧ t.Steps

end Sys2Proof.Machine
end

