-- ==== Sys2Proof/Tests/Base.lean ====
section
/-! SUPPORT. The small states the tests and witnesses stand on, and the checks that show a hypothesis of a statement. -/
namespace Sys2Proof.Tests
set_option Elab.async false
open Sys2Proof.Machine Sys2Proof.Statement

/-- Group slot 0 of core 0 of chip 0, and its entry 0. -/
def r0 : GroupRef := { chip := 0, core := 0, slot := 0 }
/-- The fragment of `r0`. -/
def f0 : FragRef := ⟨r0, 0⟩

/-- A state whose next step is a word, with group and block changed as given. -/
def placed (w : Nat) (fg : Group → Group) (fb : Block → Block) : State :=
  let s := State.reset.withFetchWord 32 w
  { s with
    groups := s.groups.map fun x => (x.1, fg x.2)
    blocks := s.blocks.map fun x => (x.1, fb x.2) }

/-- The state in which `r0`'s fragment issues, its group as given. -/
def ready (fg : Group → Group) : State := { placed 0x70000000 fg id with issuer := some f0 }
/-- The same with its block as given. -/
def readyIn (fg : Group → Group) (fb : Block → Block) : State := { placed 0x70000000 fg fb with issuer := some f0 }
/-- The plain one. -/
def plain : State := ready id

/-- The issuing fragment. -/
def atOf (s : State) : At := (issuing s).getD { r := r0, ei := 0, g := {}, e := {} }

/-- Everything `Free` asks of a state, evaluated. -/
def freeOk (s : State) (i : Instr) (k : Bool) (u : Use) : Bool :=
  let a := atOf s
  memoryWf s.mem && !s.missing && (issuing s).isSome && (AList.getD s.cores (coreKey a.r) {}).comparators.isEmpty &&
    (rejectOf i).isNone && (u.vr ++ u.vw).all (fun n => decide (n < a.g.vregs)) &&
    (!a.g.runCheck || (hazardOf a.g u).isNone) &&
    (match a.e.refill with
      | some c => decide (c ≤ s.cycle)
      | none => u.vr.all fun n => a.g.buffer.contains n) && (!k || a.g.late.isNone)

theorem here_of {s : State} (h1 : memoryWf s.mem = true) (h2 : s.missing = false) (h3 : (issuing s).isSome = true)
    (h4 : (AList.getD s.cores (coreKey (atOf s).r) {}).comparators.isEmpty = true) : Here s (atOf s) where
  wf := h1
  whole := h2
  here := by
    unfold atOf
    cases h : issuing s with
    | none => simp [h] at h3
    | some a => rfl
  unwatched := .inr fun n c hc => by rw [List.isEmpty_iff.1 h4] at hc; simp [AList.get?] at hc

theorem free_of {s : State} {i : Instr} {k : Bool} {u : Use} (h : freeOk s i k u = true) : Free s (atOf s) i k u := by
  simp only [freeOk, Bool.and_eq_true, Bool.or_eq_true, Bool.not_eq_true', List.all_eq_true, decide_eq_true_eq,
    Option.isNone_iff_eq_none] at h
  obtain ⟨⟨⟨⟨⟨⟨⟨⟨h1, h2⟩, h3⟩, h4⟩, h5⟩, h6⟩, h7⟩, h8⟩, h9⟩ := h
  refine { toHere := here_of h1 h2 h3 h4, formed := h5, declared := h6, calm := fun hr => ?_, atHand := ?_, early := fun hk => ?_ }
  · exact h7.resolve_left (by simp [hr])
  · unfold AtHand
    split <;> rename_i hr <;> rw [hr] at h8
    · simpa using h8
    · simpa using h8
  · exact h9.resolve_left (by simp [hk])

theorem room_of {a : At} {u : RegionUse} (h : a.g.region = none) : HasRoom a u := fun rg hr => by rw [h] at hr; cases hr

/-- With no lease and no write that waits, every line is free. -/
theorem lines_free {s : State} {h : s.memWf} (hh : s.horizon = []) (hw : s.waiting = []) :
    ∀ m, (machine s h).lineFree m = true := fun m => by
  simp [W.lineFree, W.lineClear, machine, hh, hw, AList.getD, AList.get?]

/-- The mode state of a plain fragment. -/
def modes : ModeState := { mode := 0x14F, fmt := 0x30ABB, pending := none }
/-- A region opened at 0xFFFC whose fallback is 0x4000. -/
def region0 : Region := { abpc := 0xFFFC, fallback := 0x4000, entry := 0, v := [], s := [], p := [], windows := [], before := modes, after := modes }
/-- The group with a region. -/
def inRegion (rg : Region) : State := ready fun g => { g with region := some rg }
theorem room_region {a : At} {rg : Region} {u : RegionUse} (h : a.g.region = some rg) (h2 : regionDetail rg u = none) : HasRoom a u := by
  intro x hx
  rw [h] at hx
  cases hx
  exact h2

/-- Everything `Calm` asks, evaluated. -/
def calmOk (s : State) (a : At) : Bool :=
  !a.g.outstanding && a.g.late.isNone && a.g.region.isNone &&
    decide ((AList.getD s.contexts (pkgOf a.r.chip, a.g.ctx) {}).st ≠ .draining)

theorem calm_of {s : State} {a : At} (h : calmOk s a = true) : Calm s a := by
  simp only [calmOk, Bool.and_eq_true, Bool.not_eq_true', Option.isNone_iff_eq_none, decide_eq_true_eq] at h
  exact ⟨h.1.1.1, h.1.1.2, h.1.2, h.2⟩

end Sys2Proof.Tests
end

