-- ==== Sys2Proof/Tests/BlockWitness.lean ====
section
/-! SUPPORT. Witnesses: for each statement about tiles, engines, batches, barriers, the rotation and `regrp`, a concrete state
and operands that meet all its hypotheses. -/
namespace Sys2Proof.Tests
set_option Elab.async false
open Sys2Proof.Machine Sys2Proof.Statement

/-! ## Late scalar words and tiles -/

/-- What `LateScalarWords` asks. -/
def Late (s : State) (a : At) (i : Instr) (z : LateScalar) : Prop :=
  lateScalar s a i = some z ∧ Free s a i z.k z.use ∧ HasRoom a z.room
theorem witness_late_scalar : ∃ s a i z, Late s a i z :=
  ⟨plain, atOf plain, .vtos false 191 127 31, _, rfl, free_of (by decide +kernel), room_of rfl⟩
theorem witness_late_scalar_class : ∃ s a i z, Late s a i z ∧ i = .bstat true 3 191 :=
  ⟨plain, atOf plain, .bstat true 3 191, _, ⟨rfl, free_of (by decide +kernel), room_of rfl⟩, rfl⟩

/-- The control value of 2 rows and 32 columns of f32. -/
def ctl : Nat := 10 + 2 * 2 ^ 4 + 32 * 2 ^ 13
/-- The block has 32 tiles, tile 31 in a state; s1 holds a value. -/
def tiled (st : TileState) (c v : Nat) : State :=
  readyIn (fun g => { g with s := [(1, BitVec.ofNat 64 v)] }) fun b => { b with tiles := 32, table := [(31, { ctl := c, st := st })] }

theorem control_two : TileControl ((atOf (tiled .ready 0 ctl)).sval 1).toNat := by
  refine ⟨?_, ?_, ?_, ?_, ?_, ?_, ?_, ?_⟩ <;> decide +kernel
theorem witness_tile_configure : ∃ (s : State) (a : At) (k : Bool) (n : BitVec 5) (r : BitVec 8) (b : Block),
    AList.get? s.blocks a.g.block = some b ∧ n.toNat < b.tiles ∧ TileControl (a.sval r.toNat).toNat ∧
    AList.get? b.parked n.toNat = none ∧ ((b.tile n.toNat).st = .empty ∨ (b.tile n.toNat).st = .ready) ∧
    Free s a (.tcfg k n r) k { sr := [r.toNat] } ∧ a.g.region = none :=
  ⟨tiled .ready 0 ctl, atOf (tiled .ready 0 ctl), false, 31, 1, _, rfl, by decide, control_two, rfl, .inr rfl,
    free_of (by decide +kernel), rfl⟩
/-- The largest tile: 256 rows of 256 bytes. -/
theorem witness_tile_largest : TileControl (0 + 256 * 2 ^ 4 + 256 * 2 ^ 13 + 1 * 2 ^ 22) := by
  refine ⟨?_, ?_, ?_, ?_, ?_, ?_, ?_, ?_⟩ <;> decide +kernel
theorem witness_tile_free_empty : ∃ (s : State) (a : At) (k : Bool) (n : BitVec 5) (b : Block),
    AList.get? s.blocks a.g.block = some b ∧ n.toNat < b.tiles ∧ AList.get? b.parked n.toNat = none ∧
    Free s a (.tfree k n) k {} ∧ a.g.region = none ∧ (b.tile n.toNat).st = .empty :=
  ⟨tiled .empty 0 0, atOf (tiled .empty 0 0), true, 0, _, rfl, by decide, rfl, free_of (by decide +kernel), rfl, rfl⟩
theorem witness_tile_free_ready : ∃ (s : State) (a : At) (k : Bool) (n : BitVec 5) (b : Block),
    AList.get? s.blocks a.g.block = some b ∧ n.toNat < b.tiles ∧ AList.get? b.parked n.toNat = none ∧
    Free s a (.tfree k n) k {} ∧ a.g.region = none ∧ (b.tile n.toNat).st = .ready :=
  ⟨tiled .ready ctl 0, atOf (tiled .ready ctl 0), false, 31, _, rfl, by decide, rfl, free_of (by decide +kernel), rfl, rfl⟩
/-- The last row and column of the tile. -/
theorem witness_lanes_to_tile : ∃ (s : State) (a : At) (k : Bool) (n : BitVec 5) (r : BitVec 8) (v : BitVec 7) (b : Block)
    (row col : Nat), AList.get? s.blocks a.g.block = some b ∧ n.toNat < b.tiles ∧ (b.tile n.toNat).rows ≠ 0 ∧
    (a.sval r.toNat).toNat = row * 2 ^ 16 + col ∧ row < (b.tile n.toNat).rows ∧ col < (b.tile n.toNat).cols ∧
    ((b.tile n.toNat).st = .empty ∨ (b.tile n.toNat).st = .ready) ∧
    Free s a (.vtot k n r v) k { vr := [v.toNat], sr := [r.toNat] } ∧ a.g.region = none :=
  let s := tiled .empty ctl 0x1001F
  ⟨s, atOf s, false, 31, 1, 127, _, 1, 31, rfl, by decide, by decide +kernel, by decide +kernel, by decide +kernel,
    by decide +kernel, .inl rfl, free_of (by decide +kernel), rfl⟩
theorem witness_tile_to_lanes : ∃ (s : State) (a : At) (k : Bool) (n : BitVec 5) (r : BitVec 8) (v : BitVec 7) (b : Block)
    (row col : Nat), AList.get? s.blocks a.g.block = some b ∧ n.toNat < b.tiles ∧ (b.tile n.toNat).rows ≠ 0 ∧
    (a.sval r.toNat).toNat = row * 2 ^ 16 + col ∧ row < (b.tile n.toNat).rows ∧ col < (b.tile n.toNat).cols ∧
    ((b.tile n.toNat).st = .ready ∨ (b.tile n.toNat).st = .draining) ∧
    Free s a (.ttov k n r v) k { vw := [v.toNat], sr := [r.toNat] } ∧ a.g.region = none :=
  let s := tiled .draining ctl 0
  ⟨s, atOf s, true, 31, 1, 0, _, 0, 0, rfl, by decide, by decide +kernel, by decide +kernel, by decide +kernel,
    by decide +kernel, .inr rfl, free_of (by decide +kernel), rfl⟩
/-- What `TileFaults` asks. -/
def TileFaulty (s : State) (a : At) (i : Instr) (b : Block) (k : Bool) (u : Use) (detail n : Nat) : Prop :=
  AList.get? s.blocks a.g.block = some b ∧ tileFault a b i = some (k, u, detail, n) ∧ Free s a i k u ∧ Calm s a
theorem witness_tile_beyond : ∃ s a i b k u n, TileFaulty s a i b k u 1 n :=
  ⟨plain, atOf plain, .tfree false 0, _, false, {}, 0, rfl, rfl, free_of (by decide +kernel), calm_of (by decide +kernel)⟩
theorem witness_tile_unconfigured : ∃ s a i b k u n, TileFaulty s a i b k u 2 n :=
  let s := tiled .ready 0 0
  ⟨s, atOf s, .ttov false 31 1 0, _, false, { vw := [0], sr := [1] }, 31, rfl, rfl, free_of (by decide +kernel),
    calm_of (by decide +kernel)⟩
/-- 257 rows. -/
theorem witness_tile_control_invalid : ∃ s a i b k u n, TileFaulty s a i b k u 3 n :=
  let s := tiled .ready 0 (257 * 2 ^ 4 + 2 ^ 13)
  ⟨s, atOf s, .tcfg true 31 1, _, true, { sr := [1] }, 31, rfl, by
      simp only [tileFault]
      rw [if_neg (by decide +kernel), if_neg (by decide +kernel)]
      rfl, free_of (by decide +kernel),
    calm_of (by decide +kernel)⟩

/-! ## Engines -/

/-- What `EngineAcquire` asks. -/
def Acquires (s : State) (a : At) (k : Bool) (p : BitVec 4) (b : Block) : Prop :=
  AList.get? s.blocks a.g.block = some b ∧ Free s a (.macq k p) k {} ∧ a.g.region = none
/-- Engine n of a block's home core. -/
def engineOf (s : State) (b : Block) (n : Nat) : Engine := AList.getD (AList.getD s.cores (b.chip, b.span.headD 0) {}).engines n {}
theorem witness_engine_free : ∃ s a k p b, Acquires s a k p b ∧ b.engineHeld = false ∧ (engineOf s b 0).block = none :=
  ⟨plain, atOf plain, false, 11, _, ⟨rfl, free_of (by decide +kernel), rfl⟩, rfl, rfl⟩
/-- The block holds engine 3. -/
def holding : State := { readyIn id (fun b => { b with engine := some 3, engineHeld := true }) with
  cores := [((0, 0), { engines := [(3, { block := some 0 })] })] }
theorem witness_engine_held : ∃ s a k p b, Acquires s a k p b ∧ b.engineHeld = true :=
  ⟨holding, atOf holding, true, 0, _, ⟨rfl, free_of (by decide +kernel), rfl⟩, rfl⟩
/-- Other blocks hold all four engines. -/
def engineless : State := { plain with cores := [((0, 0), { engines := [0, 1, 2, 3].map fun n => (n, { block := some (9 + n) }) })] }
theorem witness_engine_none : ∃ s a k p b, Acquires s a k p b ∧ b.engineHeld = false ∧ ∀ n, n < 4 → (engineOf s b n).block ≠ none :=
  ⟨engineless, atOf engineless, false, 0, _, ⟨rfl, free_of (by decide +kernel), rfl⟩, rfl, by decide +kernel⟩
theorem witness_engine_release : ∃ (s : State) (a : At) (k : Bool) (b : Block), AList.get? s.blocks a.g.block = some b ∧
    a.g.region = none ∧ Free s a (.mrel k) k {} ∧ ∃ n, b.engine = some n ∧ (engineOf s b n).ops = [] :=
  ⟨holding, atOf holding, false, _, rfl, rfl, free_of (by decide +kernel), 3, rfl, rfl⟩
/-- A block of two groups, and s1 with the list of groups 0 and 1. -/
def quorum : State := readyIn (fun g => { g with s := [(1, BitVec.ofNat 64 (2 + 0 * 2 ^ 3 + 1 * 2 ^ 10))] }) fun b => { b with bgroups := 2 }
theorem witness_quorum : ∃ (s : State) (a : At) (k : Bool) (b : Block) (r : BitVec 8) (gids : List Nat),
    AList.get? s.blocks a.g.block = some b ∧ a.g.region = none ∧
    (a.sval r.toNat).toNat = gids.length + gids.foldr (fun x acc => (x + acc) * 2 ^ 7) 0 / 2 ^ 4 ∧ gids.length < 7 ∧ gids.Nodup ∧
    (∀ x ∈ gids, x < b.bgroups ∧ x < 2 ^ 7) ∧ (2 ≤ gids.length → a.g.gid ∈ gids) ∧ Free s a (.mquor k r) k { sr := [r.toNat] } :=
  ⟨quorum, atOf quorum, false, _, 1, [0, 1], rfl, rfl, by decide +kernel, by decide, by decide, by decide +kernel, fun _ => by decide +kernel,
    free_of (by decide +kernel)⟩

/-! ## Batches -/

/-- The group has n sealed batches of class 1, and an error recorded or not. -/
def sealing (n : Nat) (err : Bool) : State := ready fun g => { g with
  batches := [(1, { sealed := (List.range n).map fun i => (i + 1, []), seals := n, error := { err := err } })] }
theorem witness_seal : ∃ (s : State) (a : At) (k : Bool) (c : BitVec 2), Free s a (.seal k c) k {} ∧ a.g.region = none ∧
    (AList.getD a.g.batches c.toNat {}).sealed.length < 15 :=
  ⟨sealing 14 false, atOf (sealing 14 false), false, 1, free_of (by decide +kernel), rfl, by decide +kernel⟩
theorem witness_seal_waits : ∃ (s : State) (a : At) (k : Bool) (c : BitVec 2), Free s a (.seal k c) k {} ∧ a.g.region = none ∧
    15 ≤ (AList.getD a.g.batches c.toNat {}).sealed.length :=
  ⟨sealing 15 false, atOf (sealing 15 false), true, 1, free_of (by decide +kernel), rfl, by decide +kernel⟩
/-- What `WaitBatch` asks. -/
def Waits (s : State) (a : At) (k : Bool) (c : BitVec 2) (n : BitVec 4) : Prop := Free s a (.waitb k c n) k {} ∧ a.g.region = none
theorem witness_waitb : ∃ s a k c n, Waits s a k c n ∧ (AList.getD a.g.batches c.toNat {}).sealed.length ≤ n.toNat ∧
    (AList.getD a.g.batches c.toNat {}).error.err = false :=
  ⟨sealing 15 false, atOf (sealing 15 false), false, 1, 15, ⟨free_of (by decide +kernel), rfl⟩, by decide +kernel, rfl⟩
theorem witness_waitb_error : ∃ s a k c n, Waits s a k c n ∧ (AList.getD a.g.batches c.toNat {}).sealed.length ≤ n.toNat ∧
    (AList.getD a.g.batches c.toNat {}).error.err = true ∧ Calm s a :=
  ⟨sealing 0 true, atOf (sealing 0 true), false, 1, 0, ⟨free_of (by decide +kernel), rfl⟩, by decide +kernel, rfl, calm_of (by decide +kernel)⟩
theorem witness_waitb_waits : ∃ s a k c n, Waits s a k c n ∧ n.toNat < (AList.getD a.g.batches c.toNat {}).sealed.length :=
  ⟨sealing 1 true, atOf (sealing 1 true), true, 1, 0, ⟨free_of (by decide +kernel), rfl⟩, by decide +kernel⟩
theorem witness_template_write : ∃ (s : State) (a : At) (k : Bool) (n : BitVec 4) (r : BitVec 8) (b : Block),
    AList.get? s.blocks a.g.block = some b ∧ Template.valid ((List.range 8).map fun i => a.sval (r.toNat + i)) = true ∧
    (∀ y ∈ (b.settled s.cycle).templateNext, y.1 = n.toNat → y.2.1 ≤ a.g.gid) ∧
    Free s a (.cpyt k n r) k { sr := (List.range 8).map fun i => r.toNat + i } ∧ a.g.region = none :=
  let s := ready fun g => { g with s := [(185, 1)] }
  ⟨s, atOf s, false, 15, 184, _, rfl, by decide +kernel, by decide +kernel, free_of (by decide +kernel), rfl⟩

/-! ## Barriers and the rotation -/

/-- Barrier 15 with one member, group 0, of which some lanes have arrived. -/
def oneMember (am : LaneMask) : Barrier := { mem := 1, rem := 1, members := [0], am := [((0, 0), am)] }
/-- The block's barrier 15 as given; the group may hold a token of it, and the fragment has some lanes and a wait. -/
def barring (x : Barrier) (token : Option Bool) (ls : LaneMask) (wait : Option Wait) : State :=
  readyIn (fun g => { g with tokens := token.toList.map (fun p => ((1, 15), p))
                             entries := [(0, { pc := 0x10000, refill := some 0, lanes := ls, wait := wait })] }) fun b =>
    { b with bars := [(15, x)] }
/-- Such a barrier of one member, some lanes of which have arrived, and a fragment that waits for nothing. -/
def barred (token : Option Bool) (am ls : LaneMask) : State := barring (oneMember am) token ls none
theorem member_of {s : State} {b : Barrier} (h1 : barrierOf s (atOf s).g.block (atOf s).g.gid 1 15 = some b)
    (h2 : slotOf s (atOf s).g.block (atOf s).g.gid = some (atOf s).r) (h3 : (atOf s).g.gid ∈ b.members) (h4 : b.mem ≠ 0)
    (h5 : (atOf s).g.handler = none) : Member s (atOf s) 1 15 b :=
  { here := h1, slot := h2, level := fun h => absurd h (by decide), unit := fun _ => h3, present := h4, normal := h5 }
theorem drained_of {s : State} {a : At} (h1 : a.g.ops = []) (h2 : a.g.releasing = none) (h3 : a.g.wrote = []) (h4 : s.waiting = [])
    (h5 : s.directory = []) : Drained s a := ⟨h1, h2, h3, by simp [h4], by simp [h5]⟩

/-- What `BarrierArrive` and the first clause of `BarrierMeet` ask, the word apart. -/
def Arrives (s : State) (a : At) (l : BitVec 2) (i : BitVec 4) (b : Barrier) : Prop :=
  Member s a l.toNat i.toNat b ∧ a.e.wait = none ∧ a.e.lanes &&& AList.getD b.am (a.g.block, a.g.gid) 0 = 0 ∧ Drained s a ∧
    a.g.region = none
/-- Lane 0 alone arrives: the phase goes on. -/
theorem witness_barrier_arrive : ∃ s a k l i b, Arrives s a l i b ∧ Free s a (.bara k l i) k {} :=
  let s := barred none 0 1
  ⟨s, atOf s, false, 1, 15, oneMember 0, ⟨member_of rfl rfl (by decide +kernel) (by decide) rfl, rfl,
    by decide +kernel, drained_of rfl rfl rfl rfl rfl, rfl⟩, free_of (by decide +kernel)⟩
/-- The last lanes' arrival ends the phase. -/
theorem witness_barrier_meet : ∃ s a k l i b, Arrives s a l i b ∧ Free s a (.bar k l i) k {} ∧ (arrivedAt s a l.toNat b).ph ≠ b.ph :=
  let s := barred none 0xFFFFFFFE 1
  ⟨s, atOf s, true, 1, 15, oneMember 0xFFFFFFFE, ⟨member_of rfl rfl (by decide +kernel) (by decide) rfl, rfl,
    by decide +kernel, drained_of rfl rfl rfl rfl rfl, rfl⟩, free_of (by decide +kernel), by decide +kernel⟩
/-- What the last clause of `BarrierMeet` asks. -/
def Meets (s : State) (a : At) (k : Bool) (l : BitVec 2) (i : BitVec 4) (b : Barrier) (ph : Bool) : Prop :=
  Member s a l.toNat i.toNat b ∧ Free s a (.bar k l i) k {} ∧ a.g.region = none ∧ a.e.wait = some (.barrier l.toNat i.toNat ph)
/-- The barrier whose first phase ended in cycle c. -/
def turned (c : Nat) : Barrier := { oneMember 0 with ph := true, doneAt := some c }
/-- The fragment waits for the phase that ended a cycle ago. -/
theorem witness_barrier_met : ∃ s a k l i b ph, Meets s a k l i b ph ∧ b.ph ≠ ph ∧ b.doneAt ≠ some s.cycle :=
  let s : State := { barring (turned 0) (some false) 1 (some (.barrier 1 15 false)) with cycle := 1 }
  ⟨s, atOf s, true, 1, 15, turned 0, false, ⟨member_of rfl rfl (by decide +kernel) (by decide) rfl,
    free_of (s := { barring (turned 0) (some false) 1 (some (.barrier 1 15 false)) with cycle := 1 }) (by decide +kernel), rfl, rfl⟩,
    by decide, by decide +kernel⟩
/-- It waits for the one that ends in this cycle. -/
theorem witness_barrier_meet_waits : ∃ s a k l i b ph, Meets s a k l i b ph ∧ b.doneAt = some s.cycle :=
  let s := barring (turned 0) (some false) 1 (some (.barrier 1 15 false))
  ⟨s, atOf s, false, 1, 15, turned 0, false, ⟨member_of rfl rfl (by decide +kernel) (by decide) rfl, free_of (by decide +kernel), rfl, rfl⟩, rfl⟩
/-- It waits for the one that lasts. -/
theorem witness_barrier_meet_lasts : ∃ s a k l i b ph, Meets s a k l i b ph ∧ b.ph = ph :=
  let s := barring (oneMember 1) (some false) 1 (some (.barrier 1 15 false))
  ⟨s, atOf s, false, 1, 15, oneMember 1, false, ⟨member_of rfl rfl (by decide +kernel) (by decide) rfl, free_of (by decide +kernel), rfl, rfl⟩, rfl⟩
/-- What `BarrierWaitQuery` asks of `barw`. -/
def Awaits (s : State) (a : At) (k : Bool) (l : BitVec 2) (i : BitVec 4) (b : Barrier) : Prop :=
  Member s a l.toNat i.toNat b ∧ a.g.region = none ∧ Free s a (.barw k l i) k {} ∧ a.e.wait = none
/-- The token of the phase that lasts, with the fragment's lanes arrived. -/
theorem witness_barrier_wait : ∃ s a k l i b, Awaits s a k l i b ∧ AList.get? a.g.tokens (l.toNat, i.toNat) = some b.ph ∧
    a.e.lanes &&& ~~~AList.getD b.am (a.g.block, a.g.gid) 0 = 0 :=
  let s := barred (some false) 1 1
  ⟨s, atOf s, false, 1, 15, oneMember 1, ⟨member_of rfl rfl (by decide +kernel) (by decide) rfl, rfl, free_of (by decide +kernel), rfl⟩, rfl,
    by decide +kernel⟩
theorem witness_barrier_tokenless : ∃ s a k l i b, Awaits s a k l i b ∧ AList.get? a.g.tokens (l.toNat, i.toNat) = none :=
  let s := barred none 0 1
  ⟨s, atOf s, false, 1, 15, oneMember 0, ⟨member_of rfl rfl (by decide +kernel) (by decide) rfl, rfl, free_of (by decide +kernel), rfl⟩, rfl⟩
/-- The token of a phase that has ended in another cycle. -/
theorem witness_barrier_passed : ∃ s a k l i b, Awaits s a k l i b ∧ AList.get? a.g.tokens (l.toNat, i.toNat) ≠ some b.ph ∧
    b.doneAt ≠ some s.cycle :=
  let s := barring (turned 9) (some false) 1 none
  ⟨s, atOf s, true, 1, 15, turned 9, ⟨member_of rfl rfl (by decide +kernel) (by decide) rfl, rfl, free_of (by decide +kernel), rfl⟩,
    by decide +kernel, by decide +kernel⟩
theorem witness_barrier_query : ∃ (s : State) (a : At) (k : Bool) (l : BitVec 2) (i : BitVec 4) (b : Barrier) (d : BitVec 8),
    Member s a l.toNat i.toNat b ∧ a.g.region = none ∧ Free s a (.barq k l i d) k { sw := [d.toNat] } :=
  let s := barred (some true) 0 1
  ⟨s, atOf s, true, 1, 15, oneMember 0, 191, member_of rfl rfl (by decide +kernel) (by decide) rfl, rfl, free_of (by decide +kernel)⟩
/-- What `BarrierTwice` asks. -/
def ArrivesTwice (s : State) (a : At) (k : Bool) (l : BitVec 2) (i : BitVec 4) (b : Barrier) (j : Instr) : Prop :=
  (j = .bar k l i ∨ j = .bara k l i) ∧ Member s a l.toNat i.toNat b ∧ Free s a j k {} ∧ a.g.region = none
/-- Lane 31 has arrived and arrives again. -/
theorem witness_barrier_twice : ∃ s a k l i b j, ArrivesTwice s a k l i b j ∧ a.e.wait = none ∧
    a.e.lanes &&& AList.getD b.am (a.g.block, a.g.gid) 0 ≠ 0 :=
  let s := barred none 0x80000000 0xFFFFFFFF
  ⟨s, atOf s, true, 1, 15, oneMember 0x80000000, .bara true 1 15, ⟨.inr rfl, member_of rfl rfl (by decide +kernel) (by decide) rfl,
    free_of (by decide +kernel), rfl⟩, rfl, by decide +kernel⟩
/-- Its attempt was in cycle 7, in which the phase went on. -/
theorem witness_barrier_twice_faults : ∃ s a k l i b j, ArrivesTwice s a k l i b j ∧ ∃ c, a.e.wait = some (.double c) ∧ c ≠ s.cycle ∧
    b.doneAt ≠ some c ∧ Calm s a :=
  let s := barring (oneMember 1) none 1 (some (.double 7))
  ⟨s, atOf s, false, 1, 15, oneMember 1, .bar false 1 15, ⟨.inl rfl, member_of rfl rfl (by decide +kernel) (by decide) rfl,
    free_of (by decide +kernel), rfl⟩, 7, rfl, by decide +kernel, by decide, calm_of (by decide +kernel)⟩

theorem witness_yield : ∃ (s : State) (a : At) (k : Bool) (h : s.memWf), Free s a (.yield k) k {} ∧ HasRoom a {} ∧ a.g.st = .active ∧
    (machine s h).oldestReady a.r.chip a.r.core (a.r.slot % 4) = none :=
  ⟨plain, atOf plain, false, by decide +kernel, free_of (by decide +kernel), room_of rfl, rfl, by decide +kernel⟩
/-- 31 more ACTIVE groups of sub-datapath 0 and one RESIDENT group that is ready, in slot 128. -/
def crowd : AList GroupRef Group :=
  (List.range 31).map (fun n => ({ chip := 0, core := 0, slot := 4 * (n + 1) }, { fetchGroup 0 with gid := n + 1 })) ++
    [({ chip := 0, core := 0, slot := 128 }, { fetchGroup 0 with st := .resident, gid := 40, readySince := some 0 })]
/-- All the places of the sub-datapath are taken. -/
def crowded : State := { plain with groups := plain.groups ++ crowd }
theorem witness_yield_gives_way : ∃ (s : State) (a : At) (k : Bool) (h : s.memWf), Free s a (.yield k) k {} ∧ HasRoom a {} ∧
    a.g.st = .active ∧ 32 ≤ ((machine s h).activeGroups a.r.chip a.r.core (a.r.slot % 4)).length ∧
    ∃ x, (machine s h).oldestReady a.r.chip a.r.core (a.r.slot % 4) = some x ∧ x.1 ≠ a.r := by
  refine ⟨crowded, atOf crowded, true, by decide +kernel, free_of (by decide +kernel), room_of rfl, rfl, by decide +kernel, ?_⟩
  have h : ((machine crowded (by decide +kernel)).oldestReady 0 0 0).map Prod.fst = some { chip := 0, core := 0, slot := 128 } := by
    decide +kernel
  obtain ⟨x, hx, hr⟩ := Option.map_eq_some_iff.1 h
  exact ⟨x, hx, by rw [hr]; decide +kernel⟩
theorem witness_fence : ∃ (s : State) (a : At) (k : Bool), Free s a (.fence k) k {} ∧ a.g.region = none ∧ Drained s a :=
  ⟨plain, atOf plain, false, free_of (by decide +kernel), rfl, drained_of rfl rfl rfl rfl rfl⟩

/-! ## regrp -/

/-- The block's one group has arrived with lanes 0 and 31 live. -/
def gathering : State := readyIn
  (fun g => { g with live := 0x80000001, entries := [(0, { pc := 0x10000, refill := some 0, lanes := 0x80000001, wait := some .regroup })] })
  fun b => { b with arrived := [0] }
theorem witness_regroup : ∃ (s : State) (a : At) (k : Bool) (b : Block), AList.get? s.blocks a.g.block = some b ∧ b.bgroups = 1 ∧
    AList.get? b.slots 0 = some a.r ∧ a.g.gid ∈ b.arrived ∧ a.g.live ≠ 0 ∧ a.g.batchesDone = true ∧ a.g.ops = [] ∧
    a.g.entries = [(a.ei, a.e)] ∧ a.e.wait = some .regroup ∧ a.g.st = .active ∧ Free s a (.regrp k) k {} ∧ a.g.region = none :=
  ⟨gathering, atOf gathering, false, _, rfl, rfl, rfl, by decide +kernel, by decide +kernel, by decide +kernel, rfl, rfl, rfl, rfl,
    free_of (by decide +kernel), rfl⟩
/-- A HOLLOW entry stands beside the issuing one. -/
def hollow : State := ready fun g => { g with entries := g.entries ++ [(31, { st := .hollow, lanes := 0 })] }
theorem witness_regroup_needs_one : ∃ (s : State) (a : At) (k : Bool) (j : Nat) (e' : Entry), j ≠ a.ei ∧
    AList.get? a.g.entries j = some e' ∧ a.e.wait ≠ some .regroup ∧ Free s a (.regrp k) k {} ∧ Calm s a ∧ e'.st = .hollow :=
  ⟨hollow, atOf hollow, false, 31, _, by decide +kernel, rfl, by decide +kernel, free_of (by decide +kernel), calm_of (by decide +kernel), rfl⟩

end Sys2Proof.Tests
end

