-- ==== Sys2Proof/Tests/ContextWitness.lean ====
section
/-! SUPPORT. Witnesses: for each statement about contexts, queues, launches and placement, a concrete state and operands that
meet all its hypotheses. -/
namespace Sys2Proof.Tests
set_option Elab.async false
open Sys2Proof.Machine Sys2Proof.Statement

/-! ## Contexts -/

/-- Package 0 with its four chips READY. -/
def powered : AList Nat Chip := [(0, { power := .ready }), (1, { power := .ready }), (2, { power := .ready }), (3, { power := .ready })]
/-- Context slot 63 of package 0 in a given state, nothing else but the memory given. -/
def slotIn (x : ContextState) (mem : Memory) : State :=
  { State.reset with chips := powered, contexts := [((0, 63), { st := x, scratch := 5 })], mem := mem }
/-- A descriptor at 0x20000 of one queue and versions 1 to 1. -/
def descriptor : Memory := [(0x2002C, 1), (0x20058, 1), (0x20059, 1), (0x2005A, 1), (0x2005B, 1), (0x2005C, 1), (0x2005D, 1)]
/-- What the command statements ask. -/
def Commanded (s : State) (pkg slot : Nat) (h : s.memWf) : Prop :=
  s.missing = false ∧ (machine s h).packageReady pkg = true ∧ slot < 64
theorem empty_wf : memoryWf [] = true := by decide
theorem witness_create : ∃ s pkg slot h, Commanded s pkg slot h ∧ (slotAt s pkg slot).st = .free :=
  ⟨slotIn .free [], 0, 63, empty_wf, ⟨rfl, by decide +kernel, by decide⟩, rfl⟩
theorem witness_create_again : ∃ s pkg slot h, Commanded s pkg slot h ∧ (slotAt s pkg slot).st ≠ .free :=
  ⟨slotIn .scrubbing [], 0, 63, empty_wf, ⟨rfl, by decide +kernel, by decide⟩, by decide⟩
/-- What `ContextBound` asks. -/
def Binds (s : State) (pkg slot addr : Nat) (h : s.memWf) : Prop := Commanded s pkg slot h ∧
  (machine s h).auditStalls pkg = false ∧ (slotAt s pkg slot).st = .building ∧ anyCell pkg addr ≠ none
theorem witness_bind : ∃ s pkg slot addr h, Binds s pkg slot addr h ∧ bindStatus (machine s h) pkg addr = .ok :=
  ⟨slotIn .building descriptor, 0, 63, 0x20000, by decide +kernel,
    ⟨⟨rfl, by decide +kernel, by decide⟩, by decide +kernel, rfl, by decide +kernel⟩, by decide +kernel⟩
theorem witness_bind_version : ∃ s pkg slot addr h, Binds s pkg slot addr h ∧ bindStatus (machine s h) pkg addr = .version :=
  ⟨slotIn .building [(0x2002C, 64)], 0, 63, 0x20000, by decide +kernel,
    ⟨⟨rfl, by decide +kernel, by decide⟩, by decide +kernel, rfl, by decide +kernel⟩, by decide +kernel⟩
theorem witness_bind_bad : ∃ s pkg slot addr h, Binds s pkg slot addr h ∧ bindStatus (machine s h) pkg addr = .badDesc :=
  ⟨slotIn .building [(0x2002C, 65)], 0, 63, 0x20000, by decide +kernel,
    ⟨⟨rfl, by decide +kernel, by decide⟩, by decide +kernel, rfl, by decide +kernel⟩, by decide +kernel⟩
theorem witness_suspend : ∃ s pkg slot h, Commanded s pkg slot h ∧ (slotAt s pkg slot).st = .running ∧
    ∃ n k, AList.get? s.clusters n = some k ∧ pkgOf k.chip = pkg ∧ k.ctx = slot ∧ k.st ≠ .saved :=
  ⟨{ slotIn .running [] with clusters := [(9, { ctx := 63, chip := 3 })] }, 0, 63, empty_wf, ⟨rfl, by decide +kernel, by decide⟩, rfl,
    9, _, rfl, rfl, rfl, by decide⟩
theorem witness_resume : ∃ s pkg slot h, Commanded s pkg slot h ∧ (slotAt s pkg slot).st = .preempted ∧
    ∀ l ∈ s.launches, pkgOf l.2.chip = pkg → l.2.st ≠ .pending ∧ (l.2.st = .running → l.2.retired ≠ l.2.record.blocks) :=
  ⟨slotIn .preempted [], 0, 63, empty_wf, ⟨rfl, by decide +kernel, by decide⟩, rfl, fun _ h => (by cases h)⟩
theorem witness_release_building : ∃ s pkg slot h, Commanded s pkg slot h ∧ (slotAt s pkg slot).st = .building :=
  ⟨slotIn .building [], 0, 63, empty_wf, ⟨rfl, by decide +kernel, by decide⟩, rfl⟩
theorem witness_release : ∃ s pkg slot h, Commanded s pkg slot h ∧ (slotAt s pkg slot).st = .running ∧
    (∀ x ∈ s.copies, ¬(pkgOf x.2.chip = pkg ∧ x.2.ctx = slot)) ∧
    ∃ r g, AList.get? s.groups r = some g ∧ pkgOf r.chip = pkg ∧ g.ctx = slot ∧ g.region = none ∧ g.turnWait = none :=
  ⟨{ slotIn .running [] with groups := [(r0, { fetchGroup 0 with ctx := 63 })] }, 0, 63, empty_wf, ⟨rfl, by decide +kernel, by decide⟩, rfl,
    fun _ h => (by cases h), r0, _, rfl, rfl, rfl, rfl, rfl⟩
/-- Chip 2's seat of context 63, its region of 1 GiB at 2^30 with one byte in it. -/
def seated63 : State := { slotIn .draining [(2 * 2 ^ 48 + 2 ^ 30, 9)] with
  chips := AList.put powered 2 { power := .ready, seat := { cfg := BitVec.ofNat 64 (63 * 2 ^ 40 + 0x101), base := BitVec.ofNat 64 (2 * 2 ^ 48 + 2 ^ 30), st := .live } } }
theorem witness_drain_end : ∃ (s : State) (pkg slot : Nat) (h : s.memWf), s.missing = false ∧ (s.groups.map Prod.fst).Nodup ∧
    (slotAt s pkg slot).st = .draining ∧ (machine s h).drained pkg slot = true ∧
    (∀ x ∈ s.groups, pkgOf x.1.chip = pkg → x.2.ctx = slot → x.2.ops = []) ∧
    (∀ x ∈ s.directory, ¬(pkgOf x.writer = pkg ∧ x.ctx = slot)) ∧
    (∀ k, k ∈ chipsOf pkg ∧ (chipAt s k).seat.st ≠ .off ∧ (chipAt s k).seat.ctx = slot → ∃ x, Seat.region (chipAt s k).seat k = some x ∧
      (chipAt s k).seat.base.toNat % 2 ^ 48 + x.2 ≤ hbmBytes) ∧
    2 ∈ chipsOf pkg ∧ (chipAt s 2).seat.st ≠ .off ∧ (chipAt s 2).seat.ctx = slot ∧ readCell s.mem (2 * 2 ^ 48 + 2 ^ 30) ≠ 0 := by
  refine ⟨seated63, 0, 63, by decide +kernel, rfl, by decide, rfl, by decide +kernel, fun _ h => (by cases h), fun _ h => (by cases h),
    fun k h => ?_, by decide, by decide +kernel, by decide +kernel, by decide +kernel⟩
  obtain ⟨h1, h2, h3⟩ := h
  have : k = 0 ∨ k = 1 ∨ k = 2 ∨ k = 3 := by simpa [chipsOf, upTo] using h1
  rcases this with rfl | rfl | rfl | rfl
  · exact absurd h2 (by decide +kernel)
  · exact absurd h2 (by decide +kernel)
  · exact ⟨(2 * 2 ^ 48 + 2 ^ 30, 2 ^ 30), by decide +kernel, by decide +kernel⟩
  · exact absurd h2 (by decide +kernel)
/-- What `ContextScrubbed` asks. -/
def Scrubs (s : State) (chip slot : Nat) (h : s.memWf) : Prop := s.missing = false ∧ chip < 2 ^ 20 ∧ slot < 64 ∧
  (slotAt s (pkgOf chip) slot).st = .scrubbing ∧ chip ∉ (slotAt s (pkgOf chip) slot).scrubbed ∧
  (machine s h).auditStalls (pkgOf chip) = false
theorem witness_scrub_first : ∃ s chip slot h, Scrubs s chip slot h ∧ (slotAt s (pkgOf chip) slot).scrubbed.length < 3 :=
  ⟨slotIn .scrubbing [(2 ^ 61 + 63 * 2 ^ 30 + 7, 1)], 0, 63, by decide +kernel,
    ⟨rfl, by decide, by decide, rfl, by decide +kernel, by decide +kernel⟩, by decide +kernel⟩
theorem witness_scrub_last : ∃ s chip slot h, Scrubs s chip slot h ∧ ¬(slotAt s (pkgOf chip) slot).scrubbed.length < 3 :=
  ⟨{ slotIn .scrubbing [] with contexts := [((0, 63), { st := .scrubbing, scrubbed := [0, 3, 1] })] }, 2, 63, empty_wf,
    ⟨rfl, by decide, by decide, rfl, by decide +kernel, by decide +kernel⟩, by decide +kernel⟩

/-! ## Queues -/

/-- A queue's QCFG: EN, context 63, its ring of 16 records at 0x1_0000. -/
def qcfg : DWord := 0x3F00000000010001
/-- The CLD's translation of that page. -/
def cldLeaf : TlbEntry := { chip := 0, core := 96, ctx := 63, base := 0x10000, bits := 16, leaf := 0x1001F, aperture := none }
/-- Package 0 with a queue 255 of chip 0 and a bound context 63 of one hardware cluster. -/
def queued (q : Queue) (mem : Memory) : State := { State.reset with
  chips := AList.put powered 0 { power := .ready, queues := [(255, q)] }
  contexts := [((0, 63), { st := .bound, queues := 1, part := 1, scratch := 2 ^ 21 })], tlb := [cldLeaf], links := [((0, 0x10), { st := .up })], mem := mem }
theorem queued_wf (q : Queue) : (queued q []).memWf := empty_wf
/-- What `QueueSwitches` asks of an enable. -/
def Enables (s : State) (chip q : Nat) (v : DWord) (h : s.memWf) (refused : Bool) : Prop := s.missing = false ∧ q < 256 ∧
  (machine s h).barReach chip = .live ∧ v.getLsbD 0 = true ∧ (queueAt s chip q).en = false ∧
  (machine s h).queueRefused chip q { queueAt s chip q with cfg := v &&& 0x3FFFFFFFFFFFFFFF } = refused
theorem witness_queue_enable : ∃ s chip q v h, Enables s chip q v h false :=
  ⟨queued {} [], 0, 255, qcfg, empty_wf, rfl, by decide, rfl, by decide, by decide +kernel, by decide +kernel⟩
theorem witness_queue_refused : ∃ s chip q v h, Enables s chip q v h true :=
  ⟨queued {} [], 0, 255, qcfg + 13 * 4, empty_wf, rfl, by decide, rfl, by decide, by decide +kernel, by decide +kernel⟩
theorem witness_queue_disable : ∃ (s : State) (chip q : Nat) (v : DWord) (h : s.memWf), s.missing = false ∧ q < 256 ∧
    (machine s h).barReach chip = .live ∧
    v.getLsbD 0 = false ∧ (queueAt s chip q).en = true :=
  ⟨queued { cfg := qcfg } [], 0, 255, 0, empty_wf, rfl, by decide, rfl, by decide, by decide +kernel⟩
theorem witness_doorbell : ∃ (s : State) (chip q : Nat) (v : DWord) (h : s.memWf), s.missing = false ∧ q < 256 ∧
    (machine s h).barReach chip = .live ∧ (machine s h).packageReady (pkgOf chip) = true ∧ (queueAt s chip q).dev = false ∧
    (∀ l ∈ s.launches, l.2.chip = chip → l.2.st ≠ .pending) ∧ (queueAt s chip q).ring < v.toNat :=
  ⟨queued { cfg := qcfg } [], 0, 255, 17, empty_wf, rfl, by decide, rfl, by decide +kernel, by decide +kernel, fun _ h => (by cases h),
    by decide +kernel⟩
theorem witness_doorbell_device : ∃ (s : State) (chip q : Nat) (_ : DWord) (h : s.memWf), s.missing = false ∧ q < 256 ∧
    (machine s h).barReach chip = .live ∧ (machine s h).packageReady (pkgOf chip) = true ∧ (queueAt s chip q).dev = true :=
  ⟨queued { cfg := qcfg + 2 } [], 0, 255, 17, empty_wf, rfl, by decide, rfl, by decide +kernel, by decide +kernel⟩
/-- What a unit's read answers, as bytes. -/
def bytesIn (x : Got) : List Byte := match x with
  | .bytes bs => bs
  | _ => []
/-- Whether it answers bytes. -/
def isBytes (x : Got) : Bool := match x with
  | .bytes _ => true
  | _ => false
theorem bytes_of {x : W × Got} (h : isBytes x.2 = true) : x = (x.1, .bytes (bytesIn x.2)) := by
  obtain ⟨w, g⟩ := x
  cases g <;> first | rfl | cases h
/-- The record of one group in one block, of one register, whose completion counter is at `sig` and whose event modes are as
given. -/
def record1 (sig : List Byte) (events : List Byte) : LaunchRecord :=
  { bytes := List.replicate 16 0 ++ [1, 0, 0, 0, 1, 0, 1, 0, 1, 1, 1] ++ List.replicate 85 0 ++ sig ++ events ++ [0, 0, 1, 1, 0, 0] }
/-- That record in memory at 0x1_0000, no signal. -/
def recorded : Memory := [(0x10010, 1), (0x10014, 1), (0x10016, 1), (0x10018, 1), (0x10019, 1), (0x1001A, 1), (0x1007C, 1), (0x1007D, 1)]
/-- The read of the record at 0x1_0000. -/
def readAt (s : State) (h : s.memWf) : W × Got := (machine s h).unitRead 0 63 0x10000 16
/-- What `RecordChecked` asks. -/
def Checks (s : State) (chip q : Nat) (w1 w2 : W) (bs : List Byte) (c : RecordCheck) (h : s.memWf) : Prop :=
  s.missing = false ∧ (queueAt s chip q).en = true ∧ (queueAt s chip q).stop = false ∧
  (machine s h).launchOpen chip (queueAt s chip q).ctx = true ∧ (queueAt s chip q).launches.length < 16 ∧ (queueAt s chip q).fill ≠ 0 ∧
  (machine s h).unitRead chip (queueAt s chip q).ctx
    (BitVec.ofNat 64 ((queueAt s chip q).base + 128 * ((queueAt s chip q).head.toNat % (queueAt s chip q).ring))) 16 = (w1, .bytes bs) ∧
  w1.checkRecord chip chip (queueAt s chip q).ctx { bytes := bs } (queueAt s chip q).dev = (w2, c) ∧ w2.s.missing = false
/-- A queue with a record to read. -/
def rung : Queue := { cfg := qcfg, tail := 1 }
/-- The check of that record. -/
def checkAt (s : State) (h : s.memWf) : W × RecordCheck :=
  (readAt s h).1.checkRecord 0 0 63 { bytes := bytesIn (readAt s h).2 } false
theorem recorded_wf : (queued rung recorded).memWf := by
  show memoryWf recorded = true
  decide +kernel
theorem witness_record : ∃ s chip q w1 w2 bs c h, Checks s chip q w1 w2 bs c h ∧ (∃ ps, c = .ok ps) ∧
    LaunchRecord.field { bytes := bs } 0x50 8 = 0 ∧ LaunchRecord.field { bytes := bs } 0x60 8 = 0 ∧ AList.get? s.launches s.serial = none := by
  refine ⟨queued rung recorded, 0, 255, (readAt _ recorded_wf).1, (checkAt _ recorded_wf).1, bytesIn (readAt _ recorded_wf).2,
    (checkAt _ recorded_wf).2, recorded_wf, ⟨rfl, by decide +kernel, by decide +kernel, by decide +kernel, by decide +kernel,
      by decide +kernel, bytes_of (by decide +kernel), rfl, by decide +kernel⟩, ⟨[], by decide +kernel⟩, by decide +kernel, by decide +kernel, rfl⟩
theorem witness_record_bad : ∃ s chip q w1 w2 bs c h, Checks s chip q w1 w2 bs c h ∧ c = .badRec :=
  ⟨queued rung [], 0, 255, (readAt _ (queued_wf rung)).1, (checkAt _ (queued_wf rung)).1, bytesIn (readAt _ (queued_wf rung)).2,
    (checkAt _ (queued_wf rung)).2, queued_wf rung, ⟨rfl, by decide +kernel, by decide +kernel, by decide +kernel, by decide +kernel,
      by decide +kernel, bytes_of (by decide +kernel), rfl, by decide +kernel⟩, by decide +kernel⟩

/-! ## Launches -/

/-- The launch of queue 255 of chip 0 for context 63. -/
def launch1 (x : LaunchRecord) : Launch := { ctx := 63, chip := 0, queue := 255, record := x, met0 := true }
/-- A state with that launch alone. -/
def launched (l : Launch) (mem : Memory) : State :=
  { queued { cfg := qcfg, tail := 1, head := 1, launches := [7] } mem with launches := [(7, l)] }
theorem launched_wf (l : Launch) : (launched l []).memWf := empty_wf
/-- What `WaitsEvaluated` asks. -/
def WaitsFor (s : State) (n : Nat) (l : Launch) (w : W) (m : Option Bool) (h : s.memWf) : Prop := s.missing = false ∧ s.launches = [(n, l)] ∧
  (queueAt s l.chip l.queue).launches = [n] ∧ l.st = .pending ∧ l.met0 = true ∧ l.met1 = false ∧ l.drain = none ∧
  (machine s h).launchOpen l.chip l.ctx = true ∧
  (machine s h).waitMet l (l.record.field 0x60 8) (l.record.field 0x68 8) = (w, m) ∧ w.s.missing = false
/-- The record whose second wait is on the counter at an address, from a threshold. -/
def waiting1 (at' : List Byte) (threshold : Byte) : LaunchRecord :=
  { bytes := List.replicate 96 0 ++ at' ++ [threshold] ++ List.replicate 23 0 }
/-- The launch that waits for the counter at scratch offset 8. -/
def waitsFor (threshold : Byte) : Launch := launch1 (waiting1 [8, 0, 0, 0, 0, 0, 0, 0x20] threshold)
/-- The evaluation of the second wait of a state's launch. -/
def waitOf (l : Launch) : W × Option Bool :=
  (machine (launched l []) (launched_wf l)).waitMet l (l.record.field 0x60 8) (l.record.field 0x68 8)
theorem waits_of (l : Launch) (h1 : l.st = .pending ∧ l.met0 = true ∧ l.met1 = false ∧ l.drain = none)
    (h2 : (queueAt (launched l []) l.chip l.queue).launches = [7]) (h3 : (machine (launched l []) (launched_wf l)).launchOpen l.chip l.ctx = true)
    (h4 : (waitOf l).1.s.missing = false) : WaitsFor (launched l []) 7 l (waitOf l).1 (waitOf l).2 (launched_wf l) :=
  ⟨rfl, rfl, h2, h1.1, h1.2.1, h1.2.2.1, h1.2.2.2, h3, rfl, h4⟩
theorem witness_wait_met : ∃ s n l w m h, WaitsFor s n l w m h ∧ m = some true :=
  ⟨_, _, _, _, _, _, waits_of (waitsFor 0) ⟨rfl, rfl, rfl, rfl⟩ (by decide +kernel) (by decide +kernel) (by decide +kernel), by decide +kernel⟩
theorem witness_wait_unmet : ∃ s n l w m h, WaitsFor s n l w m h ∧ m = some false :=
  ⟨_, _, _, _, _, _, waits_of (waitsFor 1) ⟨rfl, rfl, rfl, rfl⟩ (by decide +kernel) (by decide +kernel) (by decide +kernel), by decide +kernel⟩
/-- The launch that waits for a counter in no window. -/
def waitsNowhere : Launch := launch1 (waiting1 [8, 0, 0, 0, 0, 0, 0, 0x70] 1)
theorem witness_wait_unreadable : ∃ s n l w m h, WaitsFor s n l w m h ∧ m = none :=
  ⟨_, _, _, _, _, _, waits_of waitsNowhere ⟨rfl, rfl, rfl, rfl⟩ (by decide +kernel) (by decide +kernel) (by decide +kernel), by decide +kernel⟩
/-- What `ArgumentsRead` asks. -/
def ReadsArguments (s : State) (n hw : Nat) (l : Launch) (h : s.memWf) : Prop := s.missing = false ∧ AList.get? s.launches n = some l ∧
  l.st = .ready ∧ l.drain = none ∧ (machine s h).choice l.chip = some (.new n hw)
/-- Whether a choice is a launch's next cluster on a hardware cluster. -/
def isNew (c : Option Choice) (n hw : Nat) : Bool := match c with
  | some (.new i k) => i == n && k == hw
  | _ => false
theorem new_of {c : Option Choice} {n hw : Nat} (h : isNew c n hw = true) : c = some (.new n hw) := by
  unfold isNew at h
  split at h
  · rename_i i k
    simp only [Bool.and_eq_true, beq_iff_eq] at h
    rw [h.1, h.2]
  · cases h
/-- The record whose arguments are at an address. -/
def arguments (at' : List Byte) : LaunchRecord := { bytes := List.replicate 8 0 ++ at' ++ (record1 (List.replicate 8 0) [0, 0]).bytes.drop 16 }
/-- The state whose one launch is READY and has its arguments at an address. -/
def arguing (at' : List Byte) : State := launched { launch1 (arguments at') with met1 := true, st := .ready } []
theorem witness_arguments_none : ∃ s n hw l h, ReadsArguments s n hw l h ∧ l.record.args = 0 :=
  ⟨arguing [0, 0, 0, 0, 0, 0, 0, 0], 7, 0, _, launched_wf _, ⟨rfl, rfl, rfl, rfl, new_of (by decide +kernel)⟩, by decide +kernel⟩
theorem witness_arguments : ∃ s n hw l h, ReadsArguments s n hw l h ∧ l.record.args ≠ 0 ∧ l.record.args % 8 = 0 ∧
    ∃ w bs, (machine s h).unitRead l.chip l.ctx (BitVec.ofNat 64 l.record.args) 16 = (w, .bytes bs) ∧ w.s.missing = false :=
  ⟨arguing [8, 0, 1, 0, 0, 0, 0, 0], 7, 0, _, launched_wf _, ⟨rfl, rfl, rfl, rfl, new_of (by decide +kernel)⟩, by decide +kernel,
    by decide +kernel, _, _, bytes_of (by decide +kernel), by decide +kernel⟩
theorem witness_arguments_misaligned : ∃ s n hw l h, ReadsArguments s n hw l h ∧ l.record.args % 8 ≠ 0 :=
  ⟨arguing [12, 0, 1, 0, 0, 0, 0, 0], 7, 0, _, launched_wf _, ⟨rfl, rfl, rfl, rfl, new_of (by decide +kernel)⟩, by decide +kernel⟩
/-- What `LaunchCompletes` asks. -/
def Completes (s : State) (n : Nat) (l : Launch) (h : s.memWf) : Prop := s.missing = false ∧ s.launches = [(n, l)] ∧ l.st = .draining ∧
  (machine s h).launchOpen l.chip l.ctx = true ∧ s.directory = [] ∧ s.waiting = [] ∧ s.poison = [] ∧
  (machine s h).launchSettled n l = true ∧ (queueAt s l.chip l.queue).note.getLsbD 0 = false
/-- The state whose one launch drains, its counter at an address, its launch event an interrupt. -/
def draining1 (sig : List Byte) : State := launched { launch1 (record1 sig [0, 2]) with met1 := true, st := .draining } []
theorem witness_launch_done : ∃ s n l h, Completes s n l h ∧ l.record.field 0x70 8 = 0 ∧ l.record.eventMode 4 = 2 :=
  ⟨draining1 [0, 0, 0, 0, 0, 0, 0, 0], 7, _, launched_wf _, ⟨rfl, rfl, rfl, by decide +kernel, rfl, rfl, rfl, by decide +kernel, by decide +kernel⟩,
    by decide +kernel, by decide +kernel⟩
/-- The state whose launch signals at scratch offset 16. -/
def signals16 : State := draining1 [16, 0, 0, 0, 0, 0, 0, 0x20]
theorem witness_launch_signals : ∃ s n l h, Completes s n l h ∧ ∃ acc, l.record.field 0x70 8 ≠ 0 ∧
    (machine s h).unitAccess l.chip l.ctx .atomic 8 (BitVec.ofNat 64 (l.record.field 0x70 8)) = (machine s h, .ok acc) ∧
    acc.path = .scratch ∧ 2 ^ 61 ≤ acc.key ∧ acc.width = 8 := by
  have hva : LaunchRecord.field (record1 [16, 0, 0, 0, 0, 0, 0, 0x20] [0, 2]) 0x70 8 = 0x2000000000000010 := by decide +kernel
  refine ⟨signals16, 7, _, launched_wf _, ⟨rfl, rfl, rfl, by decide +kernel, rfl, rfl, rfl, by decide +kernel, by decide +kernel⟩,
    { lane := 0, va := 0x2000000000000010, key := 2 ^ 61 + 63 * 2 ^ 30 + 16, width := 8, path := .scratch }, by decide +kernel, ?_, rfl,
    by decide, rfl⟩
  show (machine signals16 _).unitAccess 0 63 .atomic 8 (BitVec.ofNat 64 (LaunchRecord.field (record1 [16, 0, 0, 0, 0, 0, 0, 0x20] [0, 2]) 0x70 8)) = _
  rw [hva]
  rfl
/-- A device-side launch of the record at 0x1_0000 by a group that has gone; its queue as given. -/
def appending (qs : AList Nat Queue) : State := { queued {} recorded with
  chips := AList.put powered 0 { power := .ready, queues := qs }
  units := [(40, { op := 40, grp := r0, owner := (0, 0), ctx := 63, kind := .launch 0x10000 })] }
theorem appending_wf (qs : AList Nat Queue) : (appending qs).memWf := by
  show memoryWf recorded = true
  decide +kernel
/-- The launch in flight. -/
def appended : UnitRec := { op := 40, grp := r0, owner := (0, 0), ctx := 63, kind := .launch 0x10000 }
/-- The record's read. -/
def appendRead (qs : AList Nat Queue) : W × Got := (machine (appending qs) (appending_wf qs)).launchRead appended 0x10000
/-- Its check. -/
def appendCheck (qs : AList Nat Queue) : W × RecordCheck :=
  (appendRead qs).1.checkRecord 0 0 63 { bytes := bytesIn (appendRead qs).2 } true
/-- What `LaunchAppends` asks. -/
def Appends (s : State) (n : Nat) (u : UnitRec) (addr : DWord) (w1 w2 : W) (bs : List Byte) (ps : List Template) (h : s.memWf) : Prop :=
  s.missing = false ∧ AList.get? s.units n = some u ∧ u.op = n ∧ u.kind = .launch addr ∧ u.linkOut = none ∧
  (machine s h).releaseSaved u = (true, machine s h) ∧ ((machine s h).launchWays u addr).all (· == .live) = true ∧
  (machine s h).launchRead u addr = (w1, .bytes bs) ∧
  w1.checkRecord u.grp.chip (4 * pkgOf u.grp.chip + LaunchRecord.dchip { bytes := bs } % 4) u.ctx { bytes := bs } true = (w2, .ok ps) ∧
  w2.s.missing = false ∧ w1.s.chips = s.chips ∧ w2.s.groups = s.groups
/-- The queue that a state's record names. -/
def named (s : State) (u : UnitRec) (bs : List Byte) : Option (Nat × Queue) :=
  (chipAt s (4 * pkgOf u.grp.chip + LaunchRecord.dchip { bytes := bs } % 4)).queues.find? fun q =>
    q.2.en && q.2.dev && q.2.ctx == u.ctx && q.2.qix == LaunchRecord.dqueue { bytes := bs }
/-- The presets a check lets through. -/
def presetsIn (c : RecordCheck) : List Template := match c with
  | .ok ps => ps
  | _ => []
/-- Whether a check lets a record through. -/
def isGood (c : RecordCheck) : Bool := match c with
  | .ok _ => true
  | _ => false
theorem good_of {x : W × RecordCheck} (h : isGood x.2 = true) : x = (x.1, .ok (presetsIn x.2)) := by
  obtain ⟨w, c⟩ := x
  cases c <;> first | rfl | cases h
/-- What the check of an appended record must show. -/
def appendOk (qs : AList Nat Queue) : Bool :=
  ((machine (appending qs) (appending_wf qs)).launchWays appended 0x10000).all (· == .live) && isBytes (appendRead qs).2 &&
    isGood (appendCheck qs).2 && LaunchRecord.dchip { bytes := bytesIn (appendRead qs).2 } == 0 && !(appendCheck qs).1.s.missing &&
    decide ((appendRead qs).1.s.chips = (appending qs).chips) && decide ((appendCheck qs).1.s.groups = (appending qs).groups)
theorem appends (qs : AList Nat Queue) (h : appendOk qs = true)
    (hr : (machine (appending qs) (appending_wf qs)).releaseSaved appended = (true, machine (appending qs) (appending_wf qs))) :
    Appends (appending qs) 40 appended 0x10000 (appendRead qs).1 (appendCheck qs).1 (bytesIn (appendRead qs).2) (presetsIn (appendCheck qs).2)
      (appending_wf qs) := by
  simp only [appendOk, Bool.and_eq_true, Bool.not_eq_true', beq_iff_eq, decide_eq_true_eq] at h
  obtain ⟨⟨⟨⟨⟨⟨h1, h2⟩, h3⟩, h4⟩, h5⟩, h6⟩, h7⟩ := h
  exact ⟨rfl, rfl, rfl, rfl, rfl, hr, h1, bytes_of h2, by simp only [h4]; exact good_of h3, h5, h6, h7⟩
theorem witness_append_no_queue : ∃ s n u addr w1 w2 bs ps h, Appends s n u addr w1 w2 bs ps h ∧ named s u bs = none :=
  ⟨_, _, _, _, _, _, _, _, _, appends [] (by decide +kernel) rfl, by decide +kernel⟩
/-- A device-fed queue with its ring of 16 records at 0x1_0000. -/
def devq (tail : BitVec 32) : Queue := { cfg := qcfg + 2, tail := tail }
theorem witness_append_full : ∃ s n u addr w1 w2 bs ps h, Appends s n u addr w1 w2 bs ps h ∧ ∃ k q, named s u bs = some (k, q) ∧
    AList.get? (chipAt s 0).queues k = some q ∧ q.fill = q.ring :=
  ⟨_, _, _, _, _, _, _, _, _, appends [(9, devq 16)] (by decide +kernel) rfl, 9, devq 16, by decide +kernel, rfl, by decide +kernel⟩
/-- Where the record goes in the ring. -/
def appendPlace : W × PutAt := (appendCheck [(9, devq 1)]).1.unitPlace 0 63 128 (BitVec.ofNat 64 ((devq 1).base + 128 * ((devq 1).tail.toNat % (devq 1).ring)))
/-- The access that a place stands for. -/
def placeIn (x : PutAt) : Acc := match x with
  | .cell a => a
  | _ => { lane := 0, va := 0, key := 0, width := 0, path := .shared }
/-- Whether it stands for one. -/
def isPlace (x : PutAt) : Bool := match x with
  | .cell _ => true
  | _ => false
theorem place_of {x : W × PutAt} (h : isPlace x.2 = true) : x = (x.1, .cell (placeIn x.2)) := by
  obtain ⟨w, p⟩ := x
  cases p <;> first | rfl | cases h
theorem pair_of {α : Type} {x : α × Bool} (h : x.2 = true) : x = (x.1, true) := by rw [← h]
theorem witness_append : ∃ s n u addr w1 w2 bs ps h, Appends s n u addr w1 w2 bs ps h ∧ ∃ k q, named s u bs = some (k, q) ∧
    AList.get? (chipAt s 0).queues k = some q ∧ q.fill ≠ q.ring ∧ ∃ w3 w4 acc,
    w2.unitPlace 0 u.ctx 128 (BitVec.ofNat 64 (q.base + 128 * (q.tail.toNat % q.ring))) = (w3, .cell acc) ∧
    w3.secure [lineOf acc.key] = (w4, true) ∧ w4.s.missing = false ∧ w4.s.chips = s.chips ∧ w4.s.groups = s.groups ∧ w4.s.poison = [] :=
  ⟨_, _, _, _, _, _, _, _, _, appends [(9, devq 1)] (by decide +kernel) rfl, 9, devq 1, by decide +kernel, rfl, by decide +kernel,
    appendPlace.1, (appendPlace.1.secure [lineOf (placeIn appendPlace.2).key]).1, placeIn appendPlace.2, place_of (by decide +kernel),
    pair_of (by decide +kernel), by decide +kernel, by decide +kernel, by decide +kernel, by decide +kernel⟩

end Sys2Proof.Tests
end

