-- ==== Sys2Proof/Tests/TableWitness.lean ====
section
/-! SUPPORT. Witnesses: for each statement about seats, the turn protocol and view changes, a concrete state and operands that
meet all its hypotheses. -/
namespace Sys2Proof.Tests
set_option Elab.async false
open Sys2Proof.Machine Sys2Proof.Statement

/-! ## A table of two seats -/

/-- Seat n of a table of seats 0 and 1, on chip n. -/
def seatN (n : Nat) : Seat :=
  { cfg := BitVec.ofNat 64 (3 * 2 ^ 48 + n * 2 ^ 36 + 0x101), base := BitVec.ofNat 64 (n * 2 ^ 48 + 2 ^ 30), st := .live }
/-- A state with chip 0's and chip 1's seats as given. -/
def tabled (a b : Seat) : State := { plain with
  chips := [(0, { power := .ready, seat := a }), (1, { power := .ready, seat := b })], contexts := [((0, 0), { st := .running })], links := [((0, pairLink 0 1), { st := .up })] }
theorem tabled_wf (a b : Seat) : (tabled a b).memWf := by
  show memoryWf plain.mem = true
  decide +kernel
/-- The same as a theorem of each state over it. -/
theorem over_wf {s : State} (h : s.mem = plain.mem) : s.memWf := by
  show memoryWf s.mem = true
  rw [h]
  exact tabled_wf {} {}
/-- Both seats LIVE. -/
def live2 : State := tabled (seatN 0) (seatN 1)
theorem drained_plain : Drained live2 (atOf live2) := ⟨rfl, rfl, rfl, fun _ h => (by cases h), fun _ h => (by cases h)⟩
/-- The live state with r0's fragment issuing. -/
theorem witness_turn : ∃ (s : State) (a : At) (k : Bool), a.g.region = none ∧ Drained s a ∧ (seatAt s a.r.chip).serves a.g.ctx = true ∧
    Free s a (.turn k) k {} ∧ (seatAt s a.r.chip).st ≠ .departed ∧ (seatAt s a.r.chip).rwt.length < 65536 :=
  ⟨live2, atOf live2, false, rfl, drained_plain, by decide +kernel, free_of (by decide +kernel), by decide, by decide⟩
/-- Chip 0's seat has made one store that no vector has acknowledged. -/
def unstable : State := tabled { seatN 0 with applied := vecSet (seatN 0).applied 0 1 } (seatN 1)
theorem witness_tsync : ∃ (s : State) (a : At) (k : Bool), a.g.region = none ∧ Drained s a ∧ (seatAt s a.r.chip).serves a.g.ctx = true ∧
    Free s a (.tsync k) k {} ∧ (∀ v, a.e.wait ≠ some (.tsync v)) ∧
    vecGet (seatAt s a.r.chip).applied (seatAt s a.r.chip).num ≤ vecGet (seatAt s a.r.chip).stable (seatAt s a.r.chip).num :=
  ⟨live2, atOf live2, true, rfl, drained_plain, by decide +kernel, free_of (by decide +kernel), fun _ h => (by cases h), by decide +kernel⟩
theorem witness_tsync_waits : ∃ (s : State) (a : At) (k : Bool), a.g.region = none ∧ Drained s a ∧ (seatAt s a.r.chip).serves a.g.ctx = true ∧
    Free s a (.tsync k) k {} ∧ (∀ v, a.e.wait ≠ some (.tsync v)) ∧
    vecGet (seatAt s a.r.chip).stable (seatAt s a.r.chip).num < vecGet (seatAt s a.r.chip).applied (seatAt s a.r.chip).num :=
  ⟨unstable, atOf unstable, true, rfl, ⟨rfl, rfl, rfl, fun _ h => (by cases h), fun _ h => (by cases h)⟩, by decide +kernel,
    free_of (by decide +kernel), fun _ h => (by cases h), by decide +kernel⟩

/-! ## Enabling and disabling -/

/-- The TBCFG value of seat n of both. -/
def tbcfg (n : Nat) : DWord := BitVec.ofNat 64 (3 * 2 ^ 48 + n * 2 ^ 36 + 0x101)
/-- Chip 1's seat OFF, its base in place. -/
def offSeat : Seat := { base := BitVec.ofNat 64 (2 ^ 48 + 2 ^ 30) }
/-- What `SeatEnabled` asks. -/
def Seating (s : State) (chip : Nat) (v : DWord) (h : s.memWf) (refused : Bool) : Prop := s.missing = false ∧ v.getLsbD 0 = true ∧
  (seatAt s chip).cfg.getLsbD 0 = false ∧ (seatAt s chip).st = .off ∧ (machine s h).barReach chip = .live ∧
  (machine s h).seatRefused chip { seatAt s chip with cfg := v &&& 0xFFFF3FFFFFF07F00 } = refused
theorem witness_seat_enable : ∃ s chip v h, Seating s chip v h false ∧ ∃ c n,
    Seat.region { seatAt s chip with cfg := v &&& 0xFFFF3FFFFFF07F00 } chip = some (c, n) ∧ (seatAt s chip).base.toNat % 2 ^ 48 + n ≤ hbmBytes :=
  ⟨tabled (seatN 0) offSeat, 1, tbcfg 1, tabled_wf _ _, ⟨rfl, by decide, by decide, rfl, by decide +kernel, by decide +kernel⟩, 2 ^ 48 + 2 ^ 30, 2 ^ 30,
    by decide +kernel, by decide +kernel⟩
theorem witness_seat_refused : ∃ s chip v h, Seating s chip v h true :=
  ⟨tabled (seatN 0) offSeat, 1, tbcfg 0, tabled_wf _ _, rfl, by decide, by decide, rfl, by decide +kernel, by decide +kernel⟩
/-- What `SeatDisabled` asks. -/
def Disabling (s : State) (v : DWord) (chip : Nat) : Prop := s.missing = false ∧ v.getLsbD 0 = false ∧ ∃ h : s.memWf,
  (machine s h).barReach chip = .live
/-- It holds of chip 1 of a table of two. -/
theorem disabling_of (a b : Seat) : Disabling (tabled a b) 0 1 := ⟨rfl, rfl, tabled_wf _ _, rfl⟩
theorem witness_disable_off : ∃ s v chip, Disabling s v chip ∧ (seatAt s chip).st = .off :=
  ⟨tabled (seatN 0) offSeat, 0, 1, disabling_of _ _, rfl⟩
theorem witness_disable_forming : ∃ s v chip, Disabling s v chip ∧ (seatAt s chip).st = .forming :=
  ⟨tabled (seatN 0) { seatN 1 with st := .forming }, 0, 1, disabling_of _ _, rfl⟩
theorem witness_disable_departed : ∃ s v chip, Disabling s v chip ∧ (seatAt s chip).st = .departed ∧ (seatAt s chip).cfg.getLsbD 0 = true :=
  ⟨tabled (seatN 0) { seatN 1 with st := .departed }, 0, 1, disabling_of _ _, rfl, by decide⟩
theorem witness_disable_live : ∃ s v chip, Disabling s v chip ∧ ∃ h, (seatAt s chip).st = .live ∧ (seatAt s chip).strong = [] ∧
    (machine s h).seatChip (seatAt s chip).tid (seatAt s chip).num = some chip ∧ (seatAt s chip).num ∈ (seatAt s chip).live ∧
    ∃ c ∈ others s h chip, (seatAt s c).st = .live :=
  ⟨live2, 0, 1, disabling_of _ _, tabled_wf _ _, rfl, rfl, by decide +kernel, by decide +kernel, 0, by decide +kernel, rfl⟩
theorem witness_seat_release : ∃ s v chip, Disabling s v chip ∧ (seatAt s chip).st = .departed ∧ (seatAt s chip).cfg.getLsbD 0 = false :=
  ⟨tabled (seatN 0) { seatN 1 with st := .departed, cfg := (seatN 1).cfg - 1 }, 0, 1, disabling_of _ _, rfl, by decide⟩
/-- Chip 0's seat FORMING, with hellos from some seats. -/
def forming (hellos : List Nat) : State := tabled { seatN 0 with st := .forming, hellos := hellos, cfg := (seatN 0).cfg + 0x4000000000000 } (seatN 1)
/-- What `SeatForms` asks. -/
def Forms (s : State) (chip from' : Nat) (h : s.memWf) : Prop := s.missing = false ∧ (seatAt s chip).st = .forming ∧
  (machine s h).answers chip from' = true ∧ (seatAt s chip).rack = [] ∧ from' ∉ (seatAt s chip).hellos
theorem witness_hello_last : ∃ s chip from' h, Forms s chip from' h ∧
    ∀ k ∈ (seatAt s chip).live, k = (seatAt s chip).num ∨ k = from' ∨ k ∈ (seatAt s chip).hellos :=
  ⟨forming [2], 0, 1, tabled_wf _ _, ⟨rfl, rfl, by decide +kernel, rfl, by decide⟩, by decide +kernel⟩
theorem witness_hello_first : ∃ s chip from' h, Forms s chip from' h ∧
    ¬∀ k ∈ (seatAt s chip).live, k = (seatAt s chip).num ∨ k = from' ∨ k ∈ (seatAt s chip).hellos :=
  ⟨forming [], 0, 1, tabled_wf _ _, ⟨rfl, rfl, by decide +kernel, rfl, by decide⟩, by decide +kernel⟩
theorem witness_evict : ∃ (s : State) (chip gone : Nat) (v : DWord) (h : s.memWf), s.missing = false ∧ v.getLsbD 4 = true ∧
    fieldOf v.toNat 0 4 = (seatAt s gone).num ∧ (seatAt s chip).st = .live ∧ (seatAt s gone).num ∈ (seatAt s chip).live ∧
    (machine s h).seatChip (seatAt s chip).tid (seatAt s gone).num = some gone ∧ (seatAt s gone).st = .live ∧
    (seatAt s gone).strong = [] ∧ (machine s h).auditFull chip = false ∧ (machine s h).barReach chip = .live :=
  ⟨live2, 0, 1, 0x11, tabled_wf _ _, rfl, rfl, by decide +kernel, rfl, by decide +kernel, by decide +kernel, rfl, rfl, by decide +kernel, rfl⟩

/-! ## Packets and turns -/

/-- Seat 1's store n of two bytes, on its way to chip 0. -/
def storePacket (n : Nat) : Packet :=
  { kind := .weak, seat := 1, parity := false, view := 1, first := n, count := 1, dv := vecSet vecZero 1 n, stamp := Int.ofNat n
    records := [(0, 0x40000000, 7), (0, 0x40000001, 8)] }
/-- Both seats LIVE, with that packet in flight. -/
def packeted (n : Nat) : State := { live2 with packets := [((0, 9), storePacket n)] }
/-- What `PacketApplies` asks. -/
def PacketArrives (s : State) (chip n : Nat) (p : Packet) (h : s.memWf) : Prop := s.missing = false ∧ AList.get? s.packets (chip, n) = some p ∧
  (machine s h).seatReach chip p.tid p.seat = true ∧ (machine s h).arrived n = true ∧ (∀ m, (machine s h).lineFree m = true) ∧
  (seatAt s chip).st = .live ∧ p.tid = (seatAt s chip).tid ∧ p.seat ∈ (seatAt s chip).live ∧
  (seatAt s chip).leaving ≠ some p.seat ∧ (seatAt s chip).view ≤ p.view ∧ (seatAt s chip).rack = [] ∧ p.parity = (seatAt s chip).parity ∧
  p.kind = .weak ∧ (∀ y ∈ p.records, y.1 < p.count ∧ y.2.1 < 2 ^ 46) ∧ p.records.Pairwise (fun y z => y.1 ≤ z.1)
theorem witness_packet : ∃ s chip n p h, PacketArrives s chip n p h ∧ ({ seatAt s chip with rack := [p] } : Seat).eligible p = true :=
  ⟨packeted 1, 0, 9, _, over_wf rfl, ⟨rfl, rfl, by decide +kernel, rfl, lines_free rfl rfl, rfl, by decide +kernel, by decide +kernel, by decide, by decide, rfl,
    rfl, rfl, by decide, by decide⟩, by decide +kernel⟩
theorem witness_packet_held : ∃ s chip n p h, PacketArrives s chip n p h ∧ ({ seatAt s chip with rack := [p] } : Seat).eligible p = false :=
  ⟨packeted 2, 0, 9, _, over_wf rfl, ⟨rfl, rfl, by decide +kernel, rfl, lines_free rfl rfl, rfl, by decide +kernel, by decide +kernel, by decide, by decide, rfl,
    rfl, rfl, by decide, by decide⟩, by decide +kernel⟩
theorem witness_packet_counts : ∃ (s : State) (chip n : Nat) (p : Packet) (h : s.memWf), s.missing = false ∧ (seatAt s chip).st = .live ∧
    AList.get? s.packets (chip, n) = some p ∧ (machine s h).seatReach chip p.tid p.seat = true ∧ (machine s h).arrived n = true ∧
    (∀ m, (machine s h).lineFree m = true) ∧ p.tid = (seatAt s chip).tid ∧ p.seat ∈ (seatAt s chip).live ∧ (seatAt s chip).leaving = none ∧
    (seatAt s chip).view ≤ p.view ∧ (seatAt s chip).rack = [] ∧ p.kind = .weak ∧
    ({ seatAt s chip with rack := [p] } : Seat).eligible p = true :=
  ⟨packeted 1, 0, 9, _, over_wf rfl, rfl, rfl, rfl, by decide +kernel, rfl, lines_free rfl rfl, by decide +kernel, by decide +kernel, rfl,
    by decide, rfl, rfl, by decide +kernel⟩
/-- A table with a message in flight to chip 0, its seats as given. -/
def messaged (a : Seat) (m : TurnMsg) : State := { tabled a (seatN 1) with messages := [((0, 9), m)] }
/-- What `TurnGranted` asks. -/
def Requested (s : State) (n seat shooter op d : Nat) (k : Nat × Nat) (h : s.memWf) : Prop := s.missing = false ∧
  (machine s h).messageAt n = some (k, .request seat shooter op) ∧ (machine s h).seatReach k.1 (seatAt s k.1).tid seat = true ∧
  (machine s h).arrived n = true ∧
  (machine s h).seatChip (seatAt s k.1).tid seat = some d ∧ (seatAt s k.1).st = .live ∧ seat ∈ (seatAt s k.1).live
theorem witness_turn_granted : ∃ s n seat shooter op d k h, Requested s n seat shooter op d k h ∧
    (seatAt s k.1).shooter = (seatAt s k.1).num ∧ (seatAt s k.1).turnsLeft ≠ 0 ∧ (seatAt s k.1).nextGrant - (seatAt s k.1).baseTurn ≤ 0xBFFFFF :=
  ⟨messaged (seatN 0) (.request 1 0 5), 9, 1, 0, 5, 1, (0, 9), over_wf rfl, ⟨rfl, by decide +kernel, by decide +kernel, rfl, by decide +kernel, rfl,
    by decide +kernel⟩, by decide +kernel, by decide, by decide⟩
theorem witness_turn_redirected : ∃ s n seat shooter op d k h, Requested s n seat shooter op d k h ∧
    (seatAt s k.1).shooter ≠ (seatAt s k.1).num :=
  ⟨messaged { seatN 0 with shooter := 1 } (.request 1 0 5), 9, 1, 0, 5, 1, (0, 9), over_wf rfl, ⟨rfl, by decide +kernel, by decide +kernel,
    rfl, by decide +kernel, rfl, by decide +kernel⟩, by decide +kernel⟩
/-- Operation 5, a turn of r0's group. -/
def turnOp : StrongOp := { op := 5, owner := (0, 0), body := .turn, requested := true }
theorem witness_turn_broadcast : ∃ (s : State) (n seat op src : Nat) (k : Nat × Nat) (h : s.memWf), s.missing = false ∧
    (machine s h).cldReach src k.1 = .live ∧ (machine s h).arrived n = true ∧ ∃ turn o,
    (machine s h).messageAt n = some (k, .grant seat turn op src) ∧ ((seatAt s k.1).strong.find? fun y => y.op == op) = some o ∧
    (seatAt s k.1).rack = [] ∧ turn ≠ (seatAt s k.1).nextTurn ∧ others s h k.1 ≠ [] :=
  ⟨messaged { seatN 0 with strong := [turnOp] } (.grant 0 2 5 1), 9, 0, 5, 1, (0, 9), over_wf rfl, rfl,
    by decide +kernel, rfl, 2, turnOp, by decide +kernel,
    by decide +kernel, rfl, by decide, by decide +kernel⟩
theorem witness_turn_redirect : ∃ (s : State) (n seat op src : Nat) (k : Nat × Nat) (h : s.memWf), s.missing = false ∧
    (machine s h).cldReach src k.1 = .live ∧ (machine s h).arrived n = true ∧ ∃ shooter d,
    (machine s h).messageAt n = some (k, .redirect seat shooter op src) ∧ (seatAt s k.1).st = .live ∧
    (∃ o ∈ (seatAt s k.1).strong, o.op = op ∧ o.sent = false) ∧ (machine s h).seatChip (seatAt s k.1).tid shooter = some d :=
  ⟨messaged { seatN 0 with strong := [turnOp] } (.redirect 0 1 5 1), 9, 0, 5, 1, (0, 9), over_wf rfl, rfl,
    by decide +kernel, rfl, 1, 1, by decide +kernel, rfl,
    ⟨turnOp, by decide, rfl, rfl⟩, by decide +kernel⟩
/-- r0's group waits for operation 5, whose turn is granted. -/
def returning : State := { messaged { seatN 0 with strong := [turnOp] } (.grant 0 1 5 1) with
  groups := [(r0, { fetchGroup 0 with turnWait := some 5 })] }
theorem witness_turn_returns : ∃ (s : State) (n seat turn op src : Nat) (k : Nat × Nat) (o : StrongOp) (r : GroupRef) (g : Group)
    (h : s.memWf), s.missing = false ∧ (machine s h).messageAt n = some (k, .grant seat turn op src) ∧
    (machine s h).cldReach src k.1 = .live ∧ (machine s h).arrived n = true ∧
    ((seatAt s k.1).strong.find? fun y => y.op == op) = some o ∧ o.body = .turn ∧ (seatAt s k.1).rack = [] ∧ (seatAt s k.1).st = .live ∧
    turn = (seatAt s k.1).nextTurn ∧ (machine s h).groupOf o.owner = some r ∧ AList.get? s.groups r = some g ∧ g.turnWait = some op ∧
    g.ops = [] ∧ g.fault = none ∧ g.parked = false ∧ g.stopping = false :=
  ⟨returning, 9, 0, 1, 5, 1, (0, 9), turnOp, r0, _, over_wf rfl, rfl, by decide +kernel, by decide +kernel, rfl, by decide +kernel, rfl, rfl, rfl, rfl, by decide +kernel, rfl,
    rfl, rfl, rfl, rfl, rfl⟩
/-- What `ShooterTurns` asks. -/
def Shooting (s : State) (chip : Nat) (h : s.memWf) : Prop := s.missing = false ∧ (seatAt s chip).st = .live ∧
  (seatAt s chip).shooter = (seatAt s chip).num ∧ (seatAt s chip).nextGrant - (seatAt s chip).baseTurn ≤ 0xBFFFFF ∧
  (seatAt s chip).rack = [] ∧ (seatAt s chip).rebasing = none ∧ others s h chip ≠ [] ∧ (seatAt s chip).nextTurn = (seatAt s chip).nextGrant
theorem witness_handoff : ∃ s chip h, Shooting s chip h ∧ (seatAt s chip).handoffDue = true :=
  ⟨tabled { seatN 0 with handoffDue := true } (seatN 1), 0, over_wf rfl, ⟨rfl, rfl, by decide +kernel, by decide, rfl, rfl, by decide +kernel, rfl⟩,
    rfl⟩
theorem witness_rebase : ∃ s chip h, Shooting s chip h ∧ (∃ y ∈ (seatAt s chip).applied, 2 ^ 23 ≤ y) ∧
    ∀ c ∈ (machine s h).liveChips chip, (seatAt s c).rebases = (seatAt s chip).rebases ∧ (seatAt s c).rebasing = none :=
  ⟨tabled { seatN 0 with applied := vecSet vecZero 16 (2 ^ 23) } (seatN 1), 0, over_wf rfl, ⟨rfl, rfl, by decide +kernel, by decide, rfl, rfl,
    by decide +kernel, rfl⟩, ⟨2 ^ 23, by decide, by decide⟩, by decide +kernel⟩

/-! ## Vectors, lag and view changes -/

theorem witness_vector_broadcast : ∃ (s : State) (chip : Nat) (h : s.memWf), s.missing = false ∧ (seatAt s chip).st = .live ∧
    (seatAt s chip).rack = [] ∧ (seatAt s chip).rebasing = none ∧ others s h chip ≠ [] :=
  ⟨live2, 1, over_wf rfl, rfl, rfl, rfl, rfl, by decide +kernel⟩
theorem witness_vector_receive : ∃ (s : State) (chip : Nat) (h : s.memWf), s.missing = false ∧ (seatAt s chip).st = .live ∧
    (seatAt s chip).rack = [] ∧ (seatAt s chip).rebasing = none ∧ ∃ n from' v,
    AList.get? s.messages (chip, n) = some (.vector from' v (seatAt s chip).parity) ∧
    (machine s h).seatReach chip (seatAt s chip).tid from' = true ∧ (machine s h).arrived n = true ∧ from' ∈ (seatAt s chip).live :=
  ⟨messaged (seatN 0) (.vector 1 (vecSet vecZero 1 3) false), 0, over_wf rfl, rfl, rfl, rfl, rfl, 9, 1, _, rfl, by decide +kernel, rfl,
    by decide +kernel⟩
theorem witness_lag : ∃ (s : State) (chip : Nat), s.memWf ∧ s.missing = false ∧ ((seatAt s chip).st = .live ∨ (seatAt s chip).st = .changing) ∧
    49152 ≤ (seatAt s chip).rwt.length ∧ 2 ≤ (seatAt s chip).stuck ∧ ∀ y, (seatAt s chip).lagAt = some y → y + 1000000 ≤ s.now :=
  ⟨{ tabled { seatN 0 with rwt := List.replicate 49152 (0, {}), stuck := 2, lagAt := some 0 } (seatN 1) with now := 1000000 }, 0,
    over_wf rfl, rfl, .inl rfl, Nat.le_of_eq (List.length_replicate (n := 49152) (a := ((0, {}) : Nat × RwtEntry))).symm, by decide +kernel,
    fun y h => (by cases h; decide +kernel)⟩
/-- Both seats CHANGING, seat 5 leaving; seat 0 is the shooter and has gathered the goal given. -/
def changing (goal : Option (Nat × Nat × Nat)) : State := tabled { seatN 0 with st := .changing, leaving := some 5, goal := goal }
  { seatN 1 with st := .changing, leaving := some 5 }
theorem witness_member_collect : ∃ (s : State) (chip gone : Nat) (h : s.memWf), s.missing = false ∧ (seatAt s chip).leaving = some gone ∧
    ∃ chips, chips = (((machine s h).liveChips chip).filter fun c => (seatAt s c).st == .changing) ∧ chip ∈ chips ∧ chips.Nodup ∧
    ∃ turn, (seatAt s chip).goal = none ∧ (machine s h).coordinator chip = some (seatAt s chip).num ∧ s.packets = [] ∧ s.messages = [] ∧
      (∃ c ∈ chips, (seatAt s c).shooter = (seatAt s c).num) ∧
      ∀ c ∈ chips, (seatAt s c).rack = [] ∧ (seatAt s c).refused = [] ∧ (seatAt s c).nextTurn = turn + 1 ∧
        ((seatAt s c).shooter = (seatAt s c).num → (seatAt s c).nextGrant = turn + 1) :=
  ⟨changing none, 0, 5, over_wf rfl, rfl, rfl, [0, 1], by decide +kernel, by decide, by decide, 0, rfl, by decide +kernel, rfl, rfl,
    by decide +kernel, by decide +kernel⟩
theorem witness_view_install : ∃ (s : State) (chip gone : Nat) (h : s.memWf), s.missing = false ∧ (seatAt s chip).leaving = some gone ∧
    ∃ chips, chips = (((machine s h).liveChips chip).filter fun c => (seatAt s c).st == .changing) ∧ chip ∈ chips ∧ chips.Nodup ∧
    ∃ top n skips, (seatAt s chip).goal = some (top, n, skips) ∧
      (∀ c ∈ chips, top < (seatAt s c).nextTurn ∧ n ≤ (seatAt s c).total gone ∧ (seatAt s c).evictLater = []) ∧
      ∀ p ∈ s.packets, p.1.1 ∉ chips :=
  ⟨changing (some (0, 0, 0)), 0, 5, over_wf rfl, rfl, rfl, [0, 1], by decide +kernel, by decide, by decide, 0, 0, 0, rfl, by decide +kernel,
    fun _ h => (by cases h)⟩

end Sys2Proof.Tests
end

