-- ==== Sys2Proof/Tests/FabricWitness.lean ====
section
/-! SUPPORT. Witnesses: for each statement about invalidation, host accesses, links and the fabric transport, a concrete state
and operands that meet all its hypotheses. -/
namespace Sys2Proof.Tests
set_option Elab.async false
open Sys2Proof.Machine Sys2Proof.Statement

/-! ## Invalidation -/

/-- A write of XINV with GO for context 0: one page, the context, an aperture entry. -/
def xinv (scope : Nat) : DWord := BitVec.ofNat 64 (scope * 2 ^ 62 + 0x10001)
/-- r0's group with an unsent region. -/
def unsent : Group := { fetchGroup 0 with region := some region0 }
/-- It, with an aperture entry of context 0 cached and a walk in flight or none, and an invalidation of chip 0 in progress or
not. -/
def cached (x : Option Machine.Invalidation) (ws : List Walk) : State := { plain with
  chips := [(0, { inval := x })], groups := [(r0, unsent)], apertures := [((0, 0, 1), 5)], walks := ws }
theorem witness_invalidate : ∀ i ∈ [Instr.invalidatePage 0 (xinv 0), Instr.invalidateContext 0 (xinv 1), Instr.invalidateAperture 0 (xinv 2)],
    ∃ (s : State) (chip : Nat) (v : DWord) (h : s.memWf), s.missing = false ∧ v.getLsbD 0 = true ∧ (machine s h).barReach chip = .live ∧
      (i = .invalidatePage chip v ∧ xinvScope v = 0 ∨ i = .invalidateContext chip v ∧ xinvScope v = 1 ∨
        i = .invalidateAperture chip v ∧ xinvScope v = 2) ∧ (chipAt s chip).inval = none := by
  intro i hi
  rcases List.mem_cons.1 hi with rfl | hi
  · exact ⟨cached none [], 0, xinv 0, over_wf rfl, rfl, by decide, rfl, .inl ⟨rfl, by decide⟩, rfl⟩
  rcases List.mem_cons.1 hi with rfl | hi
  · exact ⟨cached none [], 0, xinv 1, over_wf rfl, rfl, by decide, rfl, .inr (.inl ⟨rfl, by decide⟩), rfl⟩
  cases List.mem_singleton.1 hi
  exact ⟨cached none [], 0, xinv 2, over_wf rfl, rfl, by decide, rfl, .inr (.inr ⟨rfl, by decide⟩), rfl⟩
theorem witness_invalidate_busy : ∃ (s : State) (chip : Nat) (v : DWord) (h : s.memWf), s.missing = false ∧ v.getLsbD 0 = true ∧
    (machine s h).barReach chip = .live ∧ xinvScope v = 0 ∧ (chipAt s chip).inval ≠ none :=
  ⟨cached (some { value := xinv 1 }) [], 0, xinv 0, over_wf rfl, rfl, by decide, rfl, by decide, by decide⟩
theorem witness_invalidate_goes : ∃ (s : State) (chip : Nat) (x : Machine.Invalidation), s.memWf ∧ s.missing = false ∧
    (chipAt s chip).inval = some x ∧ x.gone = none ∧ ∃ r g rg, AList.get? s.groups r = some g ∧ pkgOf r.chip = pkgOf chip ∧
      g.ctx = xinvCtx x.value ∧ g.region = some rg ∧ rg.sent = false :=
  ⟨cached (some { value := xinv 1 }) [], 0, _, over_wf rfl, rfl, rfl, rfl, r0, _, _, rfl, rfl, by decide, rfl, rfl⟩
theorem witness_invalidate_done : ∃ (s : State) (chip : Nat) (h : s.memWf) (x : Machine.Invalidation) (at' : Nat), s.missing = false ∧
    (chipAt s chip).inval = some x ∧ x.gone = some at' ∧ (machine s h).invalidated chip x.value at' = true :=
  ⟨cached (some { value := xinv 1, gone := some 0 }) [], 0, over_wf rfl, _, 0, rfl, rfl, rfl, by decide +kernel⟩
theorem witness_invalidate_waits : ∃ (s : State) (chip : Nat) (h : s.memWf) (x : Machine.Invalidation) (at' : Nat), s.missing = false ∧
    (chipAt s chip).inval = some x ∧ x.gone = some at' ∧ (machine s h).invalidated chip x.value at' = false :=
  ⟨cached (some { value := xinv 1, gone := some 0 }) [{ chip := 0, ctx := 0, page := 5, joined := [r0] }], 0, over_wf rfl, _, 0, rfl, rfl, rfl,
    by decide +kernel⟩

/-! ## The host -/

/-- The host's link UP; chip 0's seat holds its region at 2^30, or there is none. -/
def hosted (x : Seat) : State := { tabled x {} with links := [((0, 0), { st := .up, width := 16, rate := 64 })] }
/-- A run of cells that a host access covers. -/
theorem span_pair {n m : Nat} (h : n ≤ m ∧ m < n + 2) : m = n ∨ m = n + 1 := by omega
/-- What a host write's statement asks. -/
def HostWrites (s : State) (pkg addr cell : Nat) (bs : List Byte) (h : s.memWf) : Prop := s.missing = false ∧
  (machine s h).hostUp pkg = true ∧ bs ≠ [] ∧ hostCell pkg addr bs.length = some cell ∧
  (machine s h).hostWay cell bs.length = .live ∧ s.directory = [] ∧ s.poison = []
theorem witness_host_table : ∃ s pkg addr cell bs h, HostWrites s pkg addr cell bs h ∧
    ∃ m, (cell ≤ m ∧ m < cell + bs.length) ∧ (machine s h).inTable m = true :=
  ⟨hosted (seatN 0), 0, 0x40000000, 0x40000000, [1, 2], over_wf rfl, ⟨rfl, by decide +kernel, by decide, by decide +kernel, by decide +kernel, rfl, rfl⟩,
    0x40000001, by decide, by decide +kernel⟩
theorem witness_host_write : ∃ s pkg addr cell bs h, HostWrites s pkg addr cell bs h ∧
    (∀ m, cell ≤ m ∧ m < cell + bs.length → (machine s h).inTable m = false) ∧
    ∀ m, cell ≤ m ∧ m < cell + bs.length → (machine s h).lineFree m = true :=
  ⟨hosted {}, 0, 0x4000007F, 0x4000007F, [1, 2], over_wf rfl, ⟨rfl, by decide +kernel, by decide, by decide +kernel, by decide +kernel, rfl, rfl⟩,
    fun m hm => (by rcases span_pair hm with rfl | rfl <;> decide +kernel), fun m hm => (by rcases span_pair hm with rfl | rfl <;> decide +kernel)⟩
/-- A lease on line 2^23 may be live for one cycle more. -/
def leased : State := { hosted {} with horizon := [(2 ^ 23, 1)] }
theorem witness_host_write_waits : ∃ s pkg addr cell bs h, HostWrites s pkg addr cell bs h ∧
    (∀ m, cell ≤ m ∧ m < cell + bs.length → (machine s h).inTable m = false) ∧
    ∃ m, (cell ≤ m ∧ m < cell + bs.length) ∧ (machine s h).lineFree m = false :=
  ⟨leased, 0, 0x40000000, 0x40000000, [1, 2], over_wf rfl, ⟨rfl, by decide +kernel, by decide, by decide +kernel, by decide +kernel, rfl, rfl⟩,
    fun m hm => (by rcases span_pair hm with rfl | rfl <;> decide +kernel), 0x40000000, by decide, by decide +kernel⟩
/-- What a host read's statement asks. -/
def HostReads (s : State) (pkg addr len cell : Nat) (h : s.memWf) : Prop := s.missing = false ∧ (machine s h).hostUp pkg = true ∧
  len ≠ 0 ∧ hostCell pkg addr len = some cell ∧ (machine s h).hostWay cell len = .live
theorem witness_host_read : ∃ s pkg addr len cell h, HostReads s pkg addr len cell h ∧ ¬∃ m, cell ≤ m ∧ m < cell + len ∧ m ∈ s.poison :=
  ⟨hosted {}, 0, 0x10000, 4, 0x10000, over_wf rfl, ⟨rfl, by decide +kernel, by decide, by decide +kernel, by decide +kernel⟩,
    fun ⟨_, _, _, h⟩ => (by cases h)⟩
/-- The byte at 0x10003 has an error. -/
def poisoned : State := { hosted {} with poison := [0x10003] }
theorem witness_host_read_poison : ∃ s pkg addr len cell h, HostReads s pkg addr len cell h ∧ ∃ m, cell ≤ m ∧ m < cell + len ∧ m ∈ s.poison :=
  ⟨poisoned, 0, 0x10000, 4, 0x10000, over_wf rfl, ⟨rfl, by decide +kernel, by decide, by decide +kernel, by decide +kernel⟩, 0x10003, by decide, by decide, by decide⟩

/-! ## Links -/

/-- Link n of package 0 as given, at 100 ms. -/
def linked (n : Nat) (x : Link) : State := { plain with links := [((0, n), x)], now := 100000000 }
/-- What the link statements ask. -/
def Linked (s : State) (n : Nat) : Prop := s.memWf ∧ s.missing = false ∧ linkNamed n = true
theorem witness_detect : ∃ s pkg n, Linked s n ∧ linkSt s pkg n = .down :=
  ⟨plain, 0, 0x3F, ⟨over_wf rfl, rfl, rfl⟩, rfl⟩
theorem witness_physical_up : ∃ s pkg n, Linked s n ∧ linkSt s pkg n = .training ∧ s.now < (linkAt s pkg n).since + 100000000 ∧ ∃ width rate, width ≠ 0 ∧ (n = 0 → hostTrains width rate = true) :=
  ⟨linked 0 { st := .training, since := 1 }, 0, 0, ⟨over_wf rfl, rfl, rfl⟩, rfl, by decide, 4, 16, by decide, fun _ => rfl⟩
theorem witness_no_flit_mode : ∃ s pkg n, Linked s n ∧ linkSt s pkg n = .training ∧ s.now < (linkAt s pkg n).since + 100000000 ∧ n = 0 :=
  ⟨linked 0 { st := .training, since := 1 }, 0, 0, ⟨over_wf rfl, rfl, rfl⟩, rfl, by decide, rfl⟩
theorem witness_training_timeout : ∃ s pkg n, Linked s n ∧ linkSt s pkg n = .training ∧ (linkAt s pkg n).since + 100000000 ≤ s.now :=
  ⟨linked 0x25 { st := .training }, 0, 0x25, ⟨over_wf rfl, rfl, rfl⟩, rfl, by decide⟩
theorem witness_negotiate : ∃ s pkg n lowest highest v, Linked s n ∧ linkSt s pkg n = .negotiating ∧ versionOf n lowest highest = some v :=
  ⟨linked 0x30 { st := .negotiating }, 0, 0x30, 0, 9, 1, ⟨over_wf rfl, rfl, rfl⟩, rfl, rfl⟩
theorem witness_negotiate_none : ∃ s pkg n lowest highest, Linked s n ∧ linkSt s pkg n = .negotiating ∧ versionOf n lowest highest = none :=
  ⟨linked 0x30 { st := .negotiating }, 0, 0x30, 2, 9, ⟨over_wf rfl, rfl, rfl⟩, rfl, rfl⟩
theorem witness_lane_loss_all : ∃ s pkg n left, Linked s n ∧ (linkSt s pkg n = .up ∨ linkSt s pkg n = .degraded) ∧
    left < (linkAt s pkg n).width ∧ left = 0 :=
  ⟨linked 0x10 { st := .up, width := 1 }, 0, 0x10, 0, ⟨over_wf rfl, rfl, rfl⟩, .inl rfl, by decide, rfl⟩
theorem witness_lane_loss : ∃ s pkg n left, Linked s n ∧ linkSt s pkg n = .up ∧ left < (linkAt s pkg n).width ∧ left ≠ 0 :=
  ⟨linked 0x10 { st := .up, width := 511 }, 0, 0x10, 510, ⟨over_wf rfl, rfl, rfl⟩, rfl, by decide, by decide⟩
theorem witness_lane_loss_degraded : ∃ s pkg n left, Linked s n ∧ linkSt s pkg n = .degraded ∧ left < (linkAt s pkg n).width ∧ left ≠ 0 :=
  ⟨linked 0x10 { st := .degraded, width := 2 }, 0, 0x10, 1, ⟨over_wf rfl, rfl, rfl⟩, rfl, by decide, by decide⟩
theorem witness_lane_regain : ∃ s pkg n width h, Linked s n ∧ linkSt s pkg n = .degraded ∧ (linkAt s pkg n).width ≤ width ∧ fullWidth n ≤ width ∧
    width < 512 ∧ (n = 0 → width = 16 ∧ (linkAt s pkg n).rate = 64) ∧ ∀ p ∈ (machine s h).pathsThrough pkg n, p.live = true :=
  ⟨linked 0 { st := .degraded, width := 8, rate := 64 }, 0, 0, 16, over_wf rfl, ⟨over_wf rfl, rfl, rfl⟩, rfl, by decide, by decide, by decide,
    fun _ => ⟨rfl, rfl⟩, fun p hp => (by cases hp)⟩
theorem witness_link_fence : ∃ s pkg n h, Linked s n ∧ linkSt s pkg n ≠ .fenced ∧ (machine s h).auditFull (linkChip pkg n) = false ∧ isPort n = true :=
  ⟨linked 0x3F { st := .up }, 0, 0x3F, over_wf rfl, ⟨over_wf rfl, rfl, rfl⟩, by decide, by decide +kernel, rfl⟩
theorem witness_retrain : ∃ s pkg n, Linked s n ∧ linkSt s pkg n = .fenced :=
  ⟨linked 0x13 { st := .fenced }, 0, 0x13, ⟨over_wf rfl, rfl, rfl⟩, rfl⟩
/-- The flit of zeros: class 0, number 0, and the CRC of zeros. -/
def flit0 : List Byte := List.replicate 256 0
theorem crc64_zeros (n : Nat) : crc64 0 (List.replicate n 0) = 0 := by
  induction n with
  | zero => rfl
  | succ n ih =>
    rw [List.replicate_succ, crc64]
    exact ih
theorem flit0_whole : flitWhole flit0 = true := by
  have h1 : flit0.length = 256 := List.length_replicate ..
  have h2 : flit0.take 244 = List.replicate 244 0 := List.take_replicate ..
  have h3 : ofBytes ((flit0.drop 244).take 8) = 0 := by decide +kernel
  have h4 : ((flit0.drop 252).all (· == 0)) = true := by decide +kernel
  unfold flitWhole
  rw [h1, h2, h3, h4, crc64_zeros]
  rfl
/-- What `FlitsArrive` asks. -/
def Flitting (s : State) (pkg n : Nat) : Prop := s.memWf ∧ s.missing = false ∧ isDieLink n = true ∧
  (linkSt s pkg n = .up ∨ linkSt s pkg n = .degraded)
theorem witness_flit_bad : ∃ s pkg n flit, Flitting s pkg n ∧ flitWhole flit = false :=
  ⟨linked 0x10 { st := .up }, 0, 0x10, [], ⟨over_wf rfl, rfl, rfl, .inl rfl⟩, by decide +kernel⟩
/-- Whichever end it reaches, the flit of zeros is the next of its class there. -/
theorem witness_flit : ∃ s pkg n flit, Flitting s pkg n ∧ flitWhole flit = true ∧ fieldOf (ofBytes (flit.take 4)) 4 4 < 4 ∧
    ∀ side, side < 2 → fieldOf (ofBytes (flit.take 4)) 8 12 =
      AList.getD (linkAt s pkg n).expect (4 * side + fieldOf (ofBytes (flit.take 4)) 4 4) 0 :=
  ⟨linked 0x10 { st := .degraded, expect := [(3, 4095)] }, 0, 0x10, flit0, ⟨over_wf rfl, rfl, rfl, .inr rfl⟩, flit0_whole, by decide +kernel,
    by decide +kernel⟩
/-- Whichever end it reaches, another is next there. -/
theorem witness_flit_dropped : ∃ s pkg n flit, Flitting s pkg n ∧ flitWhole flit = true ∧
    ∀ side, side < 2 → fieldOf (ofBytes (flit.take 4)) 8 12 ≠
      AList.getD (linkAt s pkg n).expect (4 * side + fieldOf (ofBytes (flit.take 4)) 4 4) 0 :=
  ⟨linked 0x10 { st := .up, expect := [(0, 4095), (4, 1)] }, 0, 0x10, flit0, ⟨over_wf rfl, rfl, rfl, .inl rfl⟩, flit0_whole, by decide +kernel⟩

/-! ## The transport -/

/-- Two paths from chip 0 to chip 4, a packet on the first, its second timeout gone by. -/
def transporting : State := { plain with
  now := 20000
  transports := [((0, 4), { paths := [{ port := 0x30, timeouts := 2 }, { port := 0x31 }], nextSeq := 1, unacked := [{ seq := 0, path := some (0, 0), sent := 0 }] })] }
theorem witness_fabric_receive : ∃ (s : State) (src dst seq i : Nat), s.memWf ∧ s.missing = false ∧ pkgOf src ≠ pkgOf dst ∧
    ∃ u ∈ (transportAt s src dst).unacked, u.seq = seq ∧ u.path.map Prod.fst = some i :=
  ⟨transporting, 0, 4, 0, 0, over_wf rfl, rfl, by decide, _, List.mem_singleton.2 rfl, rfl, rfl⟩
theorem witness_retransmit : ∃ (s : State) (src dst seq i : Nat), s.memWf ∧ s.missing = false ∧ ∃ u k p,
    ((transportAt s src dst).unacked.find? fun u => u.seq == seq) = some u ∧ u.path = some (i, k) ∧ u.sent + 20000 ≤ s.now ∧
    (transportAt s src dst).paths[i]? = some p ∧ ∃ j y, j ≠ i ∧ (transportAt s src dst).paths[j]? = some y ∧ y.live = true :=
  ⟨transporting, 0, 4, 0, 0, over_wf rfl, rfl, _, 0, _, rfl, rfl, by decide, rfl, 1, _, by decide, rfl, rfl⟩
/-- Chip 0's fabric on with 64 paths, port 0x3F UP, its paths to chip 4 as given. -/
def pathed (ps : List FabricPath) : State := { plain with
  chips := [(0, { fabcfg := 0x88B50040 })], links := [((0, 0x3F), { st := .up })], transports := [((0, 4), { paths := ps })] }
/-- What `PathsForm` asks. -/
def Probing (s : State) (src dst i : Nat) (h : s.memWf) : Prop := s.missing = false ∧ pkgOf src ≠ pkgOf dst ∧
  (machine s h).fabricOn src = true ∧ i < (machine s h).maxPaths src
theorem witness_path_back : ∃ s src dst i h, Probing s src dst i h ∧ ∃ p, (transportAt s src dst).paths[i]? = some p ∧ p.live = false ∧
    (linkSt s (pkgOf src) p.port = .up ∨ linkSt s (pkgOf src) p.port = .degraded) :=
  ⟨pathed [{ port := 0x3F, live := false }], 0, 4, 0, over_wf rfl, ⟨rfl, by decide, by decide +kernel, by decide +kernel⟩, _, rfl, rfl, .inl rfl⟩
theorem witness_path_new : ∃ s src dst i h, Probing s src dst i h ∧ i = (transportAt s src dst).paths.length ∧
    ∃ n, 0x30 ≤ n ∧ n ≤ 0x3F ∧ (linkSt s (pkgOf src) n = .up ∨ linkSt s (pkgOf src) n = .degraded) :=
  ⟨pathed [], 0, 4, 0, over_wf rfl, ⟨rfl, by decide, by decide +kernel, by decide +kernel⟩, rfl, 0x3F, by decide, by decide, .inl rfl⟩

end Sys2Proof.Tests
end

