-- ==== Sys2Proof/Tests/DeviceWitness.lean ====
section
/-! SUPPORT. Witnesses: for each statement about the probe, dumps, power, boot, trust, monitors and registers, a concrete state
and operands that meet all its hypotheses. What a signature is worth is no part of the state, so the cases it decides have none. -/
namespace Sys2Proof.Tests
set_option Elab.async false
open Sys2Proof.Machine Sys2Proof.Statement

/-! ## The probe -/

/-- The link from CLD 0 to chip 3 is UP. -/
def near3 : State := { plain with links := [((0, pairLink 0 3), { st := .up })] }
theorem witness_counter_clear : ∃ (s : State) (chip : Nat) (v : DWord) (h : s.memWf), s.missing = false ∧
    (machine s h).barReach chip = .live ∧ v.getLsbD 4 = true :=
  ⟨near3, 3, 0xFFFF, over_wf rfl, rfl, rfl, by decide⟩
theorem witness_trigger_arm : ∃ (s : State) (chip : Nat) (v : DWord) (h : s.memWf), s.missing = false ∧
    (machine s h).barReach chip = .live ∧ v.getLsbD 61 = true :=
  ⟨near3, 3, 0x2010000000000000, over_wf rfl, rfl, rfl, by decide⟩
/-- Context 0 of package 0 is RUNNING, and r0's group has stopped. -/
def stoppedGroup : State := { plain with
  contexts := [((0, 0), { st := .running })], groups := [(r0, { fetchGroup 0 with st := .stopped, stopCause := some .fault })] }
theorem witness_resume_group : ∃ (s : State) (chip : Nat) (v : DWord) (h : s.memWf) (r : GroupRef) (g : Group), s.missing = false ∧
    (machine s h).barReach chip = .live ∧ v.getLsbD 0 = true ∧ (slotAt s (pkgOf chip) ((machine s h).selCtx chip)).st = .running ∧ (s.groups.map Prod.fst).Nodup ∧
    AList.get? s.groups r = some g ∧ r.chip = chip ∧ g.ctx = (machine s h).selCtx chip ∧ g.st = .stopped ∧ v.getLsbD 1 = true :=
  ⟨stoppedGroup, 0, 3, over_wf rfl, r0, _, rfl, rfl, rfl, rfl, by decide +kernel, rfl, rfl, rfl, rfl, rfl⟩
/-- Context 0 samples every 1,024 cycles, at cycle 1,024; r0's fragment issued in sub-datapath 0. -/
def ticking : State := { plain with
  cycle := 1024, chips := [(0, { probe := [(0, { cfg := 0 })] })]
  cores := [((0, 0), { used := [(0, .executed)], charged := [(0, (some f0, .executed))] })] }
theorem witness_sample : ∃ (s : State) (chip core ctx : Nat) (f : FragRef) (leaf : Leaf) (g : Group) (e : Entry) (h : s.memWf),
    s.missing = false ∧ (machine s h).sampling chip ctx = true ∧ (probeAt s chip ctx).ticks.2 ≠ s.cycle ∧
    (machine s h).chargeOf chip core ((probeAt s chip ctx).ticks.1 % 4) = (some f, leaf) ∧ f.grp.chip = chip ∧
    AList.get? s.groups f.grp = some g ∧ AList.get? g.entries f.entry = some e ∧ g.ctx = ctx ∧
    ∀ x, (machine s h).issuer chip core ((probeAt s chip ctx).ticks.1 % 4) = some x → x = (g.ctx, g.block, g.gid) :=
  ⟨ticking, 0, 0, 0, f0, .executed, _, _, over_wf rfl, rfl, by decide +kernel, by decide, by decide +kernel, rfl, rfl, rfl, rfl,
    fun _ hx => (by cases hx)⟩
/-- A dump of r0's group, all of a 2-byte image written. -/
def dump0 : Dump := { grp := r0, entry := 0, code := 0x15, faultTime := 0, image := some ([1, 2], [(128, 2)]), written := 2 }
/-- Context 0 with that dump, its buffer of 128 bytes in the scratchpad; r0's group in a given state. -/
def dumping (x : GroupState) : State := { plain with
  chips := [(0, { probe := [(0, { dump := some dump0, dumpAt := 0x2000000000000000, dumpLen := 128 })] })]
  contexts := [((0, 0), { st := .running, scratch := 2 ^ 21 })], groups := [(r0, { fetchGroup 0 with st := x })] }
theorem witness_dump_halts : ∃ (s : State) (chip ctx : Nat) (d : Dump) (h : s.memWf), s.missing = false ∧
    (probeAt s chip ctx).dump = some d ∧ (machine s h).dumpHalted chip ctx = false ∧ (∀ b ∈ s.blocks, b.2.latch = none) ∧
    ∃ r g, AList.get? s.groups r = some g ∧ r.chip = chip ∧ g.ctx = ctx ∧ g.st = .active ∧ g.outstanding = false ∧ g.fault = none ∧
      g.turnWait = none ∧ g.region = none := by
  refine ⟨dumping .active, 0, 0, dump0, over_wf rfl, rfl, rfl, by decide +kernel, fun b hb => ?_, r0, _, rfl, rfl, rfl, rfl, by decide +kernel, rfl,
    rfl, rfl⟩
  have hb : b ∈ [(0, fetchBlock)] := hb
  cases List.mem_singleton.1 hb
  rfl
/-- Whether a unit's write is done. -/
def isDone (x : Put) : Bool := match x with
  | .done => true
  | _ => false
theorem done_of {x : W × Put} (h : isDone x.2 = true) : x = (x.1, .done) := by
  obtain ⟨w, p⟩ := x
  cases p <;> first | rfl | cases h
theorem witness_dump_ends : ∃ (s : State) (chip ctx : Nat) (d : Dump) (h : s.memWf), s.missing = false ∧
    (probeAt s chip ctx).dump = some d ∧ ∃ bs table w, (machine s h).dumpHalted chip ctx = true ∧ (machine s h).dumpDrained chip ctx = true ∧
      d.image = some (bs, table) ∧ bs.length ≤ d.written ∧ d.stop = none ∧ s.poison = [] ∧ 128 ≤ (probeAt s chip ctx).dumpLen.toNat ∧
      ((machine s h).updProbe chip ctx fun p => { p with dump := some { d with haltTime := some (d.haltTime.getD ((machine s h).time chip)) } }).unitWrite
        chip ctx (probeAt s chip ctx).dumpAt
        (((machine s h).updProbe chip ctx fun p => { p with dump := some { d with haltTime := some (d.haltTime.getD ((machine s h).time chip)) } }).dumpHeader
          chip ctx { d with haltTime := some (d.haltTime.getD ((machine s h).time chip)) } table 1 0xFF ((machine s h).time chip) d.written) =
        (w, .done) ∧ w.s.missing = false :=
  ⟨dumping .stopped, 0, 0, dump0, over_wf rfl, rfl, rfl, _, _, _, by decide +kernel, by decide +kernel, rfl, by decide, rfl, rfl, by decide,
    done_of (by decide +kernel), by decide +kernel⟩

/-! ## Power, boot and trust -/

theorem witness_power_on : ∃ (s : State) (pkg : Nat), s.memWf ∧ s.missing = false ∧ pkg ∈ s.off :=
  ⟨{ plain with off := [7] }, 7, over_wf rfl, rfl, by decide⟩
theorem witness_power_off : ∃ (s : State) (pkg : Nat), s.memWf ∧ s.missing = false ∧ pkg ∉ s.off :=
  ⟨plain, 0, over_wf rfl, rfl, by decide⟩
/-- Chip 2 with some stages accepted. -/
def booting (n : Nat) : State := { plain with chips := [(2, { stages := n })] }
/-- An image of stage 3 in a key slot. -/
def image3 (slot : Nat) : StageImage := { stage := 3, bytes := [1], version := 0, slot := slot, key := [], signature := [] }
theorem witness_boot : ∃ (s : State) (chip : Nat) (x : StageImage) (h : s.memWf), s.missing = false ∧ pkgOf chip ∉ s.off ∧
    (chipAt s chip).power = .boot ∧ x.stage = (chipAt s chip).stages + 1 ∧ x.stage ≤ 3 ∧ (machine s h).auditFull chip = false ∧
    (machine s h).accepts chip x = false :=
  ⟨booting 2, 2, image3 4, over_wf rfl, rfl, by decide, rfl, rfl, by decide, by decide +kernel, by rfl⟩
theorem witness_firmware : ∃ (s : State) (chip ctx : Nat) (h : s.memWf), s.missing = false ∧ (machine s h).firmware chip = true ∧
    (machine s h).auditFull chip = false ∧ (ctx = 0xFF ∨ ctx < 64) :=
  ⟨booting 1, 2, 0xFF, over_wf rfl, rfl, by decide +kernel, by decide +kernel, .inl rfl⟩
theorem witness_audit_consume : ∃ (s : State) (chip : Nat) (h : s.memWf), s.missing = false ∧ (machine s h).barReach chip = .live ∧
    (machine s h).auditFill chip = 1 :=
  ⟨{ near3 with chips := [(3, { appended := 1 })] }, 3, over_wf rfl, rfl, rfl, by decide +kernel⟩
/-- CLD 0 answers over a host link that is UP. -/
def answering0 : State := { plain with chips := [(0, { stages := 3, power := .ready })], links := [((0, 0), { st := .up })] }
theorem witness_attestation : ∃ (s : State) (pkg v : Nat) (h : s.memWf), s.missing = false ∧ (machine s h).spdmReady pkg = true ∧
    (v = 0x12 ∨ v = 0x13) ∧ ∃ i, 1 ≤ i ∧ i ≤ 32 :=
  ⟨answering0, 0, 0x13, over_wf rfl, rfl, by decide +kernel, .inr rfl, 32, by decide, by decide⟩

/-! ## Monitors, events and registers -/

/-- Chip 1 as given, a millisecond and 100 cycles in. -/
def monitored (c : Chip) : State := { plain with chips := [(1, c)], now := 1000000, cycle := 100 }
theorem witness_sensor : ∃ (s : State) (chip temp : Nat), s.memWf ∧ s.missing = false ∧ pkgOf chip ∉ s.off ∧ 110 < temp ∧
    (chipAt s chip).power = .ready :=
  ⟨monitored { power := .ready }, 1, 111, over_wf rfl, rfl, by decide, by decide, rfl⟩
theorem witness_idle_timer : ∃ (s : State) (chip since : Nat), s.memWf ∧ s.missing = false ∧ (chipAt s chip).power = .ready ∧
    (chipAt s chip).idleSince = some since ∧ since + 100000 ≤ s.now ∧ ∀ x ∈ s.groups, x.1.chip ≠ chip := by
  refine ⟨monitored { power := .ready, idleSince := some 900000 }, 1, 900000, over_wf rfl, rfl, rfl, rfl, by decide, fun x hx => ?_⟩
  have hx : x ∈ [(r0, fetchGroup 0)] := hx
  cases List.mem_singleton.1 hx
  decide
/-- What `ClockSteps` asks. -/
def Clocking (s : State) (chip : Nat) : Prop := s.memWf ∧ s.missing = false ∧ pkgOf chip ∉ s.off ∧ (chipAt s chip).power ≠ .safe ∧
  (chipAt s chip).stepAt.1 + 1000000 ≤ s.now
/-- Droop beyond 1 % of the cycles. -/
def Droopy (s : State) (chip : Nat) : Prop := s.cycle - (chipAt s chip).stepAt.2 < 100 * (chipAt s chip).stretched.1
/-- A temperature range that has lasted a millisecond. -/
def Lasting (s : State) (chip : Nat) : Prop := (chipAt s chip).rangeAt + 1000000 ≤ s.now
theorem witness_clock_hot : ∃ s chip, Clocking s chip ∧ 95 < (chipAt s chip).temp ∧ Lasting s chip ∧ ¬Droopy s chip ∧ 500 < (chipAt s chip).mhz :=
  ⟨monitored { temp := 96, stretched := (1, 9) }, 1, ⟨over_wf rfl, rfl, by decide, by decide, by decide⟩, by decide,
    by unfold Lasting; decide, by unfold Droopy; decide, by decide⟩
theorem witness_clock_droop : ∃ s chip, Clocking s chip ∧ (chipAt s chip).temp ≤ 95 ∧ Droopy s chip ∧ 500 < (chipAt s chip).mhz :=
  ⟨monitored { temp := 95, stretched := (2, 9), mhz := 501 }, 1, ⟨over_wf rfl, rfl, by decide, by decide, by decide⟩, by decide,
    by unfold Droopy; decide, by decide⟩
theorem witness_clock_cool : ∃ s chip, Clocking s chip ∧ (chipAt s chip).temp < 90 ∧ Lasting s chip ∧ ¬Droopy s chip ∧ (chipAt s chip).mhz < 1000 ∧
    900 ≤ (chipAt s chip).mhz :=
  ⟨monitored { temp := 89, mhz := 900 }, 1, ⟨over_wf rfl, rfl, by decide, by decide, by decide⟩, by decide, by unfold Lasting; decide,
    by unfold Droopy; decide, by decide, by decide⟩
theorem witness_clock_steady : ∃ s chip, Clocking s chip ∧ 90 ≤ (chipAt s chip).temp ∧ (chipAt s chip).temp ≤ 95 ∧ ¬Droopy s chip :=
  ⟨monitored { temp := 90 }, 1, ⟨over_wf rfl, rfl, by decide, by decide, by decide⟩, by decide, by decide, by unfold Droopy; decide⟩
theorem witness_clock_young : ∃ s chip, Clocking s chip ∧ ¬Lasting s chip ∧ ¬Droopy s chip ∧ (chipAt s chip).temp = 89 :=
  ⟨monitored { temp := 89, mhz := 900, rangeAt := 1 }, 1, ⟨over_wf rfl, rfl, by decide, by decide, by decide⟩,
    by unfold Lasting; decide, by unfold Droopy; decide, rfl⟩
theorem witness_events : ∃ (s : State) (chip : Nat), s.memWf ∧ s.missing = false ∧ (chipAt s chip).eventHeld ≠ [] :=
  ⟨monitored { eventRoom := 0, eventHeld := [[1], [2]] }, 1, over_wf rfl, rfl, by decide⟩
theorem witness_registers : ∃ (s : State) (chip n : Nat) (h : s.memWf), s.missing = false ∧ pkgOf chip ∉ s.off ∧
    (machine s h).barReach chip = .live ∧ linkNamed n = true :=
  ⟨near3, 3, 0x3F, over_wf rfl, rfl, by decide, rfl, rfl⟩

end Sys2Proof.Tests
end

