-- ==== Sys2Proof/Tests/MemoryWitness.lean ====
section
/-! SUPPORT. Witnesses: for each statement about loads, stores, atomics, reductions, collectives and copies, a concrete state and
operands that meet all its hypotheses. -/
namespace Sys2Proof.Tests
set_option Elab.async false
open Sys2Proof.Machine Sys2Proof.Statement

/-! ## Memory words -/

/-- The block has 2 MiB of shared memory, s1 points to its start plus an offset, and v0 is zero. -/
def shared (off : Nat) : State :=
  readyIn (fun g => { g with s := [(1, BitVec.ofNat 64 (2 ^ 60 + off))], stackLen := 256, ssp := 128 }) fun b => { b with shared := 2 ^ 21 }
theorem shared_wf (off : Nat) : (shared off).memWf := by
  show memoryWf (plain.mem) = true
  decide +kernel
/-- The accesses a word's checks let through. -/
def through (c : AllChk) : List Acc := match c with
  | .ok xs => xs
  | _ => []
/-- Whether the checks let the word through. -/
def isThrough (c : AllChk) : Bool := match c with
  | .ok _ => true
  | _ => false
theorem through_of {c : AllChk} (h : isThrough c = true) : c = .ok (through c) := by cases c <;> first | rfl | cases h
/-- What `MemoryWords` asks. -/
def Remembers (s : State) (a : At) (i : Instr) (z : MemoryWord) (accs : List Acc) (h : s.memWf) : Prop :=
  memoryWord a i = some z ∧ z.accepts = true ∧ z.even = true ∧ modeO a.e.mode = 0 ∧ Reached s a z.need z.accesses accs h ∧
    (z.late = false → ∀ c ∈ accs, replicated c = false) ∧ a.awaits = false ∧ (z.late = false → (machine s h).forwarding a.r < 16) ∧
    Free s a i z.k z.use ∧ a.g.region = none
/-- The last word of shared memory. -/
theorem witness_load : ∃ s a i z accs h, Remembers s a i z accs h ∧ i = .vld true 1 127 0 := by
  refine ⟨shared 0x1FFFFC, atOf (shared 0x1FFFFC), .vld true 1 127 0, _,
    through ((machine (shared 0x1FFFFC) (shared_wf _)).checkAll (atOf (shared 0x1FFFFC)) .read false (lanesOf (atOf (shared 0x1FFFFC)) 1 0)),
    shared_wf _, ⟨rfl, by decide +kernel, by decide +kernel, by decide +kernel, ⟨through_of (by decide +kernel), by decide +kernel, .inr rfl⟩,
    fun h => (by cases h), by decide +kernel, fun h => (by cases h), free_of (by decide +kernel), rfl⟩, rfl⟩
theorem witness_store : ∃ s a i z accs h, Remembers s a i z accs h ∧ i = .vst false 1 127 0 := by
  refine ⟨shared 0, atOf (shared 0), .vst false 1 127 0, _,
    through ((machine (shared 0) (shared_wf _)).checkAll (atOf (shared 0)) .write false (lanesOf (atOf (shared 0)) 1 0)),
    shared_wf _, ⟨rfl, by decide +kernel, by decide +kernel, by decide +kernel, ⟨through_of (by decide +kernel), by decide +kernel, .inr rfl⟩,
    fun _ => by decide +kernel, by decide +kernel, fun _ => by decide +kernel, free_of (by decide +kernel), rfl⟩, rfl⟩
theorem witness_shared_access : ∃ (s : State) (_ : s.memWf) (a : At) (b : Block) (l width off : Nat), l < 32 ∧
    AList.get? s.blocks a.g.block = some b ∧ b.shared ≤ 2 ^ 21 ∧ width ∈ [1, 2, 4, 8] ∧ off < 2 ^ 60 ∧ off < b.shared ∧ off % width = 0 :=
  ⟨shared 0, shared_wf 0, atOf (shared 0), _, 31, 8, 0x1FFFF8, by decide, rfl, by decide, by decide, by decide, by decide, by decide⟩
theorem witness_shared_misaligned : ∃ (s : State) (_ : s.memWf) (a : At) (b : Block) (l width off : Nat), l < 32 ∧
    AList.get? s.blocks a.g.block = some b ∧ b.shared ≤ 2 ^ 21 ∧ width ∈ [1, 2, 4, 8] ∧ off < 2 ^ 60 ∧ off < b.shared ∧ off % width ≠ 0 :=
  ⟨shared 0, shared_wf 0, atOf (shared 0), _, 0, 2, 0x1FFFFF, by decide, rfl, by decide, by decide, by decide, by decide, by decide⟩
theorem witness_shared_beyond : ∃ (s : State) (_ : s.memWf) (a : At) (b : Block) (l width off : Nat), l < 32 ∧
    AList.get? s.blocks a.g.block = some b ∧ b.shared ≤ 2 ^ 21 ∧ width ∈ [1, 2, 4, 8] ∧ off < 2 ^ 60 ∧ b.shared ≤ off :=
  ⟨shared 0, shared_wf 0, atOf (shared 0), _, 5, 4, 0x200000, by decide, rfl, by decide, by decide, by decide, by decide⟩
/-- The fault a word's checks meet. -/
def met (c : AllChk) : Flt := match c with
  | .flt f => f
  | _ => { code := 0 }
/-- Whether the checks meet a fault. -/
def isMet (c : AllChk) : Bool := match c with
  | .flt _ => true
  | _ => false
theorem met_of {c : AllChk} (h : isMet c = true) : c = .flt (met c) := by cases c <;> first | rfl | cases h
theorem witness_access_fault : ∃ (s : State) (a : At) (i : Instr) (z : MemoryWord) (f : Flt) (h : s.memWf), memoryWord a i = some z ∧
    z.accepts = true ∧ z.even = true ∧ modeO a.e.mode = 0 ∧ (machine s h).checkAll a z.need false z.accesses = .flt f ∧
    Free s a i z.k z.use ∧ Calm s a := by
  refine ⟨shared 1, atOf (shared 1), .vst false 1 127 0, _,
    met ((machine (shared 1) (shared_wf _)).checkAll (atOf (shared 1)) .write false (lanesOf (atOf (shared 1)) 1 0)),
    shared_wf _, rfl, by decide +kernel, by decide +kernel, by decide +kernel, met_of (by decide +kernel), free_of (by decide +kernel), calm_of (by decide +kernel)⟩
theorem witness_prefetch : ∃ (s : State) (a : At) (k : Bool) (r : BitVec 8) (o : BitVec 7), Free s a (.prf k r o) k {} ∧
    HasRoom a { allowed := modeO a.e.mode == 0 } :=
  ⟨plain, atOf plain, true, 191, 127, free_of (by decide +kernel), room_of rfl⟩
/-- What `SpillWords` asks. -/
def Spills (s : State) (a : At) (off : Nat) (h : s.memWf) : Prop := a.g.ssp = BitVec.ofNat 64 off ∧ off < 2 ^ 21 ∧ off % 128 = 0 ∧
  Unwatching s a ∧ a.g.region = none ∧ (machine s h).dieReach a.r.chip = .live
theorem witness_push : ∃ s a off h, Spills s a off h ∧ ∃ (k : Bool) (v : BitVec 7), 128 ≤ off ∧ off ≤ a.g.stackLen ∧
    (machine s h).forwarding a.r < 16 ∧ Free s a (.vpush k v) k { vr := [v.toNat] } :=
  ⟨shared 0, atOf (shared 0), 128, shared_wf 0, ⟨rfl, by decide, by decide, .inr rfl, rfl, rfl⟩, false, 127, by decide, by decide +kernel,
    by decide +kernel, free_of (by decide +kernel)⟩
theorem witness_pop : ∃ s a off h, Spills s a off h ∧ ∃ (k : Bool) (v : BitVec 7), off + 128 ≤ a.g.stackLen ∧
    Free s a (.vpopSpill k v) k { vw := [v.toNat] } :=
  ⟨shared 0, atOf (shared 0), 128, shared_wf 0, ⟨rfl, by decide, by decide, .inr rfl, rfl, rfl⟩, true, 0, by decide +kernel,
    free_of (by decide +kernel)⟩

/-! ## Operations that arrive -/

/-- The group's one operation. -/
def doing (o : GroupOp) : State := ready fun g => { g with ops := [o], nextOp := 1 }
theorem pending_of (o : GroupOp) : Pending (doing o) r0 (atOf (doing o)).g o where
  wf := show memoryWf plain.mem = true by decide +kernel
  whole := rfl
  group := rfl
  oldest := ⟨[], rfl, fun _ h => by cases h⟩
  fault := rfl
  late := rfl
  stopping := rfl
  living := by intro h; cases h
  meeting := fun _ h => by cases h; rfl
theorem uncopied_of (o : GroupOp) : Uncopied (doing o) (atOf (doing o)).g := fun _ h => by cases h
/-- An access of lane l to the block's shared memory. -/
def acc (l : Nat) : Acc := { lane := l, va := 2 ^ 60, key := sharedKey 0 (4 * l), width := 4, path := .shared }
theorem witness_result : ∃ s r g o ws, Pending s r g o ∧ o.isV = true ∧ o.kind = .value ws :=
  ⟨_, _, _, { id := 0, kind := .value [.s 191 1] }, _, pending_of _, rfl, rfl⟩
theorem witness_load_arrives : ∃ (s : State) (r : GroupRef) (g : Group) (o : GroupOp) (t' : EType) (vd n : Nat) (accs : List Acc)
    (h : s.memWf), Pending s r g o ∧ o.isV = true ∧ o.kind = .load n vd accs ∧ etypeOf n = some t' ∧ is64 t' = false ∧
    accs.Pairwise (fun x y => x.lane < y.lane) ∧ Uncopied s g ∧
    (∀ c ∈ accs, c.path = .shared ∧ c.lane < 32 ∧ c.width = widthOf t' / 8 ∧ (machine s h).accPoisoned c = false) :=
  ⟨_, _, _, { id := 0, kind := .load 10 127 [acc 0, acc 31] }, .f32, _, _, _, (pending_of _).wf, pending_of _, rfl, rfl, rfl, rfl, by decide +kernel,
    uncopied_of _, by decide +kernel⟩
theorem witness_store_arrives : ∃ (s : State) (r : GroupRef) (g : Group) (o : GroupOp) (xs : List (Acc × Nat)), Pending s r g o ∧
    o.isV = false ∧ o.kind = .store xs ∧ (∀ x ∈ xs, x.1.path = .shared) ∧ Uncopied s g :=
  ⟨_, _, _, { id := 0, kind := .store [(acc 0, 1), (acc 0, 2)], isV := false }, _, pending_of _, rfl, rfl, by decide +kernel, uncopied_of _⟩
theorem witness_atomic_arrives : ∃ (s : State) (r : GroupRef) (g : Group) (o : GroupOp) (op : AtomicOp) (vd n : Nat) (t' : EType)
    (c : Acc) (x y : Nat) (h : s.memWf), Pending s r g o ∧ o.isV = true ∧ o.kind = .atomic op n vd [(c, x, y)] ∧ etypeOf n = some t' ∧
    is64 t' = false ∧ widthOf t' = 32 ∧ c.path = .shared ∧ c.width = 4 ∧ c.lane < 32 ∧ 2 ^ 60 ≤ c.key ∧
    (machine s h).accPoisoned c = false ∧ (∀ d ∈ s.directory, d.writer = r.chip → d.line ≠ c.key / 128) :=
  ⟨_, _, _, { id := 0, kind := .atomic .cas 5 0 [(acc 31, 1, 0)] }, _, _, _, .n32, _, _, _, (pending_of _).wf, pending_of _, rfl, rfl, rfl, rfl, rfl,
    rfl, rfl, by decide, by decide +kernel, by decide +kernel, fun _ h => by cases h⟩

/-! ## Reductions and windows -/

theorem plain_wf : plain.memWf := by decide +kernel
/-- s5 to s7 hold the base, length and count of a window in the mapped page, at their largest and smallest. -/
def windowed (count : Nat) (o : Option OpenWindow) : State := { ready fun g =>
    { g with s := [(5, 0x10080), (6, BitVec.ofNat 64 (2 ^ 20)), (7, BitVec.ofNat 64 count)], window := o } with
  tlb := [{ fetchLeaf with base := 0, bits := 21 }] }
/-- Whether a page is translated, and not replicated. -/
def singlePage (w : W) (a : At) (p : Nat) : Bool :=
  match w.groupLookup a (p * 65536) with
  | some (.leaf e _ _) => leafKind e != 2
  | some _ => true
  | none => false
theorem single_of {w : W} {a : At} {p : Nat} (h : singlePage w a p = true) :
    ∃ x, w.groupLookup a (p * 65536) = some x ∧ ∀ e n ap, x = .leaf e n ap → leafKind e ≠ 2 := by
  unfold singlePage at h
  split at h
  · rename_i e n ap hx
    refine ⟨_, hx, fun e' n' ap' he => ?_⟩
    cases he
    simpa using h
  · rename_i x hn hx
    exact ⟨x, hx, fun e n ap he => (hn e n ap he).elim⟩
  · cases h
theorem witness_reduction : ∃ (s : State) (a : At) (i : Instr) (k : Bool) (n : Nat) (r : BitVec 8) (d o : BitVec 7) (accs : List Acc)
    (h : s.memWf), reduction i = some (k, n, r, d, o) ∧ a.etype.isSome = true ∧ atomicType a.ty = true ∧
    (is64 a.ty = true → d.toNat % 2 = 0) ∧ modeO a.e.mode = 0 ∧ Reached s a .atomic (lanesOf a r o) accs h ∧ Drained s a ∧
    Free s a i k { vr := regsOf a.ty d.toNat ++ [o.toNat], sr := [r.toNat] } ∧ a.g.region = none := by
  refine ⟨shared 0, atOf (shared 0), .vredmax true 1 127 0, _, _, _, _, _,
    through ((machine (shared 0) (shared_wf _)).checkAll (atOf (shared 0)) .atomic false (lanesOf (atOf (shared 0)) 1 0)),
    shared_wf _, rfl, by decide +kernel, by decide +kernel, by decide +kernel, by decide +kernel,
    ⟨through_of (by decide +kernel), by decide +kernel, .inr rfl⟩, ?_, free_of (by decide +kernel), rfl⟩
  exact ⟨rfl, rfl, rfl, fun _ h => (by cases h), fun _ h => (by cases h)⟩
/-- One unit operation in flight. -/
def unit (kind : UnitOp) : State := { plain with units := [(1, { op := 1, grp := r0, owner := (0, 0), ctx := 0, kind := kind })] }
theorem witness_reduction_applies : ∃ (s : State) (u : UnitRec) (n et : Nat) (t' : EType) (c : Acc) (x : Nat) (h : s.memWf),
    s.missing = false ∧ AList.get? s.units u.op = some u ∧ u.kind = .reduce n et [(c, x)] ∧ etypeOf et = some t' ∧ widthOf t' = 32 ∧
    c.path = .shared ∧ c.width = 4 ∧ 2 ^ 60 ≤ c.key ∧ (machine s h).accPoisoned c = false ∧ (∀ d ∈ s.directory, d.line ≠ c.key / 128) :=
  ⟨unit (.reduce 2 4 [(acc 31, 7)]), { op := 1, grp := r0, owner := (0, 0), ctx := 0, kind := .reduce 2 4 [(acc 31, 7)] }, _, _, _, _, _,
    plain_wf, rfl, rfl, rfl, rfl, rfl, rfl, rfl, by decide, by decide +kernel, fun _ h => by cases h⟩
/-- The one access let through. -/
def oneOf (c : AllChk) : Acc := (through c).headD (acc 0)
/-- Whether exactly one access is let through. -/
def isOne (c : AllChk) : Bool := match c with
  | .ok [_] => true
  | _ => false
theorem one_of {c : AllChk} (h : isOne c = true) : c = .ok [oneOf c] := by
  cases c with
  | ok xs => match xs with
    | [x] => rfl
    | [] => cases h
    | _ :: _ :: _ => cases h
  | _ => cases h
theorem witness_window_open : ∃ (s : State) (a : At) (k : Bool) (r : BitVec 8) (c : Acc) (h : s.memWf), a.g.window = none ∧
    (a.sval r.toNat).toNat < 2 ^ 56 ∧ (a.sval r.toNat).toNat % 128 = 0 ∧ 128 ≤ (a.sval (r.toNat + 1)).toNat ∧
    (a.sval (r.toNat + 1)).toNat ≤ 2 ^ 20 ∧ (a.sval (r.toNat + 1)).toNat % 128 = 0 ∧ 1 ≤ (a.sval (r.toNat + 2)).toNat ∧
    (a.sval (r.toNat + 2)).toNat ≤ 4096 ∧ (machine s h).checkAll a .atomic false [(0, 1, a.sval r.toNat)] = .ok [c] ∧
    (machine s h).reach a.r.chip c.path = .live ∧
    (∀ p, (a.sval r.toNat).toNat / 65536 ≤ p → p ≤ ((a.sval r.toNat).toNat + (a.sval (r.toNat + 1)).toNat - 1) / 65536 →
      ∃ x, (machine s h).groupLookup a (p * 65536) = some x ∧ ∀ e n ap, x = .leaf e n ap → leafKind e ≠ 2) ∧
    AList.get? s.windows c.key = none ∧ (s.windows.filter fun w => homeOf w.1 == homeOf c.key).length < 16 ∧
    Drained s a ∧ Free s a (.rwin k r) k { sr := [r.toNat, r.toNat + 1, r.toNat + 2] } ∧ a.g.region = none := by
  refine ⟨windowed 4096 none, atOf (windowed 4096 none), false, 5,
    oneOf ((machine (windowed 4096 none) plain_wf).checkAll (atOf (windowed 4096 none)) .atomic false [(0, 1, 0x10080)]), plain_wf, rfl,
    by decide +kernel, by decide +kernel, by decide +kernel, by decide +kernel, by decide +kernel, by decide +kernel, by decide +kernel,
    one_of (by decide +kernel), by decide +kernel, fun p h1 h2 => single_of ?_, by decide +kernel, by decide +kernel, ?_,
    free_of (by decide +kernel), rfl⟩
  · have hp : p ∈ List.range 18 := List.mem_range.2 (Nat.lt_of_le_of_lt h2 (by decide +kernel))
    have h1 : 1 ≤ p := h1
    have all : ∀ p ∈ List.range 18, 1 ≤ p → singlePage (machine (windowed 4096 none) plain_wf) (atOf (windowed 4096 none)) p = true := by
      decide +kernel
    exact all p hp h1
  · exact ⟨rfl, rfl, rfl, fun _ h => (by cases h), fun _ h => (by cases h)⟩
/-- The group holds an open window whose home record is at cell 0. -/
def opened : OpenWindow := { base := 0x10000, len := 128, count := 1, home := 0, number := 1, path := .home 0 false false }
theorem witness_window_close : ∃ (s : State) (a : At) (k : Bool) (w : OpenWindow) (x : HomeWindow) (h : s.memWf), a.g.window = some w ∧
    w.combined = none ∧ w.lost = false ∧ (machine s h).reach a.r.chip w.path = .live ∧ AList.get? s.windows w.home = some x ∧ Drained s a ∧ Free s a (.rwcl k) k {} ∧ a.g.region = none := by
  refine ⟨{ windowed 1 (some opened) with windows := [(0, { len := 128, count := 1, number := 1 })] }, atOf (windowed 1 (some opened)), true,
    opened, _, plain_wf, rfl, rfl, rfl, by decide +kernel, rfl, ?_, free_of (s := { windowed 1 (some opened) with windows := [(0, { len := 128, count := 1, number := 1 })] })
    (by decide +kernel), rfl⟩
  exact ⟨rfl, rfl, rfl, fun _ h => (by cases h), fun _ h => (by cases h)⟩
/-- A contributor's key. -/
def key0 : GroupKey := ⟨0, 0, 0, 0, 0⟩
/-- One contribution to the word at cell 4. -/
def part : Contribution := { key := key0, cell := 4, width := 4, op := 0, etype := 5, value := 9 }
theorem witness_window_combines : ∃ (s : State) (base : Nat) (w : HomeWindow) (p : Contribution) (t' : EType) (h : s.memWf),
    s.missing = false ∧ AList.get? s.windows base = some w ∧ w.count ≤ w.closed.length ∧ w.mismatch = false ∧ w.parts = [p] ∧
    etypeOf p.etype = some t' ∧ widthOf t' = 32 ∧ p.width = 4 ∧ s.directory = [] ∧ s.poison = [] ∧ (machine s h).lineFree p.cell = true :=
  ⟨{ plain with windows := [(0, { len := 128, count := 1, parts := [part], closed := [(1, r0, key0)], number := 1 })] }, 0, _, part, _,
    plain_wf, rfl, rfl, by decide, rfl, rfl, rfl, rfl, rfl, rfl, rfl, by decide +kernel⟩
theorem witness_window_order : ∃ xs ys : List (GroupKey × Nat), xs.Perm ys ∧ (xs.map Prod.fst).Nodup ∧ xs ≠ ys :=
  ⟨[(key0, 1), (⟨3, 3, 95, 1, 127⟩, 2)], [(⟨3, 3, 95, 1, 127⟩, 2), (key0, 1)], .swap .., by decide, by decide⟩

/-! ## Collectives -/

/-- Aperture entry 0 names 64 KiB at 0x2_0000 of chip 0. -/
def apertured : State := { plain with apertures := [((0, 0, 0), 1 + 2 ^ 64 + 2 * 2 ^ 80)] }
/-- The targets of all lanes. -/
def targets : List (Nat × Nat × Nat × Nat) :=
  match ((machine apertured plain_wf).collectiveLanes (atOf apertured) 2 3 (lanesIn (atOf apertured).enabled)).2 with
  | .ok ts => ts
  | .error _ => []
/-- Whether every lane has a target. -/
def isTargeted {α β : Type} (x : W × Except α β) : Bool := match x.2 with
  | .ok _ => true
  | .error _ => false
theorem targeted_of {α β : Type} {x : W × Except α β} (h : isTargeted x = true) : ∃ y, x = (x.1, .ok y) := by
  obtain ⟨w, z⟩ := x
  cases z with
  | ok y => exact ⟨y, rfl⟩
  | error _ => cases h
theorem witness_collective : ∃ (s : State) (a : At) (i : Instr) (k : Bool) (u : Use) (p o : BitVec 7) (kind : UnitOp) (h : s.memWf) (w : W)
    (ts : List (Nat × Nat × Nat × Nat)), collective s h a ts i = some (k, u, p, o, kind) ∧
    (∃ t, a.etype = some t ∧ collectiveType t = true) ∧ modeO a.e.mode = 0 ∧
    (machine s h).collectiveLanes a p.toNat o.toNat (lanesIn a.enabled) = (w, .ok ts) ∧ Drained s a ∧ Free s a i k u ∧
    a.g.region = none := by
  obtain ⟨ts, ht⟩ := targeted_of (x := (machine apertured plain_wf).collectiveLanes (atOf apertured) 2 3 (lanesIn (atOf apertured).enabled))
    (by decide +kernel)
  exact ⟨apertured, atOf apertured, .cget false 1 2 3, _, _, _, _, _, plain_wf, _, ts, rfl, ⟨.f32, by decide +kernel, by decide +kernel⟩,
    by decide +kernel, ht, ⟨rfl, rfl, rfl, fun _ h => (by cases h), fun _ h => (by cases h)⟩, free_of (by decide +kernel), rfl⟩
theorem witness_collective_arrives : ∃ (s : State) (u : UnitRec) (cell v : Nat) (h : s.memWf), s.missing = false ∧
    AList.get? s.units u.op = some u ∧ cell < 2 ^ 60 ∧ cell % 4 = 0 ∧ s.poison = [] ∧ s.directory = [] ∧ (machine s h).lineFree cell = true ∧
    (machine s h).dieReach u.grp.chip = .live ∧ (machine s h).arrived u.op = true ∧
    u.kind = .put [(u.grp.chip, cell, v)] :=
  ⟨unit (.put [(0, 2 ^ 60 - 4, 7)]), { op := 1, grp := r0, owner := (0, 0), ctx := 0, kind := .put [(0, 2 ^ 60 - 4, 7)] }, _, _,
    plain_wf, rfl, rfl, by decide, by decide, rfl, rfl, by decide +kernel, rfl, rfl, rfl⟩
theorem witness_cred_arrives : ∃ (s : State) (u : UnitRec) (cell v : Nat) (h : s.memWf), s.missing = false ∧
    AList.get? s.units u.op = some u ∧ cell < 2 ^ 60 ∧ cell % 4 = 0 ∧ s.poison = [] ∧ s.directory = [] ∧ (machine s h).lineFree cell = true ∧
    (machine s h).dieReach u.grp.chip = .live ∧ (machine s h).arrived u.op = true ∧
    ∃ l et t' paths, u.kind = .cred et paths [(l, u.grp.chip, cell, v)] ∧ etypeOf et = some t' ∧ widthOf t' = 32 :=
  ⟨unit (.cred 5 [] [(31, 0, 0, 7)]), { op := 1, grp := r0, owner := (0, 0), ctx := 0, kind := .cred 5 [] [(31, 0, 0, 7)] }, _, _,
    plain_wf, rfl, rfl, by decide, by decide, rfl, rfl, by decide +kernel, rfl, rfl, _, _, _, _, rfl, rfl, rfl⟩

/-! ## Copies -/

/-- A template of n elements of one byte, contiguous; its multicast mask names block 0, its destination is shared offset 0. -/
def contiguous (n : Nat) : Template := [2 ^ 8, BitVec.ofNat 64 n, 1, 0, 1, 0, 2 ^ 60, 0]
/-- The block has template 15, 2 MiB of shared memory and READY tile 31; s1 points to the scratchpad and s2 to shared memory. -/
def copying : State := { readyIn (fun g => { g with s := [(1, BitVec.ofNat 64 (2 ^ 61)), (2, BitVec.ofNat 64 (2 ^ 60)), (3, 1)] })
  (fun b => { b with templates := [(15, contiguous 16)], shared := 2 ^ 21, cluster := 0, tiles := 32
                     table := [(31, { ctl := 0 + 1 * 2 ^ 4 + 16 * 2 ^ 13, st := .ready })] }) with
  clusters := [(0, { blocks := [0], size := 1 })] }
/-- What `CopyWord` asks. -/
def Copies (s : State) (a : At) (i : Instr) (dir : CopyDir) : Prop :=
  ∃ (k : Bool) (u : Use) (n : BitVec 4) (x y : DWord) (p : Template) (b : Block) (h : s.memWf), copyOf a i = some (k, u, n, dir, x, y) ∧
    AList.get? s.blocks a.g.block = some b ∧ (machine s h).template a.g n.toNat = some p ∧ (machine s h).copyFault a p dir x y = none ∧
    (dir = .tileMem → (b.tile (y.toNat % 32)).st = .ready ∨ (b.tile (y.toNat % 32)).st = .draining) ∧
    (AList.getD s.cores (b.chip, b.span.headD 0) {}).copyShared < 512 ∧ Drained s a ∧ Free s a i k u ∧ a.g.region = none
theorem witness_copy : ∃ s a i, Copies s a i .memShared :=
  ⟨copying, atOf copying, .cpy false 15 1 2 3, _, _, _, _, _, _, _, plain_wf, rfl, rfl, rfl, by decide +kernel, fun h => (by cases h),
    by decide +kernel, ⟨rfl, rfl, rfl, fun _ h => (by cases h), fun _ h => (by cases h)⟩, free_of (by decide +kernel), rfl⟩
theorem witness_copy_from_tile : ∃ s a i, Copies s a i .tileMem :=
  ⟨copying, atOf copying, .cpy true 15 1 31 2, _, _, _, _, _, _, _, plain_wf, rfl, rfl, rfl, by decide +kernel, fun _ => .inl rfl,
    by decide +kernel, ⟨rfl, rfl, rfl, fun _ h => (by cases h), fun _ h => (by cases h)⟩, free_of (by decide +kernel), rfl⟩
theorem witness_multicast : ∃ (s : State) (a : At) (k : Bool) (n : BitVec 4) (r m : BitVec 8) (p : Template) (b : Block) (z : Cluster)
    (h : s.memWf), AList.get? s.blocks a.g.block = some b ∧ AList.get? s.clusters b.cluster = some z ∧
    (machine s h).template a.g n.toNat = some p ∧ (machine s h).copyFault a p .multicast (a.sval r.toNat) p.dsh = none ∧
    (a.sval m.toNat).toNat < 2 ^ min z.size 16 ∧ (AList.getD s.cores (b.chip, b.span.headD 0) {}).copyShared < 512 ∧ Drained s a ∧
    Free s a (.mcast k n r m) k { sr := [r.toNat, m.toNat] } ∧ a.g.region = none ∧ (a.sval m.toNat).toNat = 1 :=
  ⟨copying, atOf copying, false, 15, 1, 3, _, _, _, plain_wf, rfl, rfl, rfl, by decide +kernel, by decide +kernel, by decide +kernel,
    ⟨rfl, rfl, rfl, fun _ h => (by cases h), fun _ h => (by cases h)⟩, free_of (by decide +kernel), rfl, by decide +kernel⟩
/-- Copy 9 of block 0. -/
def copy9 (dir : CopyDir) (st : CopyState) (n next : Nat) (dests : List (Nat × Nat)) : Copy :=
  { op := 9, dir := dir, tmpl := contiguous n, x := BitVec.ofNat 64 (2 ^ 61), y := BitVec.ofNat 64 (2 ^ 60), block := 0, grp := r0, gid := 0
    ctx := 0, chip := 0, core := 0, sharedEntry := true, st := st, next := next, dests := dests }
/-- The state with copy 9, first in core 0's queue, and a scratchpad of 16 MiB. -/
def flying (c : Copy) : State := { plain with
  copies := [(9, c)], cores := [((0, 0), { copyQueue := [9], copyShared := 1 })]
  contexts := [((0, 0), { st := .running, scratch := 2 ^ 24 })] }
theorem witness_copy_starts : ∃ (s : State) (chip core op : Nat) (rest : List Nat) (c : Copy) (b : Block), s.memWf ∧ s.missing = false ∧
    (AList.getD s.cores (chip, core) {}).copyQueue = op :: rest ∧ AList.get? s.copies op = some c ∧ c.sharedEntry = true ∧
    AList.get? s.blocks c.block = some b ∧ c.dir = .memTile ∧ (b.tile (c.y.toNat % 32)).st = .empty :=
  ⟨flying (copy9 .memTile .queued 1 0 []), 0, 0, 9, [], _, _, plain_wf, rfl, rfl, rfl, rfl, rfl, rfl, rfl⟩
theorem witness_copy_parks : ∃ (s : State) (chip core op : Nat) (rest : List Nat) (c : Copy) (b : Block), s.memWf ∧ s.missing = false ∧
    (AList.getD s.cores (chip, core) {}).copyQueue = op :: rest ∧ AList.get? s.copies op = some c ∧ c.sharedEntry = true ∧
    AList.get? s.blocks c.block = some b ∧ c.dir = .memTile ∧ (b.tile (c.y.toNat % 32)).st ≠ .empty :=
  ⟨{ flying (copy9 .memTile .queued 1 0 []) with blocks := [(0, { fetchBlock with table := [(0, { st := .ready })] })] }, 0, 0, 9, [], _, _,
    plain_wf, rfl, rfl, rfl, rfl, rfl, rfl, by decide +kernel⟩
theorem witness_copy_arrives : ∃ (s : State) (c : Copy) (n xo yo : Nat), s.memWf ∧ s.missing = false ∧ AList.get? s.copies c.op = some c ∧
    c.st = .running ∧ c.dir = .memShared ∧ c.next = 0 ∧ c.undo = [] ∧ c.raced = [] ∧ (∃ h, (machine s h).dieReach c.chip = .live) ∧ s.directory = [] ∧
    s.waiting = [] ∧ s.poison = [] ∧ 0 < n ∧
    c.tmpl.span 0 = n ∧ c.tmpl.span 1 = 1 ∧ c.tmpl.span 2 = 1 ∧ c.tmpl.span 3 = 1 ∧ c.tmpl.src 0 = c.tmpl.size ∧ c.tmpl.dst 0 = c.tmpl.size ∧
    c.x = BitVec.ofNat 64 (2 ^ 61 + xo) ∧ c.y = BitVec.ofNat 64 (2 ^ 60 + yo) ∧ xo + n * c.tmpl.size ≤ 2 ^ 30 ∧
    yo + n * c.tmpl.size ≤ 2 ^ 21 ∧ c.ctx < 64 ∧ c.chip < 16 ∧
    xo + n * c.tmpl.size ≤ (AList.getD s.contexts (pkgOf c.chip, c.ctx) {}).scratch :=
  ⟨flying (copy9 .memShared .running 65535 0 []), copy9 .memShared .running 65535 0 [], 65535, 0, 0, plain_wf, rfl, rfl, rfl, rfl, rfl, rfl,
    rfl, ⟨plain_wf, rfl⟩, rfl, rfl, rfl, by decide, by decide +kernel, by decide +kernel, by decide +kernel, by decide +kernel, by decide +kernel,
    by decide +kernel, by decide +kernel, by decide +kernel, by decide +kernel, by decide +kernel, by decide, by decide, by decide +kernel⟩
/-- Copy 9 as a walk whose source page is not mapped. -/
def unmapped : Copy := { copy9 .memMem .running 1 0 [] with x := 0x50000 }
/-- The first access of that walk. -/
def firstAccess : W × LaneChk :=
  (machine (flying unmapped) plain_wf).unitAccess 0 0 .read unmapped.tmpl.size (walkAddr unmapped.x (unmapped.tmpl.offset unmapped.tmpl.src 0))
/-- The fault of an access. -/
def laneFault (x : W × LaneChk) : Option Flt := match x.2 with
  | .flt f => some f
  | _ => none
theorem fault_of {x : W × LaneChk} {f : Flt} (h : laneFault x = some f) : x = (x.1, .flt f) := by
  obtain ⟨w, c⟩ := x
  cases c <;> simp [laneFault] at h
  rw [h]
theorem witness_copy_walk_fault : ∃ (s : State) (c : Copy) (w : W) (f : Flt) (h : s.memWf), s.missing = false ∧
    AList.get? s.copies c.op = some c ∧ c.st = .running ∧ c.dir = .memMem ∧ c.next < c.tmpl.count ∧
    (f.code = 0x07 ∨ f.code = 0x08 ∨ f.code = 0x09) ∧
    (machine s h).unitAccess c.chip c.ctx .read c.tmpl.size (walkAddr c.x (c.tmpl.offset c.tmpl.src c.next)) = (w, .flt f) ∧
    w.s.copies = s.copies ∧ w.s.chips = s.chips ∧ w.s.missing = false := by
  have hf : (laneFault firstAccess).map Flt.code = some 7 := by decide +kernel
  obtain ⟨f, hf, hc⟩ := Option.map_eq_some_iff.1 hf
  exact ⟨flying unmapped, unmapped, firstAccess.1, f, plain_wf, rfl, rfl, rfl, rfl, by decide +kernel, .inl hc, fault_of hf,
    by decide +kernel, by decide +kernel, by decide +kernel⟩
/-- A copy of one element that fails meets no missing frame, whether the element moves or not. -/
theorem failed_of {w : W} {c : Copy} {st : Nat} (h1 : (c.dir == .multicast) = false) (h2 : rangeFrom c.next c.tmpl.count = [0])
    (h3 : (w.draw.2.finishCopy c st).s.missing = false)
    (h4 : ∀ w' c', w.draw.2.copyElem c 0 = (w', .ok c') → (w'.finishCopy c st).s.missing = false) :
    (w.failCopy c st).s.missing = false := by
  simp only [W.failCopy, h1, h2, W.each, List.foldl_cons, List.foldl_nil, W.strayElem, Bool.false_eq_true, if_false]
  split
  · exact h3
  · split
    · rename_i hc
      exact h4 _ _ hc
    · exact h3
/-- A held copy's state. -/
def heldState : State :=
  { flying (copy9 .memShared (.held 3 0) 1 0 []) with chips := [(0, { power := .ready, requests := [(3, 9)] })] }
theorem witness_copy_answered : ∃ (s : State) (c : Copy) (chip request : Nat) (h : s.memWf), s.missing = false ∧
    AList.get? s.copies c.op = some c ∧ AList.get? (AList.getD s.chips chip {}).requests request = some c.op ∧
    ((machine s h).failCopy c 1).s.missing = false :=
  ⟨heldState, copy9 .memShared (.held 3 0) 1 0 [], 0, 3, plain_wf, rfl, rfl, rfl, failed_of rfl (by decide +kernel) (by decide +kernel)
    fun w' c' h => by
      have h1 : (((machine heldState plain_wf).draw.2.copyElem (copy9 .memShared (.held 3 0) 1 0 []) 0).1.finishCopy
        (copy9 .memShared (.held 3 0) 1 0 []) 1).s.missing = false := by decide +kernel
      rwa [h] at h1⟩
/-- Copy 9 reads HBM of another chip whose link is down, out since time 0. -/
def cut : Copy := { copy9 .memMem .running 1 0 [] with linkOut := some 0, x := 0x10000, y := BitVec.ofNat 64 (2 ^ 61) }
/-- That copy, 1 ms later. -/
def cutOff : State := { flying cut with now := 1000000, links := [], tlb := [{ fetchLeaf with core := 96, leaf := 0x1009F, aperture := some 129 }] }
theorem witness_copy_link : ∃ (s : State) (c : Copy) (_chip _request : Nat) (h : s.memWf), s.missing = false ∧ AList.get? s.copies c.op = some c ∧
    ∃ since w c', c.linkOut = some since ∧ since + 1000000 ≤ s.now ∧ (machine s h).copyRest c = (w, c', .link) ∧ c'.op = c.op ∧
      (w.failCopy c' 2).s.missing = false :=
  ⟨cutOff, cut, 0, 0, plain_wf, rfl, rfl, 0, ((machine cutOff plain_wf).copyRest cut).1, ((machine cutOff plain_wf).copyRest cut).2.1, rfl,
    by decide, by
      have h : ((machine cutOff plain_wf).copyRest cut).2.2 = .link := by decide +kernel
      rw [← h], by decide +kernel, failed_of (by decide +kernel) (by decide +kernel) (by decide +kernel) fun w' c' h => by
        have h1 : (((((machine cutOff plain_wf).copyRest cut).1.draw.2.copyElem ((machine cutOff plain_wf).copyRest cut).2.1 0).1.finishCopy
          ((machine cutOff plain_wf).copyRest cut).2.1 2).s.missing) = false := by decide +kernel
        rwa [h] at h1⟩
theorem witness_multicast_arrives : ∃ (s : State) (c : Copy) (d block : Nat), s.memWf ∧ s.missing = false ∧ AList.get? s.copies c.op = some c ∧
    c.st = .running ∧ c.dir = .multicast ∧ c.next = c.tmpl.count ∧ c.raced = [] ∧ s.poison = [] ∧ (c.dests.find? fun x => x.1 == d) = some (d, block) ∧
    AList.get? s.blocks block ≠ none :=
  ⟨flying (copy9 .multicast .running 4 4 [(0, 0)]), copy9 .multicast .running 4 4 [(0, 0)], 0, 0, plain_wf, rfl, rfl, rfl, rfl, by decide +kernel,
    rfl, rfl, rfl, by decide +kernel⟩
theorem witness_multicast_late : ∃ (s : State) (c : Copy) (d block : Nat), s.memWf ∧ s.missing = false ∧ AList.get? s.copies c.op = some c ∧
    c.st = .running ∧ c.dir = .multicast ∧ c.next = c.tmpl.count ∧ c.raced = [] ∧ s.poison = [] ∧ (c.dests.find? fun x => x.1 == d) = some (d, block) ∧
    AList.get? s.blocks block = none :=
  ⟨flying (copy9 .multicast .running 4 4 [(15, 77)]), copy9 .multicast .running 4 4 [(15, 77)], 15, 77, plain_wf, rfl, rfl, rfl, rfl,
    by decide +kernel, rfl, rfl, rfl, by decide +kernel⟩
theorem witness_lanes_land : ∃ (s : State) (block n : Nat) (b : Block) (h : s.memWf), s.missing = false ∧ AList.get? s.blocks block = some b ∧
    (b.tile n).st = .filling ∧ (b.tile n).writers = 1 ∧ (b.tile n).engineWriters = 0 ∧ (b.tile n).readers = 0 ∧
    (b.tile n).copyReaders = 0 ∧ s.poison = [] ∧ (∀ c ∈ s.copies, c.2.block ≠ block) ∧ (machine s h).engineOps block = [] :=
  ⟨{ plain with blocks := [(0, { fetchBlock with table := [(31, { st := .filling, writers := 1 })] })] }, 0, 31, _, plain_wf, rfl, rfl, rfl, rfl,
    rfl, rfl, rfl, rfl, fun _ h => (by cases h), by decide +kernel⟩

end Sys2Proof.Tests
end

