-- ==== Sys2Proof/Tests/PlaceWitness.lean ====
section
/-! SUPPORT. Witnesses: for each statement about placement, starvation, pre-emption, saving and moves, a concrete state and
operands that meet all its hypotheses. -/
namespace Sys2Proof.Tests
set_option Elab.async false
open Sys2Proof.Machine Sys2Proof.Statement

/-! ## Placement and starvation -/

/-- The state whose one launch has its arguments and no more than one cluster to place. -/
def placing1 : State := launched { launch1 (arguments [0, 0, 0, 0, 0, 0, 0, 0]) with
  met1 := true, st := .placing, args := some (List.replicate 16 0) } []
theorem witness_cluster_placed : ∃ (s : State) (n hw : Nat) (l : Launch) (ps : List (Nat × List (List Nat))) (bases : List Nat) (h : s.memWf),
    s.missing = false ∧ AList.get? s.launches n = some l ∧ l.args ≠ none ∧ (machine s h).choice l.chip = some (.new n hw) ∧
    (machine s h).placement l = some (ps, bases) ∧ ps ≠ [] :=
  ⟨placing1, 7, 0, _, [(0, [[0]])], [0], launched_wf _, rfl, rfl, (by decide), new_of (by decide +kernel), by decide +kernel, by decide⟩
/-- The record of a priority whose one block of one group has a byte of shared memory. -/
def sharing (prio : Byte) : LaunchRecord :=
  { bytes := List.replicate 16 0 ++ [1, 0, 0, 0, 1, 0, 1, 0, 1, 1, 1, 0, 1] ++ List.replicate 9 0 ++ [prio] ++ List.replicate 85 0 ++ [1, 1, 0, 0] }
/-- Launch 7, of priority 1, which has found no shared memory since time 5. -/
def starving : Launch := { launch1 (sharing 1) with met1 := true, st := .ready, waitingSince := some 5 }
/-- The state in which cluster 3 of launch 8, of priority 0, has all the shared memory of hardware cluster 0. -/
def starved : State := { launched starving [] with
  now := 100005
  launches := [(7, starving), (8, { launch1 (sharing 0) with st := .running })]
  clusters := [(3, { ctx := 63, launch := 8, blocks := [5] })]
  blocks := [(5, { fetchBlock with ctx := 63, launch := 8, cluster := 3, span := [0, 1, 2, 3], shared := 2 ^ 21 })] }
theorem witness_gangstarve : ∃ (s : State) (n : Nat) (l : Launch) (since : Nat) (h : s.memWf), s.missing = false ∧
    AList.get? s.launches n = some l ∧ l.waitingSince = some since ∧ since + 100000 ≤ s.now ∧ l.drain = none ∧
    (machine s h).waits l = true ∧ (∀ x, l.tested = some x → x + 100000 ≤ s.now) ∧
    ∃ hw, hw ∈ (machine s h).partition l ∧ AList.get? (chipAt s l.chip).drain hw = none :=
  ⟨starved, 7, _, 5, empty_wf, rfl, rfl, rfl, by decide, rfl, by decide +kernel, fun _ h => (by cases h), 0, by decide +kernel, rfl⟩
theorem witness_preempt : ∃ (s : State) (n cid : Nat) (c : Cluster) (h : s.memWf) (l : Launch), s.missing = false ∧
    AList.get? s.clusters cid = some c ∧ c.st = .placed ∧ AList.get? s.launches n = some l ∧ (machine s h).waits l = true ∧
    ((machine s h).placing l.chip l.queue).map Prod.fst = some n ∧
    l.record.fitsEmpty (slotAt s (pkgOf l.chip) l.ctx).scratch = true ∧ (machine s h).victim l = some cid :=
  ⟨starved, 7, 3, _, empty_wf, _, rfl, rfl, rfl, rfl, by decide +kernel, by decide +kernel, by decide +kernel, by decide +kernel⟩
/-- Context 0 with hardware clusters 0 and 23, the block and its cluster as given; a launch of context 1, which has none,
waits. -/
def clustered (fb : Block → Block) (c : Cluster) : State := { plain with
  chips := powered, contexts := [((0, 0), { st := .running, part := 2 ^ 23 + 1 }), ((0, 1), { st := .running })]
  launches := [(7, { launch1 (sharing 1) with ctx := 1, met1 := true, st := .ready })], blocks := [(0, fb fetchBlock)], clusters := [(0, c)] }
theorem clustered_wf (fb : Block → Block) (c : Cluster) : (clustered fb c).memWf := by
  show memoryWf plain.mem = true
  decide +kernel
theorem witness_move_cluster : ∃ (s : State) (cid : Nat) (c : Cluster) (h : s.memWf) (hw : Nat) (spans : List (List Nat)), s.missing = false ∧
    AList.get? s.clusters cid = some c ∧ c.st = .placed ∧ (machine s h).someWaits c.chip = true ∧ (machine s h).isRp c.launch = false ∧
    (machine s h).moveSpans c hw = some spans ∧ ∃ r g, AList.get? s.groups r = some g ∧ g.block ∈ c.blocks ∧ g.st = .active :=
  ⟨clustered id { blocks := [0] }, 0, _, clustered_wf _ _, 23, [[0]], rfl, rfl, rfl, by decide +kernel, by decide +kernel, by decide +kernel, r0, _,
    rfl, by decide, rfl⟩
/-- The cells of a save area that is a byte long. -/
theorem area_of {p : Nat} (h : p < 0 + 1) : anyCell 0 p ≠ none := by
  have : p = 0 := by omega
  subst this
  decide +kernel
theorem witness_cluster_save : ∃ (s : State) (cid : Nat) (c : Cluster) (h : s.memWf), s.missing = false ∧ (s.groups.map Prod.fst).Nodup ∧
    AList.get? s.clusters cid = some c ∧ c.st = .stopping none ∧
    (∀ x ∈ (machine s h).clusterGroups c, (machine s h).groupQuiet x.1 x.2 = true ∧ x.2.ops = []) ∧
    (∀ b ∈ c.blocks, (machine s h).blockQuiet b = true) ∧ (machine s h).savedExtents (pkgOf c.chip) c.ctx = [] ∧
    s.directory = [] ∧ (∀ m, (machine s h).lineFree m = true) ∧
    (∀ p, (slotAt s (pkgOf c.chip) c.ctx).save ≤ p → p < (slotAt s (pkgOf c.chip) c.ctx).save + max 1 (slotAt s (pkgOf c.chip) c.ctx).savelen →
      anyCell (pkgOf c.chip) p ≠ none) ∧ ∃ r g, AList.get? s.groups r = some g ∧ g.block ∈ c.blocks ∧ g.region = none := by
  refine ⟨clustered id { blocks := [0], st := .stopping none }, 0, _, clustered_wf _ _, rfl, by decide +kernel, rfl, rfl, fun x hx => ?_,
    by decide +kernel, by decide +kernel, rfl, lines_free rfl rfl, fun p _ h2 => area_of h2, r0, _, rfl, by decide, rfl⟩
  have hx : x ∈ [(r0, fetchGroup 0)] := hx
  cases List.mem_singleton.1 hx
  decide +kernel
theorem witness_move_block : ∃ (s : State) (n core : Nat) (b : Block) (c : Cluster) (h : s.memWf) (span : List Nat), s.missing = false ∧
    AList.get? s.blocks n = some b ∧ AList.get? s.clusters b.cluster = some c ∧ c.st = .placed ∧ b.moving = none ∧
    (machine s h).movable b.chip b.ctx = true ∧ (machine s h).someWaits b.chip = true ∧ (machine s h).isRp b.launch = false ∧
    core / 4 = c.hwcl ∧ (machine s h).blockSpan n b c.hwcl core = some span :=
  ⟨clustered id { blocks := [0] }, 0, 3, _, _, clustered_wf _ _, [3], rfl, rfl, rfl, rfl, rfl, by decide +kernel, by decide +kernel,
    by decide +kernel, rfl, by decide +kernel⟩
theorem witness_block_moves : ∃ (s : State) (n core : Nat) (b : Block) (c : Cluster) (h : s.memWf) (r : GroupRef) (g : Group),
    s.missing = false ∧ AList.get? s.blocks n = some b ∧ AList.get? s.clusters b.cluster = some c ∧ c.st = .placed ∧
    b.moving = some core ∧ n ∈ c.blocks ∧ (∀ m x, m ∈ c.blocks → m ≠ n → AList.get? s.blocks m = some x → x.moving = none) ∧
    (machine s h).pinned n = false ∧ (machine s h).blockSpan n b c.hwcl core = some [core % 4] ∧ core / 4 = c.hwcl ∧
    (machine s h).groupsOf n = [(r, g)] ∧ AList.get? s.groups r = some g ∧ g.region = none ∧
    (machine s h).groupQuiet r g = true ∧ (machine s h).blockQuiet n = true ∧ g.ops = [] ∧ (g.v.map Prod.fst).Nodup ∧
    (∀ x ∈ s.groups, ¬(x.1.chip = b.chip ∧ x.1.core = core)) ∧ (s.blocks.map Prod.fst).Nodup ∧
    (machine s h).savedExtents (pkgOf c.chip) c.ctx = [] ∧ s.directory = [] ∧ (∀ m, (machine s h).lineFree m = true) ∧
    (∀ p, (slotAt s (pkgOf c.chip) c.ctx).save ≤ p → p < (slotAt s (pkgOf c.chip) c.ctx).save + max 1 (slotAt s (pkgOf c.chip) c.ctx).savelen →
      anyCell (pkgOf c.chip) p ≠ none) := by
  refine ⟨clustered (fun b => { b with moving := some 3 }) { blocks := [0] }, 0, 3, _, _, clustered_wf _ _, r0, _, rfl, rfl, rfl, rfl, rfl, by decide,
    fun m x h1 h2 => ?_, by decide +kernel, by decide +kernel, rfl, rfl, rfl, rfl, by decide +kernel, by decide +kernel, rfl, by decide,
    fun x hx => ?_, by decide, by decide +kernel, rfl, lines_free rfl rfl, fun p _ h2 => area_of h2⟩
  · cases List.mem_singleton.1 h1
    exact (h2 rfl).elim
  · have hx : x ∈ [(r0, fetchGroup 0)] := hx
    cases List.mem_singleton.1 hx
    decide

end Sys2Proof.Tests
end

