-- ==== Sys2Proof/Tests/Slice0.lean ====
section
/-! SUPPORT. The WellFormed smoke test, witnesses for the statements about steps, decoding and reset, and small steps whose
results the spec works out. -/
namespace Sys2Proof.Tests
set_option Elab.async false
open Sys2Proof.Machine Sys2Proof.Statement

/-! ## WellFormed: an ill-formed term for each check, and the check refuses it (03 R59, R71 to R75, R78, R84) -/

/-- The constructor's check gives this reason. -/
def refusedFor (i : Instr) (r : Reject) : Prop := rejectOf i = some r ∧ ¬WellFormed i
theorem refused_of {i : Instr} {r : Reject} (h : rejectOf i = some r) : refusedFor i r := ⟨h, by unfold WellFormed; rw [h]; exact nofun⟩
theorem test_ill_scalar : refusedFor (.sadd false 1 192 2) .noScalar := refused_of (by decide)
theorem test_ill_knots : refusedFor (.kset false 190) .noScalar := refused_of (by decide)
theorem test_ill_template : refusedFor (.cpyt true 3 185) .noScalar := refused_of (by decide)
theorem test_ill_window : refusedFor (.rwin false 191) .noScalar := refused_of (by decide)
theorem test_ill_predicate : refusedFor (.pand false 0 12 1) .noPredicate := refused_of (by decide)
theorem test_ill_butterfly : refusedFor (.vbfly false 1 2 0) .brokenLimit := refused_of (by decide)
theorem test_ill_pair : refusedFor (.vacas false 1 5 2) .brokenLimit := refused_of (by decide)
theorem test_ill_copy : refusedFor (.cpy false 0 1 32 1) .strayField := refused_of (by decide)
theorem test_ill_barrier : refusedFor (.bar false 2 8) .brokenLimit := refused_of (by decide)
theorem test_ill_mode : refusedFor (.mode false 0x040080) .brokenLimit := refused_of (by decide)
theorem test_ill_system : refusedFor (.srd false 0 0x021) .brokenLimit := refused_of (by decide)
theorem test_ill_operands : refusedFor (.opf false 63 4) .brokenLimit := refused_of (by decide)
theorem test_ill_index : refusedFor (.ixw false 0 0 0) .brokenLimit := refused_of (by decide)
theorem test_well_formed : WellFormed (.opf false 63 3) ∧ WellFormed (.ixw false 0 1 127) ∧ WellFormed (.mode false 0x04007F) ∧
    WellFormed (.kset false 189) ∧ WellFormed (.cpyt true 3 184) ∧ WellFormed (.cpy false 0 1 31 1) := by
  unfold WellFormed
  decide

/-! ## Witnesses -/

/-- A due restore of the low half. -/
def due : PendingRestore := { high := false, saved := 0x14F, count := 0 }
/-- A fragment with it. -/
def restoring : State := placed 0x70000000 (fun g => { g with entries := [(0, { pc := 0x10000, refill := some 0, pending := some due })] }) id
theorem witness_step_restores : ∃ (s : State) (f : FragRef) (a : At), s.agenda = [] ∧ s.nextFragment = some f ∧
    s.toSys.view.at' f = some a ∧ a.e.restoreDue = true :=
  ⟨restoring, f0, _, rfl, by decide +kernel, rfl, by decide +kernel⟩
/-- The bytes a fetch gives. -/
def fetched (x : Fetched) : List Byte := match x with
  | .bytes bs => bs
  | _ => []
/-- Whether it gives bytes. -/
def isFetched (x : Fetched) : Bool := match x with
  | .bytes _ => true
  | _ => false
theorem fetched_of {x : Fetched} (h : isFetched x = true) : x = .bytes (fetched x) := by cases x <;> first | rfl | cases h
/-- A state that runs `sli s7, -1`. -/
def running : State := placed 0x2ACE0000 id id
theorem witness_step_runs : ∃ (s : State) (f : FragRef) (a : At) (bs : List Byte), s.agenda = [] ∧ s.nextFragment = some f ∧
    s.toSys.view.at' f = some a ∧ a.e.restoreDue = false ∧ s.fetch a = .bytes bs :=
  ⟨running, f0, _, _, rfl, by decide +kernel, rfl, by decide +kernel, fetched_of (by decide +kernel)⟩
theorem witness_step_event : ∃ (s : State) (i : Instr) (rest : List Move), s.agenda = .event i :: rest :=
  ⟨{ plain with agenda := [.event (.create 0 0)] }, .create 0 0, [], rfl⟩
/-- The access a lane's check lets through. -/
def passed (x : LaneChk) : Option Acc := match x with
  | .ok a => some a
  | _ => none
theorem passed_of {x : LaneChk} {a : Acc} (h : passed x = some a) : x = .ok a := by
  cases x <;> cases h
  rfl
theorem witness_fetch : ∃ (s : State) (a : At) (h : s.memWf) (e : TlbEntry) (acc : Acc), fieldOf a.e.pc.toNat 56 8 = 0 ∧
    (machine s h).groupLookup a a.e.pc.toNat = some (.leaf e.leaf e.bits e.aperture) ∧
    (machine s h).checkLeaf a.r.chip a.g.ctx .fetch false 0 4 a.e.pc e.leaf e.bits e.aperture = .ok acc ∧
    (machine s h).reach a.r.chip acc.path = .live ∧ s.directory = [] ∧ s.poison = [] ∧ s.waiting = [] :=
  ⟨plain, atOf plain, by decide +kernel, fetchLeaf, { lane := 0, va := 0x10000, key := 0x10000, width := 4, path := .home 0 false false, l1 := true, llc := true }, rfl,
    by decide +kernel, passed_of (by decide +kernel), by decide +kernel, rfl, rfl, rfl⟩
theorem witness_sample_word : ((0x5340_0000 : Nat), Instr.regrp false) ∈ sampleWords := by decide
theorem witness_encode : ∃ (i : Instr) (w : Nat), WellFormed i ∧ encode i = some w ∧ 0 < w :=
  ⟨.vacas true 191 126 127, 0xDAEFFF7F, by unfold WellFormed; decide, by decide +kernel, by decide⟩
theorem witness_decode : ∃ (i : Instr) (w : Nat), w < 2 ^ 32 ∧ decodeWord w = .ok i :=
  ⟨.regrp false, 0x53400000, by decide, by rfl⟩
/-- A steady step. -/
theorem witness_step_next : ∃ s t : State, s.memWf ∧ s.missing = false ∧ step s = .next t := by
  refine ⟨running, (match step running with
    | .next t => t
    | _ => running), by decide +kernel, rfl, ?_⟩
  have : (match step running with
    | .next _ => true
    | _ => false) = true := by decide +kernel
  revert this
  cases step running <;> simp
theorem witness_integer_lanes : ∃ (t : EType) (a b d : Nat), isInteger t = true ∧ a < 2 ^ widthOf t ∧ b < 2 ^ widthOf t ∧ d < 2 ^ widthOf t :=
  ⟨.i64, 2 ^ 63, 2 ^ 64 - 1, 1, by decide, by decide, by decide, by decide⟩
theorem witness_nop : ∃ (s : State) (a : At) (k : Bool), Free s a (.nop k) k {} ∧ HasRoom a {} ∧ k = true ∧ a.g.outstanding = false :=
  ⟨plain, atOf plain, true, free_of (by decide +kernel), room_of rfl, rfl, rfl⟩
/-- `%mode.E` is i32. -/
def integer32 : State := ready fun g => { g with entries := [(0, { pc := 0x10000, refill := some 0, mode := 0x8F })] }
theorem witness_immediate : ∃ (s : State) (x : At) (z : VectorWord), vectorWord x (immediateWord true 127 0 0x3FF 0) = some z ∧
    isInteger x.ty = true ∧ x.etype.isSome = true ∧ z.even = true ∧
    Free s x (immediateWord true 127 0 0x3FF 0) true { vr := z.reads, vw := z.dests, sr := z.scalars } ∧ HasRoom x (writing z.lanes z.dests) :=
  ⟨integer32, atOf integer32, _, rfl, by decide +kernel, by decide +kernel, by decide +kernel, free_of (by decide +kernel), room_of rfl⟩
theorem witness_immediate_float : ∃ (s : State) (x : At), x.etype.isSome = true ∧ isInteger x.ty = false ∧
    Free s x (immediateWord false 127 0 63 7) false { vr := [0], vw := [127] } ∧ Calm s x :=
  ⟨plain, atOf plain, by decide +kernel, by decide +kernel, free_of (by decide +kernel), calm_of (by decide +kernel)⟩

/-! ## Small steps -/

/-- The group of slot 0 after one step that answers a next state. -/
def after (s : State) : Group := match step s with
  | .next t => AList.getD t.groups r0 {}
  | _ => {}
/-- Its entry. -/
def entryAfter (s : State) (i : Nat) : Entry := AList.getD (after s).entries i { pc := 0, lanes := 0 }
/-- `sshli s12, s12, 7` multiplies by 128 (22: 0x340C_0C07). -/
theorem test_sshli : (after (placed 0x340C0C07 (fun g => { g with s := [(12, 3)] }) id)).sget 12 = 384 := by decide +kernel
/-- `sadd` wraps modulo 2^64 (02 R37; 09 R204). -/
theorem test_sadd_wraps : (after (placed 0x20060D03 (fun g => { g with s := [(13, 2 ^ 64 - 1), (3, 2)] }) id)).sget 6 = 1 := by decide +kernel
/-- `vaddi v2, v2, -1` (08: 0x1804_0BFF) on i32 zero gives −1 in every lane, and 4 is added to the pc. -/
theorem test_vaddi : laneOf ((after (placed 0x18040BFF (fun g => { g with entries := [(0, { pc := 0x10000, refill := some 0, mode := 0x8F })] })
    id)).vget 2) 31 = 0xFFFFFFFF := by decide +kernel
/-- The result of the worked `mode` of 08: 0x7040_008F leaves G = 15, E = 4. -/
theorem test_mode : (entryAfter (placed 0x7040008F id id) 0).mode = 0x8F := by decide +kernel
/-- `rcv` of 08 with off23 = 6 names the address 24 beyond its own. -/
theorem test_rcv : (entryAfter (placed 0x43800006 id id) 0).rcv = some 0x10018 := by decide +kernel
/-- The group of 08 at its `brd p1, 1, then`: p1 holds in lanes 0 to 15, and the rejoin address is 0x1C. -/
def split8 : State := placed 0x430C0004 (fun g => { g with
  p := [(1, 0xFFFF)], entries := [(0, { pc := 0x10000, refill := some 0, mode := 0x8F, rcv := some 0x10014 })] }) id
/-- Entry 0 keeps lanes 16 to 31 and goes on; entry 1 takes lanes 0 to 15 to the target (08's table). -/
theorem test_brd_stays : (entryAfter split8 0).lanes = 0xFFFF0000 ∧ (entryAfter split8 0).pc = 0x10004 := by decide +kernel
theorem test_brd_goes : (entryAfter split8 1).lanes = 0x0000FFFF ∧ (entryAfter split8 1).pc = 0x10010 ∧
    (entryAfter split8 1).rejoin = some 0x10014 ∧ (entryAfter split8 1).partner = some 0 := by decide +kernel
/-- The all-zero word raises ILLEGAL; without a handler the group stops (03 R59; 05 R110, R121). -/
theorem test_illegal : (after (placed 0 id id)).st = .stopped ∧ fieldOf (after (placed 0 id id)).tcause.toNat 0 8 = 0x01 ∧
    (after (placed 0 id id)).tpc = 0x10000 := by decide +kernel
/-- Integer division by zero gives all ones and DZ, and the signed minimum ÷ −1 the minimum (02 R38). -/
theorem test_division : (lnDiv .i32 engineMode 5 0).1 = 0xFFFFFFFF ∧
    (lnDiv .i32 engineMode 0x80000000 0xFFFFFFFF).1 = 0x80000000 := by decide +kernel
/-- 0 × ∞ is the canonical NaN of f32 (02 R31). -/
theorem test_nan : (lnMul .f32 engineMode 0 0x7F800000).1 = 0x7FC00000 := by decide +kernel

end Sys2Proof.Tests
end

