-- ==== Sys2Proof/Tests/UnitWitness.lean ====
section
/-! SUPPORT. Witnesses: for each statement about engines, operand sets, delivery, walks, the rotation and atomic regions, a
concrete state and operands that meet all its hypotheses. -/
namespace Sys2Proof.Tests
set_option Elab.async false
open Sys2Proof.Machine Sys2Proof.Statement

theorem whole_wf : plain.memWf := by decide +kernel

/-! ## Engines -/

/-- The block holds engine 3 and has tiles 30 and 31, configured as one row of one f32 or not at all. -/
def engined (c : Nat) (st : TileState) : State := { readyIn id (fun b => { b with
    engine := some 3, engineHeld := true, tiles := 32
    table := [(30, { ctl := c, st := .ready }), (31, { ctl := c, st := st })] }) with
  cores := [((0, 0), { engines := [(3, { block := some 0 })] })] }
/-- One row of one f32. -/
def cell1 : Nat := 10 + 2 ^ 4 + 2 ^ 13
theorem witness_engine_word : ∃ (s : State) (a : At) (i : Instr) (k : Bool) (u : Use) (w : EngineWord) (b : Block) (n : Nat) (h : s.memWf),
    engineWord i = some (k, u, w) ∧ AList.get? s.blocks a.g.block = some b ∧ b.engine = some n ∧ (machine s h).engineFault a w = none ∧
    b.letsEngine w = true ∧ fieldOf a.g.quor.toNat 0 3 < 2 ∧ Free s a i k u ∧ a.g.region = none :=
  ⟨engined cell1 .empty, atOf (engined cell1 .empty), .mzero true 31, _, _, _, _, 3, whole_wf, rfl, rfl, rfl, by decide +kernel,
    by decide +kernel, by decide +kernel, free_of (by decide +kernel), rfl⟩
theorem witness_kset : ∃ (s : State) (a : At) (i : Instr) (k : Bool) (u : Use) (w : EngineWord) (b : Block) (n : Nat) (h : s.memWf),
    engineWord i = some (k, u, w) ∧ AList.get? s.blocks a.g.block = some b ∧ b.engine = some n ∧ (machine s h).engineFault a w = none ∧
    b.letsEngine w = true ∧ fieldOf a.g.quor.toNat 0 3 < 2 ∧ Free s a i k u ∧ a.g.region = none ∧ w.code = 0x0D := by
  let s : State := { engined cell1 .empty with groups := (engined cell1 .empty).groups.map fun x =>
    (x.1, { x.2 with s := [(5, 0), (6, 0x3F800000), (7, 1)] }) }
  exact ⟨s, atOf s, .kset false 5, _, _, _, _, 3, whole_wf, rfl, rfl, rfl, by decide +kernel,
    by decide +kernel, by decide +kernel, free_of (by decide +kernel), rfl, rfl⟩
theorem witness_out_of_grid : ∃ (s : State) (a : At) (k : Bool) (d : BitVec 8) (b : Block) (n : Nat), AList.get? s.blocks a.g.block = some b ∧
    b.engine = some n ∧ (Statement.engineOf s (homeCore b) n).ops = [] ∧ fieldOf a.g.quor.toNat 0 3 < 2 ∧
    Free s a (.spoog k d) k { sw := [d.toNat] } ∧ a.g.region = none :=
  ⟨engined cell1 .empty, atOf (engined cell1 .empty), false, 191, _, 3, rfl, rfl, rfl, by decide +kernel, free_of (by decide +kernel), rfl⟩
/-- What `EngineFaults` asks. -/
def EngineFaulty (s : State) (a : At) (i : Instr) (k : Bool) (u : Use) (w : EngineWord) (b : Block) : Prop :=
  engineWord i = some (k, u, w) ∧ AList.get? s.blocks a.g.block = some b ∧ Free s a i k u ∧ Calm s a
theorem witness_engine_unheld : ∃ s a i k u w b, EngineFaulty s a i k u w b ∧ b.engine = none :=
  ⟨plain, atOf plain, .sprf false, _, _, _, _, ⟨rfl, rfl, free_of (by decide +kernel), calm_of (by decide +kernel)⟩, rfl⟩
/-- The engine's block has no tile. -/
def tileless : State := { readyIn id (fun b => { b with engine := some 3, engineHeld := true }) with
  cores := [((0, 0), { engines := [(3, { block := some 0 })] })] }
theorem witness_engine_tile_beyond : ∃ s a i k u w b, EngineFaulty s a i k u w b ∧ ∃ n x, b.engine = some n ∧
    (w.names.find? fun x => decide (b.tiles ≤ x)) = some x :=
  ⟨tileless, atOf tileless, .mma false 0 31 1, _, _, _, _, ⟨rfl, rfl, free_of (by decide +kernel), calm_of (by decide +kernel)⟩, 3, 0, rfl,
    by decide +kernel⟩
theorem witness_engine_tile_unconfigured : ∃ s a i k u w b, EngineFaulty s a i k u w b ∧ ∃ n x, b.engine = some n ∧
    (∀ y ∈ w.names, y < b.tiles) ∧ (w.names.find? fun x => (b.tile x).rows == 0) = some x :=
  ⟨engined 0 .ready, atOf (engined 0 .ready), .mdrain true 31 30, _, _, _, _,
    ⟨rfl, rfl, free_of (by decide +kernel), calm_of (by decide +kernel)⟩, 3, 31, rfl, by decide +kernel, by decide +kernel⟩
/-- An `mzero` of tile 31 on engine 3. -/
def zeroing : EngineOp := { op := 1, eng := { code := 0x06, td := some 31 }, fmt := 0x30ABB, mode := 0x14F }
theorem witness_engine_zeroes : ∃ (s : State) (chip core n block d : Nat) (b : Block) (o : EngineOp) (h : s.memWf), s.missing = false ∧
    (Statement.engineOf s (chip, core) n).block = some block ∧ (Statement.engineOf s (chip, core) n).ops = [o] ∧
    (machine s h).engineOps block = [o] ∧
    (Statement.engineOf s (chip, core) n).releasing = false ∧ AList.get? s.blocks block = some b ∧ o.eng = { code := 0x06, td := some d } ∧
    (b.tile d).copyReaders = 0 ∧ (b.tile d).writers = 1 ∧ (b.tile d).readers = 0 ∧
    (b.tile d).rows * (b.tile d).cols * (b.tile d).size ≤ 65536 ∧ s.poison = [] :=
  ⟨{ plain with cores := [((0, 0), { engines := [(3, { block := some 0, ops := [zeroing] })] })]
                blocks := [(0, { fetchBlock with table := [(31, { ctl := cell1, st := .filling, writers := 1, engineWriters := 1 })] })] },
    0, 0, 3, 0, 31, _, _, whole_wf, rfl, rfl, rfl, by decide +kernel, rfl, rfl, rfl, rfl, rfl, rfl, by decide +kernel, rfl⟩

/-- Groups 0 and 1 of the block, at an `mzero` under the quorum of both. -/
def meetingGroup (gid : Nat) : Group := { fetchGroup 0 with gid := gid, quor := BitVec.ofNat 64 (2 + 1 * 2 ^ 10) }
/-- The slot of group 1. -/
def r1 : GroupRef := { chip := 0, core := 0, slot := 5 }
/-- The latch that holds both. -/
def latch : Latch := { quor := BitVec.ofNat 64 (2 + 1 * 2 ^ 10), eng := { code := 0x06, td := some 31 }, fmt := 0x30ABB, rsat := 0
                       held := [(⟨r0, 0⟩, false), (⟨r1, 0⟩, false)], since := 0 }
/-- The block with that latch. -/
def meeting : State := { plain with
  groups := [(r0, meetingGroup 0), (r1, meetingGroup 1)]
  blocks := [(0, { fetchBlock with bgroups := 2, slots := [(0, r0), (1, r1)], live := [0, 1], engine := some 3, engineHeld := true, tiles := 32
                                   table := [(31, { ctl := cell1 })], latch := some latch })]
  cores := [((0, 0), { engines := [(3, { block := some 0 })] })] }
theorem witness_rendezvous : ∃ (s : State) (block : Nat) (b : Block) (l : Latch) (n : Nat) (f0 f1 : FragRef) (g0 g1 : Group) (e0 e1 : Entry)
    (h : s.memWf), s.missing = false ∧ AList.get? s.blocks block = some b ∧ b.latch = some l ∧ b.engine = some n ∧
    quorList l.quor = [g0.gid, g1.gid] ∧ l.held = [(f0, false), (f1, false)] ∧ f0.grp ≠ f1.grp ∧ g0.gid ≠ g1.gid ∧
    AList.get? s.groups f0.grp = some g0 ∧ AList.get? s.groups f1.grp = some g1 ∧ g0.block = block ∧ g1.block = block ∧
    AList.get? g0.entries f0.entry = some e0 ∧ AList.get? g1.entries f1.entry = some e1 ∧ l.eng.code ≠ 0x14 ∧ l.eng.code ≠ 0x0D ∧
    b.letsEngine l.eng = true ∧ (machine s h).rendezvousTurn block = true ∧
    (machine s h).engineFault ⟨f0.grp, f0.entry, g0, e0⟩ l.eng = none ∧
    AList.get? (AList.getD s.cores (coreKey f0.grp) {}).used (f0.grp.slot % 4) = none :=
  ⟨meeting, 0, _, latch, 3, ⟨r0, 0⟩, ⟨r1, 0⟩, _, _, _, _, whole_wf, rfl, rfl, rfl, rfl, by decide +kernel, rfl, by decide, by decide +kernel, rfl, rfl,
    rfl, rfl, rfl, rfl, by decide, by decide, by decide +kernel, by decide +kernel, by decide +kernel, rfl⟩
theorem witness_latch_times_out : ∃ (s : State) (block : Nat) (b : Block) (l : Latch) (_ : s.memWf), s.missing = false ∧
    AList.get? s.blocks block = some b ∧ b.latch = some l ∧ l.since + 1000000 ≤ s.now ∧
    ∃ f ∈ l.held, ∃ g, AList.get? s.groups f.1.grp = some g ∧ g.fault = none :=
  ⟨{ meeting with now := 1000000 }, 0, _, latch, whole_wf, rfl, rfl, rfl, by decide, (⟨r0, 0⟩, false), by decide, _, rfl, rfl⟩
theorem witness_latch_waits : ∃ (s : State) (block : Nat) (b : Block) (l : Latch) (_ : s.memWf), s.missing = false ∧
    AList.get? s.blocks block = some b ∧ b.latch = some l ∧ s.now < l.since + 1000000 :=
  ⟨{ meeting with now := 999999 }, 0, _, latch, whole_wf, rfl, rfl, rfl, by decide⟩

/-! ## Operand sets, delivery, batches, visibility, walks, rotation -/

theorem witness_ixw : ∃ (s : State) (a : At) (k : Bool) (n : BitVec 2) (b l : BitVec 7), HasRoom a {} ∧ b.toNat + l.toNat ≤ a.g.vregs ∧
    Free s a (.ixw k n b l) k {} :=
  ⟨plain, atOf plain, false, 3, 1, 127, room_of rfl, by decide +kernel, free_of (by decide +kernel)⟩
theorem witness_opf : ∃ (s : State) (a : At) (k : Bool) (b : BitVec 6) (m : BitVec 16), HasRoom a {} ∧
    (∀ i, i < 16 → m.getLsbD i = true → 2 * b.toNat + i < a.g.vregs) ∧ Free s a (.opf k b m) k {} :=
  ⟨plain, atOf plain, true, 56, 0xFFFF, room_of rfl, by decide +kernel, free_of (by decide +kernel)⟩
/-- A fault waits for delivery. -/
def faulted : State := ready fun g => { g with fault := some { code := 0x15, entry := 0 } }
theorem witness_fault_delivered : ∃ (s : State) (r : GroupRef) (g : Group) (e : Entry) (f : FaultInfo), s.memWf ∧ s.missing = false ∧
    AList.get? s.groups r = some g ∧ g.fault = some f ∧ AList.get? g.entries f.entry = some e ∧ g.late = none ∧ g.region = none ∧
    g.outstanding = false ∧ (g.st = .active ∨ g.st = .resident) ∧
    (AList.getD s.contexts (pkgOf r.chip, g.ctx) {}).st ≠ .draining :=
  ⟨faulted, r0, _, _, _, whole_wf, rfl, rfl, rfl, rfl, rfl, rfl, by decide +kernel, .inl rfl, by decide +kernel⟩
theorem witness_fault_taken : ∃ (s : State) (a : At) (f : FaultInfo), a.g.region = none ∧ s.memWf ∧ s.missing = false ∧
    AList.get? s.groups a.r = some a.g ∧ AList.get? a.g.entries a.ei = some a.e ∧ a.g.fault = some f ∧ f.entry = a.ei ∧
    (a.g.st = .active ∨ a.g.st = .resident) ∧ Calm s a :=
  ⟨faulted, atOf faulted, _, rfl, whole_wf, rfl, rfl, rfl, rfl, rfl, .inl rfl, calm_of (by decide +kernel)⟩
/-- The oldest batch of class 3 has completed with status 5. -/
def retiringBatch : State := ready fun g => { g with batches := [(3, { sealed := [(4095, [{ op := 1, done := some (5, 7) }])] })] }
theorem witness_batch_retires : ∃ (s : State) (r : GroupRef) (g : Group) (c seq status bytes : Nat) (o : BatchOp)
    (rest : List (Nat × List BatchOp)), s.memWf ∧ s.missing = false ∧ AList.get? s.groups r = some g ∧ g.st ≠ .retiring ∧
    (∀ b, AList.get? s.blocks g.block = some b → b.arrived = []) ∧ (AList.getD g.batches c {}).sealed = (seq, [o]) :: rest ∧
    o.done = some (status, bytes) ∧ o.descriptor = none ∧ (AList.getD g.batches c {}).sealDue = false ∧ (AList.getD g.batches c {}).error = {} :=
  ⟨retiringBatch, r0, _, 3, 4095, 5, 7, _, [], whole_wf, rfl, rfl, by decide, fun _ h => (by cases h; rfl), rfl, rfl, rfl, rfl, rfl⟩
/-- A write of two bytes waits at line 5. -/
def waitingWrite (horizon : Nat) : State := { plain with
  waiting := [{ line := 5, bytes := [(640, 1), (767, 2)], irq := some (1, 2047) }], horizon := [(5, horizon)] }
theorem witness_write_visible : ∃ (s : State) (line : Nat) (x : HomeWrite) (h : s.memWf), s.missing = false ∧
    (s.waiting.find? fun w => w.line == line) = some x ∧ (machine s h).lineClear line = true ∧ s.poison = [] :=
  ⟨waitingWrite 0, 5, _, whole_wf, rfl, rfl, by decide +kernel, rfl⟩
theorem witness_write_held : ∃ (s : State) (line : Nat) (x : HomeWrite) (h : s.memWf), s.missing = false ∧
    (s.waiting.find? fun w => w.line == line) = some x ∧ (machine s h).lineClear line = false :=
  ⟨waitingWrite 1, 5, _, whole_wf, rfl, rfl, by decide +kernel⟩
/-- A release waits for chip 0. -/
def releasing : State := ready fun g => { g with releasing := some { waiting := [0, 1] } }
theorem witness_flush_ack : ∃ (s : State) (r : GroupRef) (g : Group) (d : Nat) (x : Releasing) (h : s.memWf), s.missing = false ∧
    AList.get? s.groups r = some g ∧ g.releasing = some x ∧ ((machine s h).dieReach r.chip).both ((machine s h).cldReach r.chip d) ≠ .held :=
  ⟨releasing, r0, _, 0, _, whole_wf, rfl, rfl, rfl, by decide +kernel⟩
/-- A walk of page 5 that r0 has joined; its table is at 0 and holds nothing. -/
def walking (mig : Option Nat) : State := { plain with walks := [{ chip := 0, ctx := 0, page := 5, joined := [r0], mig := mig }] }
/-- What that walk finds. -/
def walked : W × Walked := (machine (walking none) whole_wf).walk 0 0 (5 * 65536)
theorem witness_walk : ∃ (s : State) (chip ctx page : Nat) (k : Walk) (i : Instr) (w : W) (x : Walked) (h : s.memWf), s.missing = false ∧
    (s.walks.find? fun k => k.chip == chip && k.ctx == ctx && k.page == page) = some k ∧
    (i = .walkComplete chip ctx page ∧ k.mig = none ∨ i = .migRewalk chip ctx page ∧ k.mig ≠ none) ∧
    (machine s h).walk chip ctx (page * 65536) = (w, x) ∧ w.s.missing = false :=
  ⟨walking none, 0, 0, 5, _, _, walked.1, walked.2, whole_wf, rfl, rfl, .inl ⟨rfl, rfl⟩, rfl, by decide +kernel⟩
/-- The slot of a group that is ready. -/
def r508 : GroupRef := { chip := 0, core := 0, slot := 508 }
/-- That group, ready since cycle 0. -/
def g508 : Group := { fetchGroup 0 with gid := 99, st := .resident, readySince := some 0 }
/-- ACTIVE groups that have waited since cycle 4032. -/
def others (n : Nat) : AList GroupRef Group :=
  (List.range n).map fun i => ({ chip := 0, core := 0, slot := 4 * i }, { fetchGroup 0 with gid := i, waitingSince := some 4032 })
/-- Sub-datapath 0 with those, at cycle 4096. -/
def rotating (n : Nat) : State := { plain with cycle := 4096, groups := others n ++ [(r508, g508)] }
theorem rotating_wf (n : Nat) : (rotating n).memWf := whole_wf
theorem witness_promotion : ∃ (s : State) (x : GroupRef × Group) (g : Group) (h : s.memWf), s.missing = false ∧
    (machine s h).oldestReady x.1.chip x.1.core (x.1.slot % 4) = some x ∧ AList.get? s.groups x.1 = some g ∧
    ((machine s h).activeGroups x.1.chip x.1.core (x.1.slot % 4)).length < 32 :=
  ⟨rotating 31, (r508, g508), g508, rotating_wf 31, rfl, by decide +kernel, by decide +kernel, by decide +kernel⟩
theorem witness_demotion : ∃ (s : State) (r : GroupRef) (g : Group) (c : Nat), s.memWf ∧ s.missing = false ∧ AList.get? s.groups r = some g ∧
    g.st = .active ∧ g.waitingSince = some c ∧ c + 64 ≤ s.cycle :=
  ⟨rotating 1, r0, { fetchGroup 0 with gid := 0, waitingSince := some 4032 }, 4032, rotating_wf 1, rfl, by decide +kernel, rfl, rfl, by decide⟩
theorem witness_forced_rotation : ∃ (s : State) (r : GroupRef) (g : Group) (x y : GroupRef × Group) (c : Nat) (h : s.memWf),
    s.missing = false ∧ (s.groups.map Prod.fst).Nodup ∧ AList.get? s.groups r = some g ∧ g.st = .resident ∧
    (machine s h).mayRun r g = true ∧ (machine s h).groupReady r g = true ∧ g.readySince = some c ∧ c + 4096 ≤ s.cycle ∧
    ((machine s h).activeGroups r.chip r.core (r.slot % 4)).length = 32 ∧
    oldestOf Group.activeSince ((machine s h).activeGroups r.chip r.core (r.slot % 4)) = some x ∧
    (machine s h).oldestReady r.chip r.core (r.slot % 4) = some y :=
  ⟨rotating 32, r508, g508, (r0, { fetchGroup 0 with gid := 0, waitingSince := some 4032 }), (r508, g508), 0, rotating_wf 32, rfl,
    by decide +kernel, by decide +kernel, rfl, by decide +kernel, by decide +kernel, rfl, by decide, by decide +kernel, by decide +kernel,
    by decide +kernel⟩

/-! ## Atomic regions -/

theorem witness_region_opens : ∃ (s : State) (a : At) (k : Bool) (o : BitVec 22), a.g.region = none ∧ a.g.entries.length = 1 ∧
    a.g.handler = none ∧ a.g.outstanding = false ∧ a.g.late = none ∧ Free s a (.ab k o) k {} :=
  ⟨plain, atOf plain, false, 0x1FFFFF, rfl, rfl, rfl, by decide +kernel, rfl, free_of (by decide +kernel)⟩
theorem witness_region_sends : ∃ (s : State) (a : At) (k : Bool) (rg : Region), a.g.region = some rg ∧ rg.home ≠ some none ∧
    a.g.late = none ∧ Drained s a ∧ HasRoom a { counts := false } ∧ Free s a (.ac k) k {} :=
  ⟨inRegion region0, atOf (inRegion region0), true, region0, rfl, by decide, rfl,
    ⟨rfl, rfl, rfl, fun _ h => (by cases h), fun _ h => (by cases h)⟩, room_region rfl (by decide +kernel), free_of (by decide +kernel)⟩
theorem witness_region_aborts : ∃ (s : State) (a : At) (k : Bool) (rg : Region), a.g.region = some rg ∧ rg.entry = a.ei ∧
    HasRoom a { counts := false } ∧ Free s a (.aa k) k {} :=
  ⟨inRegion region0, atOf (inRegion region0), false, region0, rfl, rfl, room_region rfl (by decide +kernel), free_of (by decide +kernel)⟩
theorem witness_region_outside : ∃ (s : State) (a : At) (k : Bool) (i : Instr), (i = .ac k ∨ i = .aa k) ∧ Free s a i k {} ∧ Calm s a :=
  ⟨plain, atOf plain, false, .aa false, .inr rfl, free_of (by decide +kernel), calm_of (by decide +kernel)⟩
/-- The group has a second fragment. -/
def splitGroup : State := ready fun g => { g with entries := g.entries ++ [(1, { pc := 0x20000, lanes := 0 })] }
theorem witness_region_split : ∃ (s : State) (a : At) (k : Bool) (o : BitVec 22), (1 < a.g.entries.length ∨ a.g.handler ≠ none) ∧
    Free s a (.ab k o) k {} ∧ Calm s a :=
  ⟨splitGroup, atOf splitGroup, true, 0, .inl (by decide +kernel), free_of (by decide +kernel), calm_of (by decide +kernel)⟩
/-- An access to word n of the scratchpad. -/
def scratchAcc (n : Nat) : Acc :=
  { lane := 0, va := BitVec.ofNat 64 (2 ^ 61 + 4 * n), key := scratchKey 0 0 (4 * n), width := 4, path := .scratch }
theorem scratch_word (n : Nat) (h : n < 2 ^ 28) : ScratchWord (scratchAcc n) where
  path := rfl
  key := by show 2 ^ 61 ≤ 2 ^ 61 + (0 * 64 + 0) * 2 ^ 30 + 4 * n; omega
  width := rfl
  tag := by
    show (BitVec.ofNat 64 (2 ^ 61 + 4 * n)).toNat / 2 ^ 60 = 2
    rw [BitVec.toNat_ofNat]
    omega
/-- A sent region of one load of `old` at word 0 and one store at word 1; the load's value is fragile or not. -/
def sentRegion (old : Nat) (fragile : Bool) : Region := { region0 with
  loads := [{ lane := 0, k := 0, acc := scratchAcc 0, old := old }], stores := [{ acc := scratchAcc 1, data := .plain 7 }]
  fragile := if fragile then [(0, 0)] else [], sent := true }
/-- What `RegionCommits` asks. -/
def Commits (s : State) (r : GroupRef) (g : Group) (rg : Region) (l : RegionLoad) (c : Acc) (v : Nat) (h : s.memWf) : Prop :=
  s.missing = false ∧ AList.get? s.groups r = some g ∧ g.region = some rg ∧ rg.sent = true ∧ rg.result = none ∧ rg.turnOp = none ∧
    rg.loads = [l] ∧ rg.stores = [{ acc := c, data := .plain v }] ∧ rg.constraints = [] ∧ ScratchWord l.acc ∧ ScratchWord c ∧
    (machine s h).dieReach r.chip = .live ∧ s.directory = [] ∧ s.poison = []
theorem witness_region_commits : ∃ s r g rg l c v h, Commits s r g rg l c v h ∧ numberAt s.mem l.acc.key 4 = l.old :=
  ⟨inRegion (sentRegion 0 true), r0, _, sentRegion 0 true, _, _, 7, whole_wf,
    ⟨rfl, rfl, rfl, rfl, rfl, rfl, rfl, rfl, rfl, scratch_word 0 (by decide), scratch_word 1 (by decide), by decide +kernel, rfl, rfl⟩,
    by decide +kernel⟩
theorem witness_region_reapplies : ∃ s r g rg l c v h, Commits s r g rg l c v h ∧ numberAt s.mem l.acc.key 4 ≠ l.old ∧
    (l.lane, l.k) ∉ rg.fragile :=
  ⟨inRegion (sentRegion 1 false), r0, _, sentRegion 1 false, _, _, 7, whole_wf,
    ⟨rfl, rfl, rfl, rfl, rfl, rfl, rfl, rfl, rfl, scratch_word 0 (by decide), scratch_word 1 (by decide), by decide +kernel, rfl, rfl⟩,
    by decide +kernel, by decide⟩
theorem witness_region_fragile : ∃ s r g rg l c v h, Commits s r g rg l c v h ∧ numberAt s.mem l.acc.key 4 ≠ l.old ∧
    (l.lane, l.k) ∈ rg.fragile :=
  ⟨inRegion (sentRegion 1 true), r0, _, sentRegion 1 true, _, _, 7, whole_wf,
    ⟨rfl, rfl, rfl, rfl, rfl, rfl, rfl, rfl, rfl, scratch_word 0 (by decide), scratch_word 1 (by decide), by decide +kernel, rfl, rfl⟩,
    by decide +kernel, by decide⟩
/-- What `RegionEnds` asks. -/
def Ends (s : State) (r : GroupRef) (g : Group) (rg : Region) (res : CommitResult) : Prop :=
  s.memWf ∧ s.missing = false ∧ AList.get? s.groups r = some g ∧ g.region = some rg ∧ rg.sent = true ∧ rg.result = some res ∧
    res.out < 8 ∧ (AList.getD s.contexts (pkgOf r.chip, g.ctx) {}).st ≠ .draining ∧ g.stopping = false ∧
    (∀ n, AList.get? g.v n = none → AList.get? rg.v n = none) ∧ AList.get? g.entries rg.entry ≠ none
/-- The region with an outcome. -/
def outcome (out : Nat) : Region := { sentRegion 1 false with result := some { out := out, cause := 0, nchg := 1, fresh := [(0, 0, 5)] } }
theorem witness_region_patches : ∃ s r g rg res, Ends s r g rg res ∧ res.out = 3 :=
  ⟨inRegion (outcome 3), r0, _, outcome 3, _, ⟨whole_wf, rfl, rfl, rfl, rfl, rfl, by decide, by decide +kernel, rfl, fun _ h => h, by decide +kernel⟩, rfl⟩
theorem witness_region_restores : ∃ s r g rg res, Ends s r g rg res ∧ res.out = 4 :=
  ⟨inRegion (outcome 4), r0, _, outcome 4, _, ⟨whole_wf, rfl, rfl, rfl, rfl, rfl, by decide, by decide +kernel, rfl, fun _ h => h, by decide +kernel⟩, rfl⟩

end Sys2Proof.Tests
end

