-- ==== Sys2Proof/Tests/WordWitness.lean ====
section
/-! SUPPORT. Witnesses: for each statement about words of registers, control and system registers, a concrete state and
operands that meet all its hypotheses, at a boundary of each clause. -/
namespace Sys2Proof.Tests
set_option Elab.async false
open Sys2Proof.Machine Sys2Proof.Statement

/-! ## Registers -/

/-- Scalar register 191 is the last. -/
theorem witness_scalar_words : ∃ s a i z, scalarWord a i = some z ∧ Free s a i z.k { sr := z.reads, sw := [z.dest] } ∧
    HasRoom a {} :=
  ⟨plain, atOf plain, .sadd true 191 0 191, _, rfl, free_of (by decide +kernel), room_of rfl⟩

/-- `%mode.E` of f32 and of a 64-bit pair. -/
def mode64 : State := ready fun g => { g with entries := [(0, { pc := 0x10000, refill := some 0, mode := 0x000000CF })] }

theorem witness_vector_words : ∃ s a i z, vectorWord a i = some z ∧ z.accepts = true ∧ z.even = true ∧
    Free s a i z.k { vr := z.reads, vw := z.dests, sr := z.scalars } ∧ HasRoom a (writing z.lanes z.dests) :=
  ⟨plain, atOf plain, .vadd false 127 0 127, _, rfl, by decide +kernel, by decide +kernel, free_of (by decide +kernel), room_of rfl⟩
/-- The last register pair of a 64-bit type. -/
theorem witness_vector_pairs : ∃ s a i z, vectorWord a i = some z ∧ z.accepts = true ∧ z.even = true ∧
    Free s a i z.k { vr := z.reads, vw := z.dests, sr := z.scalars } ∧ HasRoom a (writing z.lanes z.dests) ∧ is64 z.form = true :=
  ⟨mode64, atOf mode64, .vadds false 191 126 0, _, rfl, by decide +kernel, by decide +kernel, free_of (by decide +kernel), room_of rfl,
    by decide +kernel⟩
theorem witness_late_vector_words : ∃ s a i z, lateVectorWord a i = some z ∧ z.accepts = true ∧ z.even = true ∧
    Free s a i z.k { vr := z.reads, vw := z.dests } ∧ HasRoom a (writing z.lanes z.dests) :=
  ⟨plain, atOf plain, .vdiv true 127 1 0, _, rfl, by decide +kernel, by decide +kernel, free_of (by decide +kernel), room_of rfl⟩
theorem witness_exchange_words : ∃ s a i z, exchangeWord a i = some z ∧ z.accepts = true ∧ z.even = true ∧
    Free s a i z.k { vr := z.reads, vw := z.dests, sr := z.scalars } ∧ HasRoom a (writing z.lanes z.dests) :=
  ⟨plain, atOf plain, .vbfly false 127 0 31, _, rfl, by decide +kernel, by decide +kernel, free_of (by decide +kernel), room_of rfl⟩
theorem witness_vote_words : ∃ s a i z, voteWord a i = some z ∧ z.accepts = true ∧ z.even = true ∧
    Free s a i z.k { vr := z.reads, sw := [z.dest] } ∧ HasRoom a {} :=
  ⟨plain, atOf plain, .vballot false 191 11, _, rfl, by decide +kernel, by decide +kernel, free_of (by decide +kernel), room_of rfl⟩
theorem witness_predicate_words : ∃ s a i z, predicateWord a i = some z ∧ z.accepts = true ∧ z.even = true ∧
    Free s a i z.k { vr := z.reads } ∧ HasRoom a { constraints := z.records } :=
  ⟨plain, atOf plain, .pand false 11 0 11, _, rfl, by decide +kernel, by decide +kernel, free_of (by decide +kernel), room_of rfl⟩

/-! ## Index windows -/

/-- Every index register is zero, and window 0 has length 1. -/
theorem witness_window_load : ∃ (s : State) (a : At) (k : Bool) (w : BitVec 2) (d i : BitVec 7),
    (∀ l, l < 32 → laneAt a.enabled l = true → a.lane i.toNat l < (a.g.windowOf w.toNat).2) ∧
    Free s a (.vldx k w d i) k { vr := i.toNat :: windowRegs a w.toNat i.toNat, vw := [d.toNat] } ∧
    HasRoom a (writing a.enabled [d.toNat]) :=
  ⟨plain, atOf plain, false, 0, 127, 1, by decide +kernel, free_of (by decide +kernel), room_of rfl⟩
theorem witness_window_store : ∃ (s : State) (a : At) (k : Bool) (w : BitVec 2) (v i : BitVec 7),
    (∀ l, l < 32 → laneAt a.enabled l = true → a.lane i.toNat l < (a.g.windowOf w.toNat).2) ∧
    Free s a (.vstx k w v i) k { vr := [v.toNat, i.toNat], vw := windowRegs a w.toNat i.toNat } ∧
    HasRoom a { writes := fun l => if laneAt a.enabled l then [(a.g.windowOf w.toNat).1 + a.lane i.toNat l] else [] } :=
  ⟨plain, atOf plain, true, 3, 2, 127, by decide +kernel, free_of (by decide +kernel), room_of rfl⟩

/-- A handler at 0x2_0000, and v1 with index 1 in lane 0. -/
def handled : State := { ready (fun g => { g with v := [(1, ⟨vregOf fun l => if l = 0 then 1 else 0, none⟩)] }) with
  contexts := [((0, 0), { st := .running, handler := 0x20000 })] }
theorem witness_window_index : ∃ (s : State) (a : At) (k : Bool) (w : BitVec 2) (v i : BitVec 7) (j : Instr) (u : Use) (l : Nat),
    (j = .vldx k w v i ∧ u = { vr := [i.toNat], vw := [v.toNat] } ∨ j = .vstx k w v i ∧ u = { vr := [v.toNat, i.toNat] }) ∧
    l < 32 ∧ laneAt a.enabled l = true ∧ (a.g.windowOf w.toNat).2 ≤ a.lane i.toNat l ∧
    (∀ m, m < l → laneAt a.enabled m = true → a.lane i.toNat m < (a.g.windowOf w.toNat).2) ∧
    Free s a j k u ∧ a.g.region = none ∧ a.g.late = none ∧ a.g.outstanding = false ∧
    (AList.getD s.contexts (pkgOf a.r.chip, a.g.ctx) {}).st ≠ .draining ∧
    (AList.getD s.contexts (pkgOf a.r.chip, a.g.ctx) {}).handler ≠ 0 ∧ a.g.handler = none :=
  ⟨handled, atOf handled, false, 0, 5, 1, _, _, 0, .inl ⟨rfl, rfl⟩, by decide, by decide +kernel, by decide +kernel, by decide +kernel,
    free_of (by decide +kernel), rfl, rfl, by decide +kernel, by decide +kernel, by decide +kernel, rfl⟩

/-! ## Control -/

theorem witness_jump_words : ∃ s a i z, jump a i = some z ∧ (indirect i = true → z.pc.toNat % 4 = 0) ∧
    Free s a i z.k { sr := z.reads, sw := z.writes } ∧ HasRoom a {} :=
  ⟨plain, atOf plain, .loop false 191 0x7FFF, _, rfl, by decide, free_of (by decide +kernel), room_of rfl⟩
theorem witness_jump_indirect : ∃ s a i z, jump a i = some z ∧ indirect i = true ∧ z.pc.toNat % 4 = 0 ∧
    Free s a i z.k { sr := z.reads, sw := z.writes } ∧ HasRoom a {} :=
  ⟨plain, atOf plain, .ret true, _, rfl, rfl, by decide +kernel, free_of (by decide +kernel), room_of rfl⟩
/-- s191 holds the odd address 2. -/
def oddLink : State := ready fun g => { g with s := [(191, 2)] }
theorem witness_misaligned_jump : ∃ s a i z, jump a i = some z ∧ indirect i = true ∧ z.pc.toNat % 4 ≠ 0 ∧
    Free s a i z.k { sr := z.reads } ∧ Calm s a :=
  ⟨oddLink, atOf oddLink, .ret false, _, rfl, rfl, by decide +kernel, free_of (by decide +kernel), calm_of (by decide +kernel)⟩

/-- p1 holds a mask. -/
def voted (m : LaneMask) : State := ready fun g => { g with p := [(1, m)] }
/-- What `DivergentBranch` asks. -/
def Splits (s : State) (a : At) (k : Bool) (p : BitVec 4) (n : BitVec 1) (o : BitVec 18) (c : Nat) : Prop :=
  c < 32 ∧ AList.get? a.g.entries c = none ∧ (∀ j, j < c → AList.get? a.g.entries j ≠ none) ∧
    Free s a (.brd k p n o) k {} ∧ HasRoom a { allowed := agreeing a p n == a.e.lanes || agreeing a p n == 0 }
theorem witness_brd_taken : ∃ s a k p n o c, Splits s a k p n o c ∧ agreeing a p n = a.e.lanes :=
  ⟨plain, atOf plain, false, 0, 0, 4, 1, ⟨by decide, rfl, by decide +kernel, free_of (by decide +kernel), room_of rfl⟩, by decide +kernel⟩
theorem witness_brd_not_taken : ∃ s a k p n o c, Splits s a k p n o c ∧ agreeing a p n = 0 ∧ a.e.lanes ≠ 0 :=
  ⟨plain, atOf plain, false, 0, 1, 4, 1, ⟨by decide, rfl, by decide +kernel, free_of (by decide +kernel), room_of rfl⟩,
    by decide +kernel, by decide +kernel⟩
theorem witness_brd_split : ∃ s a k p n o c, Splits s a k p n o c ∧ agreeing a p n ≠ a.e.lanes ∧ agreeing a p n ≠ 0 :=
  ⟨voted 1, atOf (voted 1), true, 1, 1, 0x3FFFF, 1, ⟨by decide, rfl, by decide +kernel, free_of (by decide +kernel), room_of rfl⟩,
    by decide +kernel, by decide +kernel⟩
theorem witness_rejoin_address : ∃ (s : State) (a : At) (k : Bool) (o : BitVec 23), Free s a (.rcv k o) k {} ∧ HasRoom a {} :=
  ⟨plain, atOf plain, false, 0x7FFFFF, free_of (by decide +kernel), room_of rfl⟩
theorem witness_join_passes : ∃ (s : State) (a : At) (k : Bool), Free s a (.join k) k {} ∧ HasRoom a {} ∧
    a.g.joinTarget a.ei ≠ some a.e.pc :=
  ⟨plain, atOf plain, false, free_of (by decide +kernel), room_of rfl, by decide +kernel⟩

/-- A pair at its rejoin address: entry 0 has the even lanes, its child entry 1 the odd ones; the given one issues. -/
def pair (child : Bool) : State := { ready (fun g => { g with entries := [
    (0, { pc := 0x10000, lanes := 0x55555555, st := if child then .joinWait else .run, refill := some 0 }),
    (1, { pc := 0x10000, lanes := 0xAAAAAAAA, st := if child then .run else .joinWait, rejoin := some 0x10000, partner := some 0,
          retMode := 0x14F, retFmt := 0x30ABB, order := 1, refill := some 0 })] }) with
  issuer := some ⟨r0, if child then 1 else 0⟩ }
/-- What the second clause of `Fusion` asks. -/
def Fuses (a : At) (p c : Nat) (x y : Entry) : Prop :=
  p ≠ c ∧ a.g.entries = [(p, x), (c, y)] ∧ (a.ei = p ∨ a.ei = c) ∧ y.partner = some p ∧ x.partner = none ∧
    y.rejoin = some a.e.pc ∧ (a.ei = p → y.st = .joinWait ∧ y.pc = a.e.pc) ∧ (a.ei = c → x.st = .joinWait ∧ x.pc = a.e.pc)
theorem witness_join_partner : ∃ (s : State) (a : At) (k : Bool), Free s a (.join k) k {} ∧ HasRoom a {} ∧
    ∃ p c x y, Fuses a p c x y ∧ a.ei = p :=
  ⟨pair false, atOf (pair false), false, free_of (by decide +kernel), room_of rfl, 0, 1, _, _,
    ⟨by decide, rfl, .inl rfl, rfl, rfl, rfl, fun _ => ⟨rfl, rfl⟩, fun h => by cases h⟩, rfl⟩
theorem witness_join_child : ∃ (s : State) (a : At) (k : Bool), Free s a (.join k) k {} ∧ HasRoom a {} ∧
    ∃ p c x y, Fuses a p c x y ∧ a.ei = c :=
  ⟨pair true, atOf (pair true), true, free_of (by decide +kernel), room_of rfl, 0, 1, _, _,
    ⟨by decide, rfl, .inr rfl, rfl, rfl, rfl, fun h => (by cases h), fun _ => ⟨rfl, rfl⟩⟩, rfl⟩

/-- What `ExitWord` asks. -/
def Exits (s : State) (a : At) (k : Bool) : Prop := Free s a (.exit k) k {} ∧ a.g.region = none ∧ a.g.st = .active ∧
    (∀ b, AList.get? s.blocks a.g.block = some b → b.arrived = [])
theorem witness_exit_last : ∃ s a k, Exits s a k ∧ a.g.live &&& ~~~a.e.lanes = 0 :=
  ⟨plain, atOf plain, false, ⟨free_of (by decide +kernel), rfl, rfl, fun _ h => by cases h; rfl⟩, by decide +kernel⟩
theorem witness_exit_some : ∃ s a k, Exits s a k ∧ a.g.live &&& ~~~a.e.lanes ≠ 0 ∧ a.g.children a.ei = [] :=
  ⟨pair true, atOf (pair true), true, ⟨free_of (by decide +kernel), rfl, rfl, fun _ h => by cases h; rfl⟩,
    by decide +kernel, by decide +kernel⟩

/-! ## Mode and system registers -/

/-- A count of 7 on the high half, and the last E code that is not reserved. -/
theorem witness_mode_word : ∃ (s : State) (a : At) (k : Bool) (i : BitVec 22), modeReserved (newMode a.e.mode i) = false ∧
    Free s a (.mode k i) k {} ∧ HasRoom a {} :=
  ⟨plain, atOf plain, true, 0x3C0000, by decide +kernel, free_of (by decide +kernel), room_of rfl⟩
theorem witness_fmt_word : ∃ (s : State) (a : At) (k : Bool) (i : BitVec 22), fmtReserved (i.setWidth 32) = false ∧
    Free s a (.fmt k i) k {} ∧ HasRoom a {} :=
  ⟨plain, atOf plain, false, 0x30ABB, by decide +kernel, free_of (by decide +kernel), room_of rfl⟩
/-- A pending restore of the high half has run out. -/
def reverting : State := ready fun g => { g with entries := [(0, { pc := 0x10000, pending := some ⟨true, 0x7F, 0⟩ })] }
theorem witness_mode_reverts : ∃ (s : State) (f : FragRef) (g : Group) (e : Entry) (p : PendingRestore), s.memWf ∧
    s.missing = false ∧ AList.get? s.groups f.grp = some g ∧ AList.get? g.entries f.entry = some e ∧ e.pending = some p ∧
    p.count = 0 ∧ e.mode.toNat < 2 ^ 25 :=
  ⟨reverting, f0, _, _, _, by decide +kernel, rfl, rfl, rfl, rfl, rfl, by decide⟩
/-- What `SystemRead` asks. -/
def Reads (s : State) (a : At) (k : Bool) (d : BitVec 8) (n : BitVec 10) (v : DWord) : Prop :=
  systemRegister s a n.toNat = some v ∧ (0x100 ≤ n.toNat → a.g.handler ≠ none) ∧ Free s a (.srd k d n) k { sw := [d.toNat] } ∧
    HasRoom a {}
theorem witness_system_read : ∃ s a k d n v, Reads s a k d n v :=
  ⟨plain, atOf plain, false, 191, 0x017, _, rfl, fun h => absurd h (by decide), free_of (by decide +kernel), room_of rfl⟩
/-- Entry 0 is in handler mode. -/
def inHandler : State := ready fun g => { g with handler := some 0, tpc := 0x40, tmask := 0xFFFFFFFF, tmode := 0x14F, tfmt := 0x30ABB }
theorem witness_trap_register_read : ∃ s a k d n v, Reads s a k d n v ∧ 0x100 ≤ n.toNat :=
  ⟨inHandler, atOf inHandler, true, 0, 0x106, _, ⟨rfl, fun _ => by decide +kernel, free_of (by decide +kernel), room_of rfl⟩, by decide⟩
theorem witness_flags_read : ∃ (s : State) (a : At) (k : Bool) (d : BitVec 8), a.g.runCheck = false ∧
    Free s a (.srd k d 0x002) k { sw := [d.toNat] } ∧ HasRoom a {} :=
  ⟨plain, atOf plain, false, 5, rfl, free_of (by decide +kernel), room_of rfl⟩
/-- What `SystemWrite` asks. -/
def Writes (s : State) (a : At) (k : Bool) (r : BitVec 8) (n : BitVec 10) : Prop :=
  writesReserved a (.swr k r n) = none ∧ (0x100 ≤ n.toNat → a.g.handler ≠ none) ∧ Free s a (.swr k r n) k { sr := [r.toNat] } ∧
    HasRoom a { allowed := n == 0 || n == 1 }
theorem witness_system_write : ∃ s a k r n, Writes s a k r n ∧ n = 0 :=
  ⟨plain, atOf plain, false, 191, 0, ⟨by decide +kernel, fun h => absurd h (by decide), free_of (by decide +kernel), room_of rfl⟩, rfl⟩
theorem witness_trap_register_write : ∃ s a k r n, Writes s a k r n ∧ n = 0x106 :=
  ⟨inHandler, atOf inHandler, false, 0, 0x106, ⟨by decide +kernel, fun _ => by decide +kernel, free_of (by decide +kernel), room_of rfl⟩, rfl⟩
theorem witness_privilege : ∃ (s : State) (a : At) (i : Instr) (k : Bool) (u : Use), handlerWord i = some (k, u) ∧
    a.g.handler = none ∧ Here s a ∧ rejectOf i = none ∧ Calm s a :=
  ⟨plain, atOf plain, .srd false 0 0x100, _, _, rfl, rfl, here_of (by decide +kernel) rfl rfl rfl, by decide +kernel,
    calm_of (by decide +kernel)⟩
/-- E code 12 is the first reserved one. -/
theorem witness_reserved_mode : ∃ (s : State) (a : At) (i : Instr) (k : Bool) (u : Use), writesReserved a i = some (k, u) ∧
    rejectOf i = none ∧ Here s a ∧ Calm s a :=
  ⟨plain, atOf plain, .mode false 0x18F, _, _, rfl, by decide +kernel, here_of (by decide +kernel) rfl rfl rfl,
    calm_of (by decide +kernel)⟩

/-! ## Traps -/

theorem witness_illegal_word : ∃ (s : State) (a : At), Here s a ∧ AtHand s a [] ∧ Calm s a :=
  ⟨plain, atOf plain, here_of (by decide +kernel) rfl rfl rfl, (free_of (i := .nop false) (k := false) (u := {}) (by decide +kernel)).atHand,
    calm_of (by decide +kernel)⟩
/-- No lane is enabled: the guard predicate p1 is zero. -/
def noLane : State := ready fun g => { g with entries := [(0, { pc := 0x10000, refill := some 0, mode := 0x00000151 })] }
/-- What `TrapWords` asks of a word j. -/
def Traps (s : State) (a : At) (k : Bool) (i : BitVec 16) (j : Instr) : Prop :=
  (j = .trap k i ∧ a.g.region = none ∨ j = .brk k i) ∧ Free s a j k {} ∧ HasRoom a {}
theorem witness_trap_no_lane : ∃ s a k i j, Traps s a k i j ∧ a.enabled = 0 :=
  ⟨noLane, atOf noLane, true, 0, .brk true 0, ⟨.inr rfl, free_of (by decide +kernel), room_of rfl⟩, by decide +kernel⟩
theorem witness_trap : ∃ s a k i j, Traps s a k i j ∧ a.enabled ≠ 0 ∧ Calm s a :=
  ⟨plain, atOf plain, false, 0xFFFF, .trap false 0xFFFF, ⟨.inl ⟨rfl, rfl⟩, free_of (by decide +kernel), room_of rfl⟩, by decide +kernel,
    calm_of (by decide +kernel)⟩
/-- A V-class result of the group is to come. -/
def resultDue : State := ready fun g => { g with ops := [{ id := 0, kind := .value [.s 191 1] }], nextOp := 1 }
theorem witness_trap_waits : ∃ s a k i j, Traps s a k i j ∧ a.enabled ≠ 0 ∧ a.g.outstanding = true ∧
    (AList.getD s.contexts (pkgOf a.r.chip, a.g.ctx) {}).st ≠ .draining :=
  ⟨resultDue, atOf resultDue, false, 1, .trap false 1, ⟨.inl ⟨rfl, rfl⟩, free_of (by decide +kernel), room_of rfl⟩, by decide +kernel,
    by decide +kernel, by decide +kernel⟩
/-- The group's context drains. -/
def drainingContext : State := { plain with contexts := [((0, 0), { st := .draining })] }
theorem witness_trap_drains : ∃ s a k i j, Traps s a k i j ∧ a.enabled ≠ 0 ∧ (AList.getD s.contexts (pkgOf a.r.chip, a.g.ctx) {}).st = .draining :=
  ⟨drainingContext, atOf drainingContext, true, 1, .brk true 1, ⟨.inr rfl, free_of (by decide +kernel), room_of rfl⟩, by decide +kernel, rfl⟩
theorem witness_brk_in_region : ∃ s a k i j, Traps s a k i j ∧ ∃ rg, a.enabled ≠ 0 ∧ a.g.region = some rg ∧ rg.sent = false ∧ rg.entry = a.ei ∧
    a.g.outstanding = false ∧ a.g.late = none ∧ (AList.getD s.contexts (pkgOf a.r.chip, a.g.ctx) {}).st ≠ .draining :=
  ⟨inRegion region0, atOf (inRegion region0), false, 2, .brk false 2,
    ⟨.inr rfl, free_of (by decide +kernel), room_region rfl (by decide +kernel)⟩, region0, by decide +kernel, rfl, rfl, rfl, by decide +kernel, rfl,
    by decide +kernel⟩
/-- What `TrapReturn` asks. -/
def Returns (s : State) (a : At) (k : Bool) : Prop := a.g.handler = some a.ei ∧ a.g.region = none ∧ Free s a (.eret k) k {}
/-- It returns to a mode that is not reserved. -/
def LegalMode (a : At) : Prop := modeReserved a.g.tmode = false ∧ fmtReserved a.g.tfmt = false
theorem witness_trap_return : ∃ s a k, Returns s a k ∧ LegalMode a ∧ a.g.tpc.toNat % 4 = 0 ∧ a.e.lanes &&& ~~~a.g.tmask = 0 :=
  ⟨inHandler, atOf inHandler, false, ⟨rfl, rfl, free_of (by decide +kernel)⟩, ⟨by decide +kernel, by decide +kernel⟩, by decide +kernel,
    by decide +kernel⟩
/-- A handler's group with `%tpc`, `%tmask` and `%tmode` as given. -/
def returnsTo (tpc : DWord) (tmask tmode : Word) : State := ready fun g =>
  { g with handler := some 0, tpc := tpc, tmask := tmask, tmode := tmode, tfmt := 0x30ABB }
theorem witness_trap_return_reserved : ∃ s a k, Returns s a k ∧ ¬LegalMode a ∧ Calm s a :=
  ⟨returnsTo 0x40 0xFFFFFFFF 0x18F, atOf (returnsTo 0x40 0xFFFFFFFF 0x18F), false, ⟨rfl, rfl, free_of (by decide +kernel)⟩,
    by unfold LegalMode; decide +kernel, calm_of (by decide +kernel)⟩
theorem witness_trap_return_misaligned : ∃ s a k, Returns s a k ∧ LegalMode a ∧ a.g.tpc.toNat % 4 ≠ 0 ∧ Calm s a :=
  ⟨returnsTo 0x42 0xFFFFFFFF 0x14F, atOf (returnsTo 0x42 0xFFFFFFFF 0x14F), false, ⟨rfl, rfl, free_of (by decide +kernel)⟩,
    ⟨by decide +kernel, by decide +kernel⟩, by decide +kernel, calm_of (by decide +kernel)⟩
/-- What the last clause asks. -/
def ReturnsFewer (s : State) (a : At) (k : Bool) : Prop := Returns s a k ∧ LegalMode a ∧ a.g.tpc.toNat % 4 = 0 ∧
  a.e.lanes &&& ~~~a.g.tmask ≠ 0 ∧ a.g.st = .active ∧ ∀ b, AList.get? s.blocks a.g.block = some b → b.arrived = []
theorem returnsTo_fewer (m : Word) (h : freeOk (returnsTo 0x40 m 0x14F) (.eret true) true {} = true)
    (hm : (atOf (returnsTo 0x40 m 0x14F)).e.lanes &&& ~~~m ≠ 0) : ReturnsFewer (returnsTo 0x40 m 0x14F) (atOf (returnsTo 0x40 m 0x14F)) true :=
  ⟨⟨rfl, rfl, free_of h⟩, ⟨by show modeReserved 0x14F = false; decide +kernel, by show fmtReserved 0x30ABB = false; decide +kernel⟩,
    by show (0x40 : DWord).toNat % 4 = 0; decide, hm, rfl, fun _ h => by cases h; rfl⟩
/-- All lanes but lane 0 leave at the return. -/
theorem witness_trap_return_exits : ∃ s a k, ReturnsFewer s a k ∧ a.g.live &&& ~~~(a.e.lanes &&& ~~~a.g.tmask) ≠ 0 ∧ a.e.st = .run ∧
    a.e.lanes &&& a.g.tmask ≠ 0 :=
  ⟨_, _, _, returnsTo_fewer 1 (by decide +kernel) (by decide +kernel), by decide +kernel, rfl, by decide +kernel⟩
/-- Every lane leaves at the return. -/
theorem witness_trap_return_last : ∃ s a k, ReturnsFewer s a k ∧ a.g.live &&& ~~~(a.e.lanes &&& ~~~a.g.tmask) = 0 :=
  ⟨_, _, _, returnsTo_fewer 0 (by decide +kernel) (by decide +kernel), by decide +kernel⟩
/-- What `HaltWord` asks. -/
def Halts (s : State) (a : At) (k : Bool) : Prop := Free s a (.halt k) k {} ∧ HasRoom a {}
theorem witness_halt : ∃ s a k, Halts s a k ∧ a.enabled ≠ 0 ∧ a.g.region = none :=
  ⟨plain, atOf plain, true, ⟨free_of (by decide +kernel), room_of rfl⟩, by decide +kernel, rfl⟩
theorem witness_halt_no_lane : ∃ s a k, Halts s a k ∧ a.enabled = 0 :=
  ⟨noLane, atOf noLane, false, ⟨free_of (by decide +kernel), room_of rfl⟩, by decide +kernel⟩
theorem witness_halt_in_region : ∃ s a k, Halts s a k ∧ ∃ rg, a.enabled ≠ 0 ∧ a.g.region = some rg ∧ rg.sent = false ∧ rg.entry = a.ei :=
  ⟨inRegion region0, atOf (inRegion region0), false, ⟨free_of (by decide +kernel), room_region rfl (by decide +kernel)⟩, region0,
    by decide +kernel, rfl, rfl, rfl⟩
/-- What `LaunchWord` asks. -/
def Launches (s : State) (a : At) (k : Bool) (r : BitVec 8) : Prop := Free s a (.launch k r) k { sr := [r.toNat] } ∧ a.g.region = none
theorem witness_launch_no_lane : ∃ s a k r, Launches s a k r ∧ a.enabled = 0 :=
  ⟨noLane, atOf noLane, true, 191, ⟨free_of (by decide +kernel), rfl⟩, by decide +kernel⟩
/-- s191 names an address. -/
def launching (addr : DWord) : State := ready fun g => { g with s := [(191, addr)] }
theorem witness_launch_misaligned : ∃ s a k r, Launches s a k r ∧ a.enabled ≠ 0 ∧ (a.sval r.toNat).toNat % 128 ≠ 0 ∧ Calm s a :=
  ⟨launching 64, atOf (launching 64), false, 191, ⟨free_of (by decide +kernel), rfl⟩, by decide +kernel, by decide +kernel,
    calm_of (by decide +kernel)⟩
theorem witness_launch : ∃ s a k r, Launches s a k r ∧ a.enabled ≠ 0 ∧ (a.sval r.toNat).toNat % 128 = 0 ∧ a.g.ops = [] :=
  ⟨launching 0x10080, atOf (launching 0x10080), true, 191, ⟨free_of (by decide +kernel), rfl⟩, by decide +kernel, by decide +kernel, rfl⟩
theorem witness_probe : ∃ (s : State) (a : At) (k : Bool) (i : BitVec 16), Free s a (.probe k i) k {} ∧ HasRoom a {} ∧ a.enabled ≠ 0 :=
  ⟨plain, atOf plain, false, 0xFFFF, free_of (by decide +kernel), room_of rfl, by decide +kernel⟩
theorem witness_probe_no_lane : ∃ (s : State) (a : At) (k : Bool) (i : BitVec 16), Free s a (.probe k i) k {} ∧ HasRoom a {} ∧
    a.enabled = 0 :=
  ⟨noLane, atOf noLane, false, 1, free_of (by decide +kernel), room_of rfl, by decide +kernel⟩

/-! ## Block scalars -/

theorem witness_block_scalar_write : ∃ (s : State) (a : At) (k : Bool) (n : BitVec 4) (r : BitVec 8) (b : Block), a.e.lanes ≠ 0 ∧
    AList.get? s.blocks a.g.block = some b ∧ (∀ y ∈ b.scalars, y.b = n.toNat → y.cycle = s.cycle → y.gid ≤ a.g.gid) ∧
    Free s a (.bset k n r) k { sr := [r.toNat] } ∧ a.g.region = none :=
  ⟨plain, atOf plain, false, 15, 191, _, by decide +kernel, rfl, fun _ h => (by cases h), free_of (by decide +kernel), rfl⟩
/-- The block's scalar 3 was written by group 0 last. -/
def told : State := readyIn id fun b => { b with scalars := [{ b := 3, value := 7, gid := 0, cycle := 0 }] }
theorem witness_block_scalar_read : ∃ (s : State) (a : At) (k : Bool) (n : BitVec 4) (d : BitVec 8) (b : Block),
    AList.get? s.blocks a.g.block = some b ∧ Free s a (.bget k n d) k { sw := [d.toNat] } ∧ HasRoom a {} ∧
    ∃ p q y, b.scalars = p ++ y :: q ∧ y.b = n.toNat ∧ (∀ z ∈ q, z.b ≠ n.toNat) ∧ y.gid = a.g.gid :=
  ⟨told, atOf told, false, 3, 0, _, rfl, free_of (by decide +kernel), room_of rfl, [], [], _, rfl, rfl, fun _ h => (by cases h), rfl⟩
theorem witness_block_scalar_unwritten : ∃ (s : State) (a : At) (k : Bool) (n : BitVec 4) (d : BitVec 8) (b : Block),
    AList.get? s.blocks a.g.block = some b ∧ Free s a (.bget k n d) k { sw := [d.toNat] } ∧ HasRoom a {} ∧
    ∀ y ∈ b.scalars, y.b ≠ n.toNat :=
  ⟨told, atOf told, true, 15, 191, _, rfl, free_of (by decide +kernel), room_of rfl, by decide +kernel⟩

end Sys2Proof.Tests
end

