-- ==== Sys2Proof/Tests/Words.lean ====
section
/-! SUPPORT. Every constructor's decoding, class by class, on words built from the fixed bits and the field places that
spec/opcode_table.json gives each row, with a different value in each field. -/
namespace Sys2Proof.Tests
set_option Elab.async false

/-- Each word decodes to the instruction beside it, and to nothing beyond it. -/
def reads (l : List (Nat × Instr)) : Bool :=
  l.all fun x => match decodeBytes (wordBytes x.1) with
    | .ok (i, []) => decide (i = x.2)
    | _ => false

theorem test_words_vr : reads [
  (0x80218683, .vadd true 6 13 3), (0x80418683, .vsub true 6 13 3), (0x80618683, .vmul true 6 13 3),
  (0x80818683, .vmulh true 6 13 3), (0x80A18683, .vdiv true 6 13 3), (0x80C18683, .vrem true 6 13 3),
  (0x80E18683, .vmin true 6 13 3), (0x81018683, .vmax true 6 13 3), (0x81218683, .vand true 6 13 3),
  (0x81418683, .vor true 6 13 3), (0x81618683, .vxor true 6 13 3), (0x81818683, .vshl true 6 13 3),
  (0x81A18683, .vshr true 6 13 3), (0x81C18683, .vsra true 6 13 3), (0x81E18683, .vrot true 6 13 3),
  (0x82018683, .vsel true 6 13 3), (0x82218683, .vabsd true 6 13 3), (0x82418683, .vcsgn true 6 13 3),
  (0x82618683, .vpk true 6 13 3)] = true := by decide +kernel

theorem test_words_vu : reads [
  (0x88218683, .vmad true 6 13 3), (0x88418683, .vmsb true 6 13 3), (0x88618683, .vclmp true 6 13 3),
  (0x88818683, .vdot4 true 6 13 3), (0x88A18680, .vmov true 6 13), (0x88C18680, .vneg true 6 13),
  (0x88E18680, .vabs true 6 13), (0x89018680, .vnot true 6 13), (0x89218680, .vclz true 6 13),
  (0x89418680, .vpop true 6 13), (0x89618680, .vbrev true 6 13), (0x89818680, .vcvt true 6 13),
  (0x89A18680, .vrcp true 6 13), (0x89C18680, .vrsq true 6 13), (0x89E18680, .vsqrt true 6 13),
  (0x8A018680, .vexp2 true 6 13), (0x8A218680, .vlog2 true 6 13), (0x8A418680, .vsin true 6 13),
  (0x8A618680, .vcos true 6 13), (0x8A818680, .vfloor true 6 13), (0x8AA18680, .vceil true 6 13),
  (0x8AC18680, .vtrunc true 6 13), (0x8AE18680, .vrint true 6 13), (0x8B018680, .vfrac true 6 13),
  (0x8B218680, .vclass true 6 13), (0x8B418000, .vfree true 6)] = true := by decide +kernel

theorem test_words_vs : reads [
  (0x90418683, .vadds true 6 13 3), (0x90818683, .vsubs true 6 13 3), (0x90C18683, .vrsubs true 6 13 3),
  (0x91018683, .vmuls true 6 13 3), (0x91418683, .vmads true 6 13 3), (0x91818683, .vmins true 6 13 3),
  (0x91C18683, .vmaxs true 6 13 3), (0x92018683, .vands true 6 13 3), (0x92418683, .vors true 6 13 3),
  (0x92818683, .vxors true 6 13 3), (0x92C18683, .vshls true 6 13 3), (0x93018683, .vshrs true 6 13 3),
  (0x93418683, .vsras true 6 13 3), (0x93818680, .vbcs true 6 13)] = true := by decide +kernel

theorem test_words_vi : reads [
  (0x980C3403, .vaddi true 6 13 3), (0x990C3403, .vmuli true 6 13 3), (0x9A0C3403, .vandi true 6 13 3),
  (0x9B0C3403, .vori true 6 13 3), (0x9C0C3403, .vxori true 6 13 3), (0x9D0C3403, .vshli true 6 13 3),
  (0x9E0C3403, .vshri true 6 13 3), (0x9F0C3403, .vsrai true 6 13 3)] = true := by decide +kernel

theorem test_words_sa : reads [
  (0xA0060D03, .sadd true 6 13 3), (0xA1060D03, .ssub true 6 13 3), (0xA2060D03, .smul true 6 13 3),
  (0xA3060D03, .smulh true 6 13 3), (0xA4060D03, .sdiv true 6 13 3), (0xA5060D03, .srem true 6 13 3),
  (0xA6060D03, .smin true 6 13 3), (0xA7060D03, .smax true 6 13 3)] = true := by decide +kernel

theorem test_words_sb : reads [
  (0xA8060D03, .sand true 6 13 3), (0xA9060D03, .sor true 6 13 3), (0xAA060D03, .sxor true 6 13 3),
  (0xAB060D03, .sshl true 6 13 3), (0xAC060D03, .sshr true 6 13 3), (0xAD060D03, .ssra true 6 13 3),
  (0xAE060D03, .sslt true 6 13 3), (0xAF060D03, .ssln true 6 13 3)] = true := by decide +kernel

theorem test_words_si : reads [
  (0xB0060D03, .saddi true 6 13 3), (0xB1060D03, .sandi true 6 13 3), (0xB2060D03, .sori true 6 13 3),
  (0xB3060D03, .sxori true 6 13 3), (0xB4060D03, .sshli true 6 13 3), (0xB5060D03, .sshri true 6 13 3),
  (0xB6060D03, .ssrai true 6 13 3), (0xB7060D03, .sslti true 6 13 3)] = true := by decide +kernel

theorem test_words_sl : reads [
  (0xB818000D, .sli true 6 13), (0xBC18000D, .slu true 6 13)] = true := by decide +kernel

theorem test_words_cf : reads [
  (0xC0800006, .br true 6), (0xC1000006, .call true 6), (0xC1830000, .jmp true 6), (0xC2000000, .ret true),
  (0xC2B40003, .bp true 6 1 3), (0xC3340003, .brd true 6 1 3), (0xC3800006, .rcv true 6), (0xC4000000, .join true),
  (0xC483000D, .bz true 6 13), (0xC503000D, .bnz true 6 13), (0xC583000D, .loop true 6 13), (0xC6000000, .exit true)] = true := by decide +kernel

theorem test_words_pv : reads [
  (0xC8B0D060, .vceq true 6 13 3), (0xC930D060, .vcne true 6 13 3), (0xC9B0D060, .vclt true 6 13 3),
  (0xCA30D060, .vcle true 6 13 3), (0xCAB0D060, .vcun true 6 13 3), (0xCE340000, .pset true 6 1),
  (0xCEB0D000, .pfromv true 6 13), (0xCF30D000, .ptov true 6 13), (0xCB0A8000, .pand true 1 5 0),
  (0xCB9C1800, .por true 3 8 3), (0xCC30C000, .pxor true 6 1 8), (0xCC9B9000, .pandn true 3 7 2),
  (0xCD408000, .pnot true 8 1), (0xCDBA8000, .pmov true 7 5)] = true := by decide +kernel

theorem test_words_lx : reads [
  (0xD0430D03, .vbfly true 6 13 3), (0xD0830D06, .vshfl true 6 13 3), (0xD0C30D03, .vbcast true 6 13 3),
  (0xD1030D03, .vrotl true 6 13 3), (0xD1418683, .vtos true 6 13 3), (0xD1830683, .stov true 6 13 3),
  (0xD2430D00, .vscan true 6 13), (0xD2818680, .vred true 6 13), (0xD2C30000, .vlane true 6), (0xD3030000, .vtid true 6),
  (0xD3400000, .regrp true), (0xD1C1C400, .vballot true 7 1), (0xD2021800, .vfind true 8 6)] = true := by decide +kernel

theorem test_words_mem : reads [
  (0xD8418683, .vld true 6 13 3), (0xD8818683, .vst true 6 13 3), (0xD8C1800D, .prf true 6 13),
  (0xD9018683, .vaadd true 6 13 3), (0xD9418683, .vamin true 6 13 3), (0xD9818683, .vamax true 6 13 3),
  (0xD9C18683, .vaand true 6 13 3), (0xDA018683, .vaor true 6 13 3), (0xDA418683, .vaxor true 6 13 3),
  (0xDA818683, .vaxch true 6 13 3), (0xDB018683, .vredadd true 6 13 3), (0xDB418683, .vredmin true 6 13 3),
  (0xDB818683, .vredmax true 6 13 3), (0xDBC08683, .vldx true 2 13 3), (0xDC008683, .vstx true 2 13 3),
  (0xDC400300, .vpush true 6), (0xDC800300, .vpopSpill true 6), (0xDCC18343, .sld true 6 13 3),
  (0xDD018343, .sst true 6 13 3), (0xDD418343, .saadd true 6 13 3), (0xDAC40402, .vacas true 16 8 2)] = true := by decide +kernel

theorem test_words_mx : reads [
  (0xE0580000, .macq true 6), (0xE0800000, .mrel true), (0xE0C00C00, .mquor true 6), (0xE10CD180, .mma true 6 13 3),
  (0xE14CD1A4, .mmas true 6 13 3 9), (0xE18C0000, .mzero true 6), (0xE1CCD000, .mdrain true 6 13),
  (0xE20C1A00, .tcfg true 6 13), (0xE24C0000, .tfree true 6), (0xE28C1A00, .tstate true 6 13),
  (0xE2CC1A0C, .vtot true 6 13 3), (0xE30C1A0C, .ttov true 6 13 3), (0xE3400C00, .kset true 6),
  (0xE3806001, .spld true 6 1), (0xE3CC0001, .spst true 6 1), (0xE40CD000, .spev true 6 13),
  (0xE44CD180, .spbwd true 6 13 3), (0xE48CD184, .spgrd true 6 13 3 1), (0xE4C00000, .sprf true),
  (0xE5000C00, .spoog true 6)] = true := by decide +kernel

theorem test_words_as : reads [
  (0xE858340D, .cpy true 6 13 3 1), (0xE8983400, .cpyt true 6 13), (0xE8D8340C, .mcast true 6 13 3),
  (0xE9200000, .seal true 2), (0xE96D0000, .waitb true 2 13), (0xE9A00D00, .bstat true 2 13),
  (0xEAC18683, .cput true 6 13 3), (0xEB018683, .cget true 6 13 3), (0xEB418683, .cred true 6 13 3),
  (0xEB800600, .osig true 6), (0xEBC00600, .rwin true 6), (0xEC000000, .rwcl true), (0xEC580D00, .bset true 6 13),
  (0xEC980D00, .bget true 6 13), (0xE9E10000, .bar true 2 1), (0xEA130000, .bara true 1 3),
  (0xEAB11000, .barq true 3 1 16), (0xEA630000, .barw true 2 3)] = true := by decide +kernel

theorem test_words_sy : reads [
  (0xF0000000, .nop true), (0xF0400006, .mode true 6), (0xF0800006, .fmt true 6), (0xF1400000, .fence true),
  (0xF1800006, .trap true 6), (0xF1C00000, .eret true), (0xF2000006, .brk true 6), (0xF2400000, .halt true),
  (0xF2800000, .yield true), (0xF2C6000D, .opf true 6 13), (0xF321A0C0, .ixw true 2 13 3), (0xF3400006, .ab true 6),
  (0xF3800000, .ac true), (0xF3C00000, .aa true), (0xF4000000, .turn true), (0xF4400000, .tsync true),
  (0xF481800D, .tblq true 6 13), (0xF4C18000, .launch true 6), (0xF5000006, .probe true 6), (0xF5418000, .rdtime true 6),
  (0xF1008003, .swr true 2 3), (0xF0C04003, .srd true 1 3)] = true := by decide +kernel

/-- The all-zero word, class 0xF and a reserved function code mean nothing (03 R59). -/
theorem test_words_reserved : ([0x00000000, 0x78000000, 0x02800000, 0x7FFFFFFF].all fun w =>
    (match decodeBytes (wordBytes w) with | .ok _ => false | .error _ => true)) = true := by decide +kernel

end Sys2Proof.Tests
end

section
/-! SUPPORT. What an issue leaves of a group's region and of its switch marker, and the word that has no other effect: `nop`
(03 R55, R86; 16 R373). -/
namespace Sys2Proof.Machine
open Sys2Proof.Statement

/-! ## The switch marker and the region -/

/-- A word without the switch marker parks no group, and one of fixed latency leaves no register unmarked (03 R55, R57). -/
theorem endedAs_unmarked {x : Issue} (hk : x.k = false) (hv : isVariable x.i = false) (a : At) (pc : Option DWord) (w : W)
    (g : Group) : (endedAs x a pc w g).parked = g.parked ∧ (endedAs x a pc w g).unmarked = g.unmarked := by
  simp only [endedAs, issuedAs, hk, hv, Bool.false_eq_true, if_false]
  exact ⟨rfl, trivial⟩

/-- At a switch marker with a V-class result outstanding the group parks (03 R55). -/
theorem endedAs_parks {x : Issue} {g : Group} (hk : x.k = true) (ho : g.outstanding = true) (a : At) (pc : Option DWord)
    (w : W) : (endedAs x a pc w g).parked = true := by
  have h : (issuedAs x a pc g).outstanding = true := ho
  simp [endedAs, parkedAs, hk, h]

/-- At a switch marker with every V-class result written the group passes, and no register is unmarked (03 R55, R57). -/
theorem endedAs_passes {x : Issue} {g : Group} (hk : x.k = true) (ho : g.outstanding = false) (a : At) (pc : Option DWord)
    (w : W) : (endedAs x a pc w g).parked = false ∧ (endedAs x a pc w g).unmarked = ([], []) := by
  have h : (issuedAs x a pc g).outstanding = false := ho
  simp [endedAs, parkedAs, hk, h]

/-- An issue charges an open region with the word's use of it (16 R373). -/
@[simp] theorem endedAs_region (x : Issue) (a : At) (pc : Option DWord) (w : W) (g : Group) :
    (endedAs x a pc w g).region = g.region.map fun rg => rg.charge (x.region a) := by
  unfold endedAs parkedAs
  split
  · split <;> rfl
  · rfl

/-! ## `nop` -/

/-- `nop` as a word: it checks nothing, names no register and goes on (03 R86). -/
def nopIssue (k : Bool) : Issue := { i := .nop k, k := k, chk := fun _ => {}, body := fun w x => .next w x }

theorem exec_nop (k : Bool) (s : State) : exec (.nop k) s = issue (nopIssue k) s := rfl

/-- A `nop` that issues leaves the group as an issue leaves it, and the core's account of the issue. -/
theorem nop_issues {s : State} {a : At} {k : Bool} (f : Free s a (.nop k) k {}) (room : HasRoom a {}) :
    exec (.nop k) s = .next (((((s.toW f.wf).putGroup a.r (startedAs (nopIssue k) a)).account a false).putGroup a.r
      (endedAs (nopIssue k) a (some a.next) ((s.toW f.wf).putGroup a.r (startedAs (nopIssue k) a))
        (startedAs (nopIssue k) a))).toState) := by
  have checks : firstFault (nopIssue k) a = none :=
    firstFault_eq_none f.formed rfl f.declared rfl rfl rfl f.calm room
  rw [exec_nop]
  exact issue_done f.toHere checks f.atHand rfl (W.group_putGroup _ _ _) f.early f.whole

/-- Settles O16: both words decode to `nop`, and the group that an issue leaves is all that a `nop` changes. -/
theorem nopWord : Obligations.NopWord := by
  refine ⟨by rfl, by rfl, fun s a k f room => ?_⟩
  let g0 := startedAs (nopIssue k) a
  let w := (s.toW f.wf).putGroup a.r g0
  obtain ⟨e, kept, pc⟩ := kept_of (x := nopIssue k) (pc := some a.next) (w2 := w) (g2 := g0)
    (t := ((w.account a false).putGroup a.r (endedAs (nopIssue k) a (some a.next) w g0)).toState)
    f.here (AList.get?_put_self _ _ _) rfl rfl rfl rfl
  refine ⟨_, _, e, nop_issues f room, kept, pc, alone_of f.wf (OnlyGroup.refl (W.group_putGroup _ _ _)), ⟨?_, ?_, ?_⟩,
    endedAs_fflags .., endedAs_ops .., ?_, ?_, ?_, ?_⟩
  · intro n _
    rw [endedAs_vget]
    rfl
  · intro n _
    rw [endedAs_sget]
    rfl
  · intro n _
    rw [endedAs_pget]
    rfl
  · exact fun hk => endedAs_unmarked (x := nopIssue k) (g := g0) hk rfl _ _ _
  · exact fun hk ho => endedAs_parks (x := nopIssue k) (g := g0) hk ho _ _ _
  · exact fun hk ho => endedAs_passes (x := nopIssue k) (g := g0) hk ho _ _ _
  · intro rg hrg
    refine ⟨rg.charge {}, ?_, rfl⟩
    rw [endedAs_region]
    show a.g.region.map _ = _
    rw [hrg]
    rfl

end Sys2Proof.Machine
end

section
/-! SUPPORT. What taking an exception leaves of the group that takes it (05 R110 to R112): other groups that are stopped with it,
the event and the dump touch of that group no more than a fault that waits, where its slot has one pair in the group table. -/
namespace Sys2Proof.AList
variable {α β : Type} [DecidableEq α]

theorem keys_upd (t : AList α β) (k : α) (f : β → β) : (upd t k f).map Prod.fst = t.map Prod.fst := by
  induction t with
  | nil => rfl
  | cons p r ih => by_cases h : p.1 = k <;> simp [upd, h, ih]

/-- Where each key has one pair, that pair holds the value under the key. -/
theorem value_unique {t : AList α β} {p : α × β} {v : β} (one : (t.map Prod.fst).Nodup) (hp : p ∈ t)
    (hv : get? t p.1 = some v) : p.2 = v := by
  induction t with
  | nil => cases hp
  | cons q r ih =>
    simp only [List.map_cons, List.nodup_cons] at one
    rw [get?_cons] at hv
    rcases List.mem_cons.1 hp with rfl | hp
    · simpa using hv
    · have ne : ¬ q.1 = p.1 := fun e => one.1 (e ▸ List.mem_map_of_mem hp)
      rw [if_neg ne] at hv
      exact ih one.2 hp hv

/-- Where each key has one pair, a key whose value fails a test is not among those that pass it. -/
theorem notMem_keysWhere {t : AList α β} {k : α} {v : β} {f : α → β → Bool} (one : (t.map Prod.fst).Nodup)
    (hv : get? t k = some v) (hf : f k v = false) : k ∉ keysWhere t f := by
  intro hk
  obtain ⟨p, hp, rfl⟩ := List.mem_map.1 hk
  obtain ⟨hp, hfp⟩ := List.mem_filter.1 hp
  rw [value_unique one hp hv, hf] at hfp
  cases hfp

end Sys2Proof.AList

namespace Sys2Proof.Machine
open Sys2Proof.Statement

theorem W.slots_updGroup (w : W) (r : GroupRef) (f : Group → Group) :
    (w.updGroup r f).s.groups.map Prod.fst = w.s.groups.map Prod.fst := AList.keys_upd _ _ _

/-- A group at which another fault, or none, waits. -/
def Group.withFault (g : Group) (x : Option FaultInfo) : Group := { g with fault := x }

/-! ## What spares a group -/

/-- Of the group in slot r a change leaves everything but the fault that waits, and of the rest the memory, the slots that hold a
pair, and that no absent frame was met. -/
structure Spares (r : GroupRef) (w w' : W) : Prop where
  memory : w'.m = w.m
  missing : w'.s.missing = w.s.missing
  slots : w'.s.groups.map Prod.fst = w.s.groups.map Prod.fst
  group : ∀ g, w.group r = some g → ∃ x, w'.group r = some (g.withFault x)

theorem Spares.refl (r : GroupRef) (w : W) : Spares r w w := ⟨rfl, rfl, rfl, fun g h => ⟨g.fault, h⟩⟩

theorem Spares.trans {r : GroupRef} {w1 w2 w3 : W} (a : Spares r w1 w2) (b : Spares r w2 w3) : Spares r w1 w3 where
  memory := b.memory.trans a.memory
  missing := b.missing.trans a.missing
  slots := b.slots.trans a.slots
  group g hg := by
    obtain ⟨x, hx⟩ := a.group g hg
    obtain ⟨y, hy⟩ := b.group _ hx
    exact ⟨y, hy⟩

theorem Spares.ite {r : GroupRef} {w w1 w2 : W} {c : Prop} [Decidable c] (a : Spares r w w1) (b : Spares r w w2) :
    Spares r w (if c then w1 else w2) := by
  split
  · exact a
  · exact b

/-- A change for each member of a list spares a group where each of them does. -/
theorem Spares.each {α : Type} {r : GroupRef} {xs : List α} {f : W → α → W} (h : ∀ x ∈ xs, ∀ w, Spares r w (f w x)) (w : W) :
    Spares r w (w.each xs f) := by
  induction xs generalizing w with
  | nil => exact .refl r w
  | cons x xs ih => exact (h x (by simp) w).trans (ih (fun y hy => h y (by simp [hy])) (f w x))

theorem spares_updGroup_ne {q r : GroupRef} (h : r ≠ q) (w : W) (f : Group → Group) : Spares r w (w.updGroup q f) where
  memory := rfl
  missing := rfl
  slots := W.slots_updGroup _ _ _
  group g hg := ⟨g.fault, (W.group_updGroup_ne w f h).trans hg⟩

theorem spares_fault (q r : GroupRef) (w : W) (f : Group → Option FaultInfo) :
    Spares r w (w.updGroup q fun g => { g with fault := f g }) := by
  by_cases h : r = q
  · subst h
    exact ⟨rfl, rfl, W.slots_updGroup _ _ _, fun g hg => ⟨f g, by simp [hg, Group.withFault]⟩⟩
  · exact spares_updGroup_ne h w _

theorem spares_updBlock (r : GroupRef) (w : W) (b : Nat) (f : Block → Block) : Spares r w (w.updBlock b f) :=
  ⟨rfl, rfl, rfl, fun g h => ⟨g.fault, h⟩⟩

theorem spares_updChip (r : GroupRef) (w : W) (c : Nat) (f : Chip → Chip) : Spares r w (w.updChip c f) :=
  ⟨rfl, rfl, rfl, fun g h => ⟨g.fault, h⟩⟩

theorem spares_out (r : GroupRef) (w : W) (o : Output) : Spares r w (w.out o) :=
  ⟨rfl, rfl, rfl, fun g h => ⟨g.fault, h⟩⟩

theorem spares_event (r : GroupRef) (w : W) (chip code ctx status : Nat) (payload : List Byte) :
    Spares r w (w.event chip code ctx status payload) := by
  unfold W.event
  dsimp only
  split
  · exact spares_updChip ..
  · exact (spares_updChip ..).trans (spares_out ..)

/-- The event of a listed group gives the other held groups a fault that waits (11 R254). -/
theorem spares_quorumEvent (q r : GroupRef) (w : W) (detail : Nat) : Spares r w (w.quorumEvent q detail) := by
  unfold W.quorumEvent
  split
  · exact .refl r w
  · split
    · exact .refl r w
    · split
      · exact .refl r w
      · exact (spares_updBlock ..).trans (Spares.each (fun h _ w => spares_fault h.1.grp r w _) _)

/-- A group that is stopped (05 R112). -/
def Group.stoppedFor (g : Group) (cause : Option StopCause) : Group :=
  { g with st := .stopped, stopCause := cause, stopping := false, parked := false, buffer := [], latchAt := none }

theorem spares_stopGroup {q r : GroupRef} (h : r ≠ q) (w : W) (cause : Option StopCause) :
    Spares r w (w.stopGroup q cause) := by
  have stop := (spares_quorumEvent q r w 3).trans (spares_updGroup_ne h _ fun g => g.stoppedFor cause)
  unfold W.stopGroup
  dsimp only
  split
  · exact stop.trans (spares_updBlock ..)
  · exact stop

/-- A halt of a context spares a group that has stopped, where its slot has one pair (19 R434). -/
theorem spares_haltContext {r : GroupRef} {w : W} {g : Group} (one : (w.s.groups.map Prod.fst).Nodup)
    (hg : w.group r = some g) (stopped : g.st = .stopped) (chip ctx : Nat) : Spares r w (w.haltContext chip ctx) := by
  refine Spares.each (fun q hq w' => ?_) w
  have ne : r ≠ q := by
    rintro rfl
    exact AList.notMem_keysWhere one hg (by simp [stopped]) hq
  dsimp only
  split
  · exact .ite (spares_updGroup_ne ne _ _) (spares_stopGroup ne _ _)
  · exact .refl r w'

theorem spares_startDump {r : GroupRef} {w : W} {g : Group} (one : (w.s.groups.map Prod.fst).Nodup) (hg : w.group r = some g)
    (stopped : g.st = .stopped) (ctx entry code : Nat) : Spares r w (w.startDump r ctx entry code) := by
  unfold W.startDump
  dsimp only
  split
  · exact .refl r w
  · split
    · exact spares_updChip ..
    · exact (spares_updChip ..).trans (spares_haltContext (w := w.updProbe _ _ _) one hg stopped _ _)

/-! ## Taking an exception -/

/-- A change leaves g in slot r, whatever fault waits there, and spares the rest as `Spares` says. -/
structure Leaves (r : GroupRef) (g : Group) (w w' : W) : Prop where
  memory : w'.m = w.m
  missing : w'.s.missing = w.s.missing
  slots : w'.s.groups.map Prod.fst = w.s.groups.map Prod.fst
  group : ∃ x, w'.group r = some (g.withFault x)

theorem Leaves.refl {r : GroupRef} {w : W} {g : Group} (h : w.group r = some g) : Leaves r g w w := ⟨rfl, rfl, rfl, g.fault, h⟩

theorem Leaves.spared {r : GroupRef} {g : Group} {w w1 w2 : W} (a : Leaves r g w w1) (b : Spares r w1 w2) :
    Leaves r g w w2 where
  memory := b.memory.trans a.memory
  missing := b.missing.trans a.missing
  slots := b.slots.trans a.slots
  group := by
    obtain ⟨x, hx⟩ := a.group
    obtain ⟨y, hy⟩ := b.group _ hx
    exact ⟨y, hy⟩

/-- A change of the group itself that does not ask which fault waits. -/
theorem Leaves.updGroup {r : GroupRef} {g g' : Group} {w w' : W} (a : Leaves r g w w') {f : Group → Group}
    (hf : ∀ x, ∃ y, f (g.withFault x) = g'.withFault y) : Leaves r g' w (w'.updGroup r f) where
  memory := a.memory
  missing := a.missing
  slots := (W.slots_updGroup _ _ _).trans a.slots
  group := by
    obtain ⟨x, hx⟩ := a.group
    obtain ⟨y, hy⟩ := hf x
    exact ⟨y, by rw [W.group_updGroup, hx, Option.map_some, hy]⟩

theorem Leaves.stopGroup {r : GroupRef} {g : Group} {w w' : W} (a : Leaves r g w w') (cause : Option StopCause) :
    Leaves r (g.stoppedFor cause) w (w'.stopGroup r cause) := by
  have stop := (a.spared (spares_quorumEvent r r w' 3)).updGroup (f := fun g => g.stoppedFor cause)
    (g' := g.stoppedFor cause) fun x => ⟨x, rfl⟩
  unfold W.stopGroup
  dsimp only
  split
  · exact stop.spared (spares_updBlock ..)
  · exact stop

theorem Leaves.startDump {r : GroupRef} {g : Group} {w w' : W} (a : Leaves r g w w')
    (one : (w.s.groups.map Prod.fst).Nodup) (stopped : g.st = .stopped) (ctx entry code : Nat) :
    Leaves r g w (w'.startDump r ctx entry code) := by
  obtain ⟨x, hx⟩ := a.group
  exact a.spared (spares_startDump (a.slots ▸ one) hx stopped ctx entry code)

/-- The fragment that goes on at an address after an exception. -/
def Entry.movedTo (e : Entry) (pc : DWord) : Entry :=
  { e with pc := pc, wait := none, stall := none, linkWait := false, refill := none }

/-- The group in its handler (05 R112). -/
def Group.entered (g : Group) (f : FaultInfo) (e : Entry) (handler : Nat) : Group :=
  { ((g.trapped f e f.tpc).updEntry f.entry fun e =>
      { e.movedTo (BitVec.ofNat 64 handler) with mode := modeReset, pending := none }) with handler := some f.entry }

/-- The group that an exception stops (05 R112). -/
def Group.faulted (g : Group) (f : FaultInfo) (e : Entry) : Group :=
  ((g.trapped f e f.tpc).updEntry f.entry fun e => e.movedTo f.tpc).stoppedFor (some .fault)

/-- What an exception leaves of the group that takes it, no late fault and no region before it (05 R110 to R112). -/
def Group.took (g : Group) (f : FaultInfo) (e : Entry) (handler : Nat) : Group :=
  if handler ≠ 0 ∧ g.handler = none then g.entered f e handler else g.faulted f e

/-- Taking an exception with no late fault and no region in the way. -/
theorem deliver_took {w : W} {r : GroupRef} {g : Group} {f : FaultInfo} {e : Entry} (one : (w.s.groups.map Prod.fst).Nodup)
    (hg : w.group r = some g) (hf : g.fault = some f) (late : g.late = none) (plain : g.region = none)
    (he : AList.get? g.entries f.entry = some e) : Leaves r (g.took f e (w.contextOf r g).handler) w (w.deliver r) := by
  have discard : ∀ out cause foff, w.discardRegion r out cause foff = w := by simp [W.discardRegion, hg, plain]
  have trap : Leaves r (g.trapped f e f.tpc) w (w.updGroup r fun g => g.trapped f e f.tpc) :=
    (Leaves.refl hg).updGroup fun _ => ⟨_, rfl⟩
  unfold W.deliver
  simp only [hg, hf, late, plain, discard, he, Option.isSome_none, Bool.false_eq_true, if_false]
  unfold Group.took
  split
  · exact (trap.spared (spares_quorumEvent ..)).updGroup fun x => ⟨x, rfl⟩
  · have moved : Leaves r _ w ((w.updGroup r fun g => g.trapped f e f.tpc).updEntry r f.entry fun e => e.movedTo f.tpc) :=
      trap.updGroup (g' := (g.trapped f e f.tpc).updEntry f.entry fun e => e.movedTo f.tpc) fun x => ⟨x, rfl⟩
    exact ((moved.stopGroup (some .fault)).spared (spares_event ..)).startDump one rfl _ _ _

/-- A fault raised with nothing in its way is taken at once (05 R110). -/
theorem raise_took {w : W} {r : GroupRef} {g : Group} {f : FaultInfo} {e : Entry} (one : (w.s.groups.map Prod.fst).Nodup)
    (hg : w.group r = some g) (staying : (w.contextOf r g).st ≠ .draining) (settled : g.outstanding = false)
    (late : g.late = none) (plain : g.region = none) (he : AList.get? g.entries f.entry = some e) :
    Leaves r (g.took f e (w.contextOf r g).handler) w (w.raise r f) := by
  let w1 := w.updGroup r fun g => { g with fault := some f }
  have hg1 : w1.group r = some { g with fault := some f } := by simp [w1, hg]
  have took := deliver_took (w := w1) (by rw [W.slots_updGroup]; exact one) hg1 rfl late plain he
  unfold W.raise
  simp only [hg, staying, settled, if_false, Bool.false_eq_true]
  exact ⟨took.memory, took.missing, took.slots.trans (W.slots_updGroup _ _ _), took.group⟩

/-! ## A word that faults -/

/-- Each slot has one pair in the group table, as it has in every table that the named operations make. -/
def OneGroupASlot (s : State) : Prop := (s.groups.map Prod.fst).Nodup

theorem regsBut_of {a : At} {g : Group} (v : g.v = a.g.v) (s : g.s = a.g.s) (p : g.p = a.g.p) : RegsBut a g [] [] [] where
  v n _ := by simp only [Group.vget, v]
  s n _ := by simp only [Group.sget, s]
  p n _ := by simp only [Group.pget, p]

/-- The fragments of the group that takes an exception, one of them changed. -/
theorem trapped_entries {a : At} {f : FaultInfo} (he : AList.get? a.g.entries a.ei = some a.e) (hf : f.entry = a.ei)
    (m : Entry → Entry) :
    AList.get? ((a.g.trapped f a.e f.tpc).updEntry f.entry m).entries a.ei = some (m a.e) ∧
    ∀ j, j ≠ a.ei → AList.get? ((a.g.trapped f a.e f.tpc).updEntry f.entry m).entries j = AList.get? a.g.entries j := by
  rw [hf, Group.updEntry_entry]
  exact ⟨congrArg (Option.map m) he, fun _ hj => Group.updEntry_entry_ne (a.g.trapped f a.e f.tpc) m hj⟩

/-- What the entry of a handler leaves of the group. -/
theorem entered_keeps (g : Group) (f : FaultInfo) (e : Entry) (handler : Nat) (x : Option FaultInfo) :
    let g' := (g.entered f e handler).withFault x
    specials g' = specials g ∧ g'.v = g.v ∧ g'.s = g.s ∧ g'.p = g.p ∧ g'.st = g.st := by
  cases g
  exact ⟨rfl, rfl, rfl, rfl, rfl⟩

/-- What a stop by a fault leaves of the group. -/
theorem faulted_keeps (g : Group) (f : FaultInfo) (e : Entry) (x : Option FaultInfo) :
    let g' := (g.faulted f e).withFault x
    specials g' = specials g ∧ g'.v = g.v ∧ g'.s = g.s ∧ g'.p = g.p ∧ g'.handler = g.handler := by
  cases g
  exact ⟨rfl, rfl, rfl, rfl, rfl⟩

theorem taken_enters {s t : State} {a : At} {f : FaultInfo} {x : Option FaultInfo}
    (he : AList.get? a.g.entries a.ei = some a.e) (hf : f.entry = a.ei) (memory : ∀ c, readCell t.mem c = readCell s.mem c)
    (enters : handlerOf s a ≠ 0 ∧ a.g.handler = none)
    (hg : AList.get? t.groups a.r = some ((a.g.entered f a.e (handlerOf s a)).withFault x)) :
    ∃ g e, Taken s t a f.code f.detail f.tval f.tpc g e := by
  obtain ⟨entry, others⟩ := trapped_entries he hf fun e =>
    { e.movedTo (BitVec.ofNat 64 (handlerOf s a)) with mode := modeReset, pending := none }
  obtain ⟨special, v, sc, p, st⟩ := entered_keeps a.g f a.e (handlerOf s a) x
  exact ⟨_, _,
    { group := hg, entry := entry, cause := rfl, address := rfl, lanes := rfl, value := rfl, mode := rfl, fmt := rfl
      special := special, regs := regsBut_of v sc p, others := others, kept := rfl, memory := memory
      enters := fun _ _ => ⟨congrArg some hf, rfl, rfl, rfl, st⟩
      stops := fun no => no.elim (absurd · enters.1) (absurd enters.2 ·) }⟩

theorem taken_stops {s t : State} {a : At} {f : FaultInfo} {x : Option FaultInfo}
    (he : AList.get? a.g.entries a.ei = some a.e) (hf : f.entry = a.ei) (memory : ∀ c, readCell t.mem c = readCell s.mem c)
    (enters : ¬ (handlerOf s a ≠ 0 ∧ a.g.handler = none))
    (hg : AList.get? t.groups a.r = some ((a.g.faulted f a.e).withFault x)) :
    ∃ g e, Taken s t a f.code f.detail f.tval f.tpc g e := by
  obtain ⟨entry, others⟩ := trapped_entries he hf fun e => e.movedTo f.tpc
  obtain ⟨special, v, sc, p, handler⟩ := faulted_keeps a.g f a.e x
  exact ⟨_, _,
    { group := hg, entry := entry, cause := rfl, address := rfl, lanes := rfl, value := rfl, mode := rfl, fmt := rfl
      special := special, regs := regsBut_of v sc p, others := others, kept := rfl, memory := memory
      enters := fun h1 h2 => absurd ⟨h1, h2⟩ enters
      stops := fun _ => ⟨handler, rfl, rfl, rfl⟩ }⟩

/-- An exception that the group takes is taken as 05 R110 to R112 say. -/
theorem taken_of_leaves {s : State} {a : At} {h : s.memWf} {f : FaultInfo} {w : W} (he : AList.get? a.g.entries a.ei = some a.e)
    (hf : f.entry = a.ei) (took : Leaves a.r (a.g.took f a.e (handlerOf s a)) (s.toW h) w) :
    ∃ g e, Taken s w.toState a f.code f.detail f.tval f.tpc g e := by
  obtain ⟨x, hg⟩ := took.group
  have memory : ∀ c, readCell w.toState.mem c = readCell s.mem c := fun _ => by
    rw [W.toState_mem, took.memory, State.toW_m]
  by_cases enters : handlerOf s a ≠ 0 ∧ a.g.handler = none
  · rw [Group.took, if_pos enters] at hg
    exact taken_enters he hf memory enters hg
  · rw [Group.took, if_neg enters] at hg
    exact taken_stops he hf memory enters hg

/-- A word whose checks fail raises the first fault of 03 R62, which is taken at once where nothing delays it. -/
theorem issue_faults {x : Issue} {s : State} {a : At} {f : Flt} (here : Here s a) (calm : Calm s a) (one : OneGroupASlot s)
    (hf : firstFault x a = some f) :
    ∃ t g e, issue x s = .next t ∧ Taken s t a f.code f.detail f.tval a.e.pc g e := by
  obtain ⟨hg, he⟩ := issuing_eq here.here
  let info : FaultInfo := { code := f.code, detail := f.detail, tval := f.tval, tpc := a.e.pc, entry := a.ei }
  have took := raise_took (w := s.toW here.wf) (f := info) one hg calm.staying calm.settled calm.late calm.plain he
  have raised : attempt x a (s.toW here.wf) = (s.toW here.wf).raise a.r info := by
    simp only [attempt, hits_eq_nil here.wf here.unwatched, hf, List.find?_nil]
    rfl
  obtain ⟨g, e, taken⟩ := taken_of_leaves he rfl took
  refine ⟨_, g, e, ?_, taken⟩
  simp only [issue, here.here]
  rw [lift_next_of _ s here.wf (by rw [raised, took.missing]; exact here.whole), raised]

end Sys2Proof.Machine
end

section
/-! SUPPORT. The VI words of 03 R67: what each code decodes to and what each word does. -/
namespace Sys2Proof.Machine
open Sys2Proof.Statement

/-! ## The words -/

/-- The word of a VI function (03 R67). -/
def immediateBits (k : Bool) (d a : BitVec 7) (i : BitVec 10) (code : BitVec 3) : Nat :=
  (if k then 2 ^ 31 else 0) + 3 * 2 ^ 27 + code.toNat * 2 ^ 24 + d.toNat * 2 ^ 17 + a.toNat * 2 ^ 10 + i.toNat

/-- The fields of a VI word are the class, the function code, the switch marker and the operands it was made of. -/
theorem immediateBits_fields (k : Bool) (d a : BitVec 7) (i : BitVec 10) (code : BitVec 3) :
    immediateBits k d a i code / 2 ^ 27 % 2 ^ 4 = 3 ∧ immediateBits k d a i code / 2 ^ 24 % 2 ^ 3 = code.toNat ∧
    wordK (immediateBits k d a i code) = k ∧ wordField (immediateBits k d a i code) 17 7 = d ∧
    wordField (immediateBits k d a i code) 10 7 = a ∧ wordField (immediateBits k d a i code) 0 10 = i := by
  have hd := d.isLt
  have ha := a.isLt
  have hi := i.isLt
  have hc := code.isLt
  have marker : (if k then 2 ^ 31 else 0 : Nat) = k.toNat * 2 ^ 31 := by cases k <;> rfl
  have hk : k.toNat < 2 := k.toNat_lt
  simp only [immediateBits, marker]
  refine ⟨by omega, by omega, ?_, ?_, ?_, ?_⟩
  · have : ((k.toNat * 2 ^ 31 + 3 * 2 ^ 27 + code.toNat * 2 ^ 24 + d.toNat * 2 ^ 17 + a.toNat * 2 ^ 10 + i.toNat) / 2 ^ 31) % 2 =
        k.toNat := by omega
    rw [wordK, this]
    cases k <;> rfl
  all_goals
    apply BitVec.eq_of_toNat_eq
    simp only [wordField, BitVec.toNat_ofNat]
    omega

/-- The shift amount of a VI word is its immediate's six low bits, and the four above them are zero where the immediate is
below 64 (03 R61, R67). -/
theorem immediateBits_shift (k : Bool) (d a : BitVec 7) (i : BitVec 10) (code : BitVec 3) :
    wordField (immediateBits k d a i code) 0 6 = i.setWidth 6 ∧
    (i.toNat < 64 → zeroField (immediateBits k d a i code) 6 4 = true) := by
  constructor
  · apply BitVec.eq_of_toNat_eq
    simp only [wordField, BitVec.toNat_ofNat, immediateBits, BitVec.toNat_setWidth]
    split <;> omega
  · intro hi
    simp only [zeroField, immediateBits, beq_iff_eq]
    split <;> omega

/-- A word of class 3 is what the VI class decodes it to, where that is well formed (03 R58, R59). -/
theorem decodeWord_of_decodeVI {w : Nat} {i : Instr} (hclass : w / 2 ^ 27 % 2 ^ 4 = 3) (hi : decodeVI w = .ok i)
    (formed : rejectOf i = none) : decodeWord w = .ok i := by
  simp only [decodeWord, decodeClass, hclass, hi, formed]

/-- Each code of the VI class decodes to its function, with every operand (03 R67). -/
theorem decodeWord_immediateBits (k : Bool) (d a : BitVec 7) (i : BitVec 10) (code : BitVec 3)
    (amount : 5 ≤ code.toNat → i.toNat < 64) :
    decodeWord (immediateBits k d a i code) = .ok (immediateWord k d a i code) := by
  obtain ⟨hclass, hcode, hk, hd, ha, hi⟩ := immediateBits_fields k d a i code
  obtain ⟨hs, hz⟩ := immediateBits_shift k d a i code
  have hlt := code.isLt
  refine decodeWord_of_decodeVI hclass ?_ ?_
  · unfold decodeVI immediateWord
    rw [hcode, hk, hd, ha, hi, hs]
    generalize code.toNat = c at *
    match c, hlt, amount with
    | 0, _, _ | 1, _, _ | 2, _, _ | 3, _, _ | 4, _, _ => rfl
    | 5, _, amount | 6, _, amount | 7, _, amount => rw [hz (amount (by decide))]; rfl
  · unfold immediateWord
    split <;> rfl

/-! ## What they do -/

/-- A vector and a sign-extended immediate fit their row of 09 R219 on an integer type. -/
theorem fits_viOp {j : Instr} {k : Bool} {nk : NumKey} {d a : BitVec 7} {i : BitVec 10}
    {f : EType → NumMode → Nat → Nat → LaneRes} {sym : At → Region → Nat → Option Tag} {x : At}
    (typed : x.etype.isSome = true) (integer : isInteger x.ty = true) (even : (withImm x k d a i f).even = true) :
    Fits (viOp j k nk d.toNat a.toNat i.toNat f sym) x (withImm x k d a i f) :=
  (fits_vecOp (Bool.and_eq_true_iff.2 ⟨typed, integer⟩) even rfl).withKey _

/-- A shift by an immediate fits its row of 09 R219 on an integer type. -/
theorem fits_viShiftOp {j : Instr} {k : Bool} {d a : BitVec 7} {i : BitVec 6} {f : EType → Nat → Nat → LaneRes} {x : At}
    (typed : x.etype.isSome = true) (integer : isInteger x.ty = true) (even : (shiftImm x k d a i f).even = true) :
    Fits (viShiftOp j k d.toNat a.toNat i.toNat f) x (shiftImm x k d a i f) :=
  (fits_vecOp (Bool.and_eq_true_iff.2 ⟨typed, integer⟩) even rfl).withKey _

/-- The operation o on registers is the VI word j: it is of fixed latency, it checks for an integer type and the operands va
and vd, and on an integer type it fits the word's row. -/
structure IsImmediate (o : RegOp) (j : Instr) (k : Bool) (d a : BitVec 7) : Prop where
  runs : ∀ s, exec j s = issueReg o s
  i : o.i = j
  k : o.k = k
  late : o.late = false
  chk : o.chk = vecChk isInteger [a.toNat] [d.toNat] []
  fits : ∀ x z, vectorWord x j = some z → x.etype.isSome = true → isInteger x.ty = true → z.even = true → Fits o x z

/-- Every VI word is such an operation. -/
theorem immediateWord_op (k : Bool) (d a : BitVec 7) (i : BitVec 10) (code : BitVec 3) :
    ∃ o, IsImmediate o (immediateWord k d a i code) k d a := by
  unfold immediateWord
  split
  case h_1 | h_2 | h_3 | h_4 | h_5 =>
    exact ⟨_, fun _ => rfl, rfl, rfl, rfl, rfl, fun _ _ row typed integer even => by
      cases row; exact fits_viOp typed integer even⟩
  case h_6 | h_7 | h_8 =>
    exact ⟨_, fun _ => rfl, rfl, rfl, rfl, rfl, fun _ _ row typed integer even => by
      cases row; exact fits_viShiftOp typed integer even⟩

/-- A VI word completes on an integer type: its result is written at once, and nothing is outstanding for it (03 R67; 09 R219). -/
theorem immediateWord_completes {k : Bool} {d a : BitVec 7} {i : BitVec 10} {code : BitVec 3} {s : State} {x : At}
    {z : VectorWord} (row : vectorWord x (immediateWord k d a i code) = some z) (integer : isInteger x.ty = true)
    (typed : x.etype.isSome = true) (even : z.even = true)
    (f : Free s x (immediateWord k d a i code) k { vr := z.reads, vw := z.dests, sr := z.scalars })
    (room : HasRoom x (writing z.lanes z.dests)) :
    ∃ t g e, exec (immediateWord k d a i code) s = .next t ∧ Kept t x g e ∧ e.pc = x.e.pc + 4 ∧ Holds g.vget x z ∧
      g.ops = x.g.ops := by
  obtain ⟨o, op⟩ := immediateWord_op k d a i code
  have fit := op.fits x z row typed integer even
  obtain ⟨t, g, e, next, kept, pc, -, -, holds, -, ops⟩ :=
    vector_next (s := s) op.late fit (by rw [op.i, ← fit.k, op.k]; exact f) room
  exact ⟨t, g, e, (op.runs s).trans next, kept, pc, holds, ops⟩

theorem isInteger_of_is64 {t : EType} : is64 t = true → isInteger t = true := by
  cases t <;> decide

/-- On a float type the checks of 09 R207 find the operands' registers, none of them a pair, and no integer type. -/
theorem vecChk_float {x : At} (typed : x.etype.isSome = true) (float : isInteger x.ty = false) (a d : Nat) :
    vecChk isInteger [a] [d] [] x = { use := { vr := [a], vw := [d] }, typ := true } := by
  obtain ⟨t, ht⟩ := Option.isSome_iff_exists.1 typed
  have hty : x.ty = t := by simp [At.ty, ht]
  rw [hty] at float
  have single : is64 t = false := Bool.eq_false_iff.2 fun h => Bool.eq_false_iff.1 float (isInteger_of_is64 h)
  simp [vecChk, ht, float, single, regsOf]

/-- A VI word on a float type raises TYPE, where each slot has one pair in the group table (03 R62, R67). -/
theorem immediateWord_raises_type {k : Bool} {d a : BitVec 7} {i : BitVec 10} {code : BitVec 3} {s : State} {x : At}
    (typed : x.etype.isSome = true) (float : isInteger x.ty = false)
    (f : Free s x (immediateWord k d a i code) k { vr := [a.toNat], vw := [d.toNat] }) (calm : Calm s x)
    (one : OneGroupASlot s) :
    ∃ t g e, exec (immediateWord k d a i code) s = .next t ∧ Taken s t x 0x19 0 none x.e.pc g e := by
  obtain ⟨o, op⟩ := immediateWord_op k d a i code
  have chk : o.word.chk x = { use := { vr := [a.toNat], vw := [d.toNat] }, typ := true } := by
    show o.chk x = _
    rw [op.chk, vecChk_float typed float]
  have formed : rejectOf o.word.i = none := by
    show rejectOf o.i = none
    rw [op.i, f.formed]
  obtain ⟨da, dd⟩ : a.toNat < x.g.vregs ∧ d.toNat < x.g.vregs := by simpa using f.declared
  have fault : firstFault o.word x = some { code := fcTYPE } := by
    simp [firstFault, chk, formed, Nat.not_le.2 da, Nat.not_le.2 dd]
  rw [op.runs]
  exact issue_faults f.toHere calm one fault

/-! ## A group table with two pairs for one slot -/

/-- Slot 0 of core 0 of chip 0. -/
def twiceSlot : GroupRef := { chip := 0, core := 0, slot := 0 }

/-- Its group: ACTIVE, with one fragment, on f32. -/
def twiceGroup : Group := { st := .active, entries := [(0, { pc := 0x10000, refill := some 0 })] }

/-- A state whose group table holds two pairs for that slot, in a context with DUMPEN set (19 R434). -/
def twiceInTable : State :=
  { groups := [(twiceSlot, twiceGroup), (twiceSlot, twiceGroup)], issuer := some ⟨twiceSlot, 0⟩
    chips := [(0, { probe := [(0, { cfg := 8 })] })] }

/-- The fragment that issues there. -/
def twiceAt : At := { r := twiceSlot, ei := 0, g := twiceGroup, e := { pc := 0x10000, refill := some 0 } }

/-- Why the group that reads under the slot has stopped. -/
def stopCauseIn (o : Host.Outcome State Fault Refusal) : Option StopCause :=
  match o with
  | .next t => (AList.get? t.groups twiceSlot).bind Group.stopCause
  | _ => none

theorem twiceAt_free : Free twiceInTable twiceAt (immediateWord false 1 2 3 0) false { vr := [2], vw := [1] } where
  wf := by decide
  whole := rfl
  here := rfl
  unwatched := .inr nofun
  formed := rfl
  declared := by decide
  calm := nofun
  atHand := Nat.le_refl 0
  early := nofun

theorem twiceAt_calm : Calm twiceInTable twiceAt := ⟨rfl, rfl, rfl, by decide⟩

/-- The fault stops the first pair's group; the dump that it starts finds the second pair, still ACTIVE, and halts the slot's
group again. -/
theorem twiceInTable_halts : stopCauseIn (exec (immediateWord false 1 2 3 0) twiceInTable) = some .dumpHalt := by
  decide +kernel

/-- Refutes O20, in its last clause alone. Each code decodes to its function (`decodeWord_immediateBits`), each word completes on
an integer type (`immediateWord_completes`), and a float type raises TYPE wherever each slot has one pair in the group table
(`immediateWord_raises_type`). But the statement speaks of every state, so of one whose group table holds two pairs for the slot
that issues: there `vaddi v1, v2, 3` on f32 with DUMPEN set leaves the group stopped by the halt of the dump, not by the fault. -/
theorem not_immediateCodes : ¬ Obligations.ImmediateCodes := by
  intro h
  obtain ⟨-, -, raises⟩ := h false 1 2 3 0 (by decide)
  obtain ⟨t, g, e, next, taken⟩ := raises twiceInTable twiceAt (by decide) (by decide) twiceAt_free twiceAt_calm
  obtain ⟨-, -, -, byFault⟩ := taken.stops (.inl rfl)
  have byDump := twiceInTable_halts
  rw [next, stopCauseIn, show AList.get? t.groups twiceSlot = some g from taken.group, Option.bind_some, byFault] at byDump
  cases byDump

end Sys2Proof.Machine
end

section
/-! SUPPORT. The command BIND (05 R104 to R107): what the audit record of a command leaves as it was, the bytes of a format
version's range, and the two ways in which BIND of a BUILDING slot ends. -/
namespace Sys2Proof.Machine
open Sys2Proof.Statement

/-! ## What a record leaves as it was -/

/-- A change leaves the context slots as they are, takes back no output and meets no absent frame. -/
structure KeepsContexts (w w' : W) : Prop where
  contexts : w'.s.contexts = w.s.contexts
  missing : w'.s.missing = w.s.missing
  outputs : w.s.outputs ⊆ w'.s.outputs

theorem KeepsContexts.refl (w : W) : KeepsContexts w w := ⟨rfl, rfl, List.Subset.refl _⟩

theorem KeepsContexts.trans {w1 w2 w3 : W} (a : KeepsContexts w1 w2) (b : KeepsContexts w2 w3) : KeepsContexts w1 w3 where
  contexts := b.contexts.trans a.contexts
  missing := b.missing.trans a.missing
  outputs := List.Subset.trans a.outputs b.outputs

theorem KeepsContexts.ite {w w1 w2 : W} {c : Prop} [Decidable c] (a : KeepsContexts w w1) (b : KeepsContexts w w2) :
    KeepsContexts w (if c then w1 else w2) := by
  split
  · exact a
  · exact b

theorem KeepsContexts.each {α : Type} {f : W → α → W} (h : ∀ w x, KeepsContexts w (f w x)) (w : W) (xs : List α) :
    KeepsContexts w (w.each xs f) := by
  induction xs generalizing w with
  | nil => exact .refl w
  | cons x xs ih => exact (h w x).trans (ih (f w x))

theorem keepsContexts_updChip (w : W) (c : Nat) (f : Chip → Chip) : KeepsContexts w (w.updChip c f) :=
  ⟨rfl, rfl, List.Subset.refl _⟩

theorem keepsContexts_out (w : W) (o : Output) : KeepsContexts w (w.out o) := ⟨rfl, rfl, List.subset_cons_self _ _⟩

theorem keepsContexts_event (w : W) (chip code ctx status : Nat) (payload : List Byte) :
    KeepsContexts w (w.event chip code ctx status payload) :=
  .ite (keepsContexts_updChip ..) ((keepsContexts_updChip ..).trans (keepsContexts_out ..))

/-- The poison marks that a write clears are reported by events alone (14 R325). -/
theorem keepsContexts_cleanPoison (w : W) (cells : List Nat) : KeepsContexts w (w.cleanPoison cells) := by
  have marks : ∀ left, KeepsContexts w { w with s := { w.s with poison := left } } := fun _ => ⟨rfl, rfl, List.Subset.refl _⟩
  exact .ite (.refl w) (.ite (marks _) ((marks _).trans (.each (fun w k =>
    .ite (keepsContexts_event ..) (.ite (keepsContexts_event ..) (.refl w))) _ _)))

theorem keepsContexts_writeCells (w : W) (bs : List (Nat × Byte)) : KeepsContexts w (w.writeCells bs) := by
  obtain ⟨contexts, missing, outputs⟩ := keepsContexts_cleanPoison w (bs.map Prod.fst)
  exact ⟨contexts, missing, outputs⟩

theorem keepsContexts_audit (w : W) (chip kind ctx : Nat) (payload : List Byte) :
    KeepsContexts w (w.audit chip kind ctx payload) := by
  have appended := fun bs f => (keepsContexts_writeCells w bs).trans (keepsContexts_updChip _ chip f)
  exact .ite ((appended _ _).trans (keepsContexts_event ..)) (appended _ _)

theorem keepsContexts_draw (w : W) : KeepsContexts w w.draw.2 := ⟨rfl, rfl, List.Subset.refl _⟩

theorem keepsContexts_freeBytes (w : W) (n : Nat) : KeepsContexts w (w.freeBytes n).1 := by
  induction n generalizing w with
  | zero => exact .refl w
  | succ n ih => exact (keepsContexts_draw w).trans (ih w.draw.2)

theorem keepsContexts_auditCommand (w : W) (pkg kind slot : Nat) : KeepsContexts w (w.auditCommand pkg kind slot) :=
  ((keepsContexts_draw w).trans (keepsContexts_freeBytes _ 32)).trans
    (KeepsContexts.each (fun w c => keepsContexts_audit w c kind slot _) _ _)

/-! ## BIND -/

/-- BIND reads its descriptor: the package is ready, the slot is BUILDING, no audit record waits, and there is memory at the
address (05 R104, R107; 20 R443, R447). -/
structure ReadsDescriptor (s : State) (h : s.memWf) (pkg slot addr : Nat) : Prop where
  whole : s.missing = false
  ready : (machine s h).packageReady pkg = true
  inRange : slot < 64
  room : (machine s h).auditStalls pkg = false
  building : (slotAt s pkg slot).st = .building
  there : anyCell pkg addr ≠ none

/-- A slot that BIND refuses: FREE again, with the status as the answer (05 R105, R106). -/
def W.refuseBind (w : W) (pkg slot : Nat) (x : CmdStatus) : W :=
  (w.updContext pkg slot fun c => { c with st := .free }).answer pkg slot x

/-- The context that BIND makes of a descriptor and of the slot as it was (05 R104, R105). -/
def boundTo (d c : Context) : Context := { d with st := .bound, versions := (1, 1, 1), binds := (c.binds + 1) % 1024 }

/-- A slot that BIND binds, with its answer and its audit record (05 R105, R107). -/
def W.acceptBind (w : W) (pkg slot : Nat) (d : Context) : W :=
  let w1 := (w.updContext pkg slot (boundTo d)).each (chipsOf pkg) fun w c =>
    w.updChip c fun h => { h with probe := AList.del h.probe slot }
  (w1.answer pkg slot .ok).auditCommand pkg 2 slot

/-- Two operations that agree on what a state holds lift to the same outcome from it. -/
theorem lift_congr {f g : W → W} {s : State} (h : s.memWf) (agree : f (s.toW h) = g (s.toW h)) : lift f s = lift g s := by
  rw [lift_eq f s h, lift_eq g s h, agree]

/-- BIND of a BUILDING slot accepts its descriptor or refuses it, as the status of the first failing check says. -/
theorem exec_bind {s : State} {h : s.memWf} {pkg slot addr : Nat} (b : ReadsDescriptor s h pkg slot addr) :
    exec (.bind pkg slot addr) s = lift (fun w => if bindStatus w pkg addr = .ok
      then w.acceptBind pkg slot (contextOfDesc (w.physRead pkg addr 128))
      else w.refuseBind pkg slot (bindStatus w pkg addr)) s := by
  obtain ⟨-, ready, inRange, room, building, there⟩ := b
  replace building : ((s.toW h).context pkg slot).st = .building := building
  have taken : (!(s.toW h).packageReady pkg || decide (64 ≤ slot) || (s.toW h).auditStalls pkg) = false := by
    simp [show (s.toW h).packageReady pkg = true from ready, Nat.not_le.2 inRange,
      show (s.toW h).auditStalls pkg = false from room]
  have found : (anyCell pkg addr).isNone = false := Option.isNone_eq_false_iff.2 (Option.isSome_iff_ne_none.2 there)
  show execBind pkg slot addr s = _
  refine lift_congr h ?_
  simp only [taken, building, found, bindStatus, Bool.false_eq_true, if_false, ne_eq, not_true]
  split
  · rfl
  · split
    · rfl
    · split <;> rfl

/-- A descriptor that fails a check leaves the slot FREE, and the answer names the check (05 R105 to R107). -/
theorem exec_bind_refused {s : State} {h : s.memWf} {pkg slot addr : Nat} (b : ReadsDescriptor s h pkg slot addr)
    {x : CmdStatus} (status : bindStatus (machine s h) pkg addr = x) (fails : x ≠ .ok) :
    exec (.bind pkg slot addr) s = .next (answered s pkg slot { slotAt s pkg slot with st := .free } x) := by
  have refused : bindStatus (s.toW h) pkg addr = x := status
  rw [exec_bind b, lift_next_of _ s h] <;> simp only [refused, if_neg fails]
  · simp only [W.refuseBind, W.answer, if_neg fails, answered]
    rfl
  · exact b.whole

/-- A descriptor that passes every check leaves the slot BOUND as it describes, with version 1 of each format, and the answer
reports the versions (05 R104 to R107). -/
theorem exec_bind_accepted {s : State} {h : s.memWf} {pkg slot addr : Nat} (b : ReadsDescriptor s h pkg slot addr)
    (status : bindStatus (machine s h) pkg addr = .ok) :
    ∃ t, exec (.bind pkg slot addr) s = .next t ∧
      slotAt t pkg slot = boundTo (contextOfDesc ((machine s h).physRead pkg addr 128)) (slotAt s pkg slot) ∧
      .command pkg slot .ok (1, 1, 1) ∈ t.outputs := by
  let d := contextOfDesc ((machine s h).physRead pkg addr 128)
  let w1 := (machine s h).updContext pkg slot (boundTo d)
  let w2 := w1.each (chipsOf pkg) fun w c => w.updChip c fun h => { h with probe := AList.del h.probe slot }
  have probes : KeepsContexts w1 w2 := .each (fun w c => keepsContexts_updChip ..) _ _
  have record := keepsContexts_auditCommand (w2.answer pkg slot .ok) pkg 2 slot
  have bound : AList.getD w2.s.contexts (pkg, slot) {} = boundTo d (slotAt s pkg slot) := by
    rw [probes.contexts]
    exact AList.getD_put_self ..
  refine ⟨((w2.answer pkg slot .ok).auditCommand pkg 2 slot).toState, ?_, ?_, record.outputs ?_⟩
  · rw [exec_bind b, lift_next_of _ s h] <;> simp only [show bindStatus (s.toW h) pkg addr = .ok from status, if_true]
    · rfl
    · exact (record.missing.trans probes.missing).trans b.whole
  · rw [slotAt, W.toState_toSys, record.contexts]
    exact bound
  · simp [W.answer, W.context, bound, boundTo]

/-! ## The versions -/

/-- The two bytes of a descriptor's field, the low one first. -/
theorem descField_two (bs : List Byte) (o : Nat) :
    descField bs o 2 = (bs.getD o 0).toNat + 256 * (bs.getD (o + 1) 0).toNat := by
  have two : ∀ xs : List Byte, ofBytes (xs.take 2) = (xs.getD 0 0).toNat + 256 * (xs.getD 1 0).toNat
    | [] | [_] | _ :: _ :: _ => by simp [ofBytes]
  rw [descField, two]
  simp [List.getD_eq_getElem?_getD]

/-- The range of format versions at a place of a descriptor, its lowest byte first, holds version 1 (05 R105). -/
def HoldsOne (bs : List Byte) (o : Nat) : Prop := (bs.getD o 0).toNat ≤ 1 ∧ 1 ≤ (bs.getD (o + 1) 0).toNat

theorem versionOk_descField (bs : List Byte) (o : Nat) : versionOk (descField bs o 2) = true ↔ HoldsOne bs o := by
  have low := (bs.getD o 0).isLt
  have fst : ∀ a b : Nat, a < 256 → (a + 256 * b) % 256 = a := by omega
  have snd : ∀ a b : Nat, a < 256 → (a + 256 * b) / 256 = b := by omega
  rw [descField_two, versionOk, decide_eq_true_iff, fst _ _ low, snd _ _ low, HoldsOne]

/-- The check of the three ranges, of vlaunch, vsave and vtrace (05 R105). -/
theorem versionsOk_iff (bs : List Byte) :
    (versionOk (descField bs 0x58 2) && versionOk (descField bs 0x5A 2) && versionOk (descField bs 0x5C 2)) = true ↔
      HoldsOne bs 0x58 ∧ HoldsOne bs 0x5A ∧ HoldsOne bs 0x5C := by
  simp only [Bool.and_eq_true, versionOk_descField, and_assoc]

section
variable {w : W} {pkg addr : Nat} {bs : List Byte} (read : w.physRead pkg addr 128 = bs) (sound : descBad addr bs = false)
include read sound

/-- Of a descriptor that is not BADDESC, whose ranges hold version 1, only the resources are left to check (05 R106). -/
theorem bindStatus_ok (versions : HoldsOne bs 0x58 ∧ HoldsOne bs 0x5A ∧ HoldsOne bs 0x5C)
    (room : w.noResources pkg (contextOfDesc bs) = false) : bindStatus w pkg addr = .ok := by
  simp only [bindStatus, read, sound, (versionsOk_iff bs).2 versions, room, Bool.not_true, Bool.false_eq_true, if_false]

/-- Of a descriptor that is not BADDESC, a range without version 1 is the first check that fails (05 R105, R106). -/
theorem bindStatus_version (versions : ¬ (HoldsOne bs 0x58 ∧ HoldsOne bs 0x5A ∧ HoldsOne bs 0x5C)) :
    bindStatus w pkg addr = .version := by
  have fails := Bool.eq_false_iff.2 (mt (versionsOk_iff bs).1 versions)
  simp only [bindStatus, read, sound, fails, Bool.not_false, Bool.false_eq_true, if_false, if_true]

end

/-- Settles O18: of a descriptor that is not BADDESC, the ranges decide whether the status of BIND is VERSION, and a slot that BIND
accepts has version 1 of each format. -/
theorem formatVersions : Obligations.FormatVersions := by
  intro s pkg slot addr h whole ready inRange room building there bs holds sound
  have b : ReadsDescriptor s h pkg slot addr := ⟨whole, ready, inRange, room, building, there⟩
  constructor
  · intro versions resources
    obtain ⟨t, next, bound, reported⟩ := exec_bind_accepted b (bindStatus_ok rfl sound versions resources)
    exact ⟨t, next, congrArg Context.st bound, congrArg Context.versions bound, reported⟩
  · intro versions
    refine ⟨_, exec_bind_refused b (bindStatus_version rfl sound versions) nofun, ?_, rfl⟩
    simp only [slotAt, answered, AList.getD_put_self]

end Sys2Proof.Machine
end

section
/-! SUPPORT. The words of an atomic region's end: `aa` and `ac` outside a region refuse with REGION 11, and `aa` inside one
restores the checkpoint, acquires and goes on at the fallback (16 R372, R384, R385, R389). -/
namespace Sys2Proof.AList
variable {α β : Type} [DecidableEq α]

/-- A change that keeps the value under a key keeps the table. -/
theorem upd_same {t : AList α β} {k : α} {v : β} (hv : get? t k = some v) {f : β → β} (hf : f v = v) : upd t k f = t := by
  induction t with
  | nil => rfl
  | cons p r ih =>
    obtain ⟨a, b⟩ := p
    by_cases ha : a = k
    · simp_all [get?_cons, upd]
    · rw [get?_cons, if_neg ha] at hv
      simp [upd, ha, ih hv]

/-- Putting the value that a key has keeps the table. -/
theorem put_same {t : AList α β} {k : α} {v : β} (hv : get? t k = some v) : put t k v = t :=
  (upd_eq_put hv id).symm.trans (upd_same hv rfl)

/-- A key that no pair names has no value. -/
theorem get?_eq_none_of_notMem {t : AList α β} {k : α} (hk : k ∉ t.map Prod.fst) : get? t k = none := by
  induction t with
  | nil => rfl
  | cons p r ih =>
    obtain ⟨ha, hr⟩ := not_or.1 (mt List.mem_cons.2 hk)
    rw [get?_cons, if_neg (Ne.symm ha), ih hr]

end Sys2Proof.AList

namespace Sys2Proof.Machine
open Sys2Proof.Statement

/-! ## A word that its body refuses -/

/-- An attempt that raises a fault takes it at once where nothing delays it. -/
theorem issue_takes {x : Issue} {s : State} {a : At} {f : Flt} (here : Here s a) (calm : Calm s a) (one : OneGroupASlot s)
    (raised : attempt x a (s.toW here.wf) = (s.toW here.wf).raise a.r
      { code := f.code, detail := f.detail, tval := f.tval, tpc := a.e.pc, entry := a.ei }) :
    ∃ t g e, issue x s = .next t ∧ Taken s t a f.code f.detail f.tval a.e.pc g e := by
  obtain ⟨hg, he⟩ := issuing_eq here.here
  have took := raise_took (w := s.toW here.wf)
    (f := { code := f.code, detail := f.detail, tval := f.tval, tpc := a.e.pc, entry := a.ei })
    one hg calm.staying calm.settled calm.late calm.plain he
  rw [← raised] at took
  obtain ⟨g, e, taken⟩ := taken_of_leaves he rfl took
  refine ⟨_, g, e, ?_, taken⟩
  simp only [issue, here.here]
  exact lift_next_of _ s here.wf (took.missing.trans here.whole)

/-- The fragment a, changed since its attempt began, with its pending restore and its watching as they were then. -/
def At.uncounted (a : At) (e : Entry) : Entry := { e with pending := a.e.pending, unchecked := a.e.unchecked }

/-- A word that reads no vector register and does not issue leaves the machine as the attempt found it. -/
theorem uncount_started {x : Issue} {s : State} {a : At} (wf : s.memWf) (here : issuing s = some a)
    (reads : (x.chk a).use.vr = []) : ((s.toW wf).putGroup a.r (startedAs x a)).uncount a = s.toW wf := by
  obtain ⟨hg, he⟩ := issuing_eq here
  have entries : ((startedAs x a).updEntry a.ei a.uncounted).entries = a.g.entries :=
    (AList.upd_upd _ _ _ _).trans (AList.upd_same he rfl)
  have group : (startedAs x a).updEntry a.ei a.uncounted = a.g := by
    show { a.g with entries := ((startedAs x a).updEntry a.ei a.uncounted).entries
                    buffer := (x.chk a).use.vr.foldl (bufferRead a.g.opf) a.g.buffer } = a.g
    rw [entries, reads]
    rfl
  show ((s.toW wf).putGroup a.r (startedAs x a)).updEntry a.r a.ei a.uncounted = _
  rw [W.updEntry_putGroup, group]
  show W.mk { s.toSys with groups := AList.put s.groups a.r a.g } _ = _
  rw [AList.put_same hg]
  rfl

/-- A word without vector operands whose own check refuses it, every other check passing, raises the fault that the check
names. -/
theorem issue_refuses {x : Issue} {s : State} {a : At} {f : Flt} (here : Here s a) (calm : Calm s a) (one : OneGroupASlot s)
    (checks : firstFault x a = none) (reads : (x.chk a).use.vr = []) (ready : AtHand s a [])
    (refuses : ∀ w, x.body w a = .refuse w f) :
    ∃ t g e, issue x s = .next t ∧ Taken s t a f.code f.detail f.tval a.e.pc g e := by
  refine issue_takes here calm one ?_
  rw [attempt_eq (hits_eq_nil here.wf here.unwatched) checks (show AtHand s a _ from reads ▸ ready),
    started_eq x here.wf here.here, refuses]
  simp only [Did.refuse, uncount_started here.wf here.here reads]

/-! ## `ac` and `aa` outside a region -/

/-- The issue x is the word i with switch marker k, which ends a region: it has no operands, it counts toward no limit, and
outside a region it refuses with REGION 11 (16 R372, R373). -/
structure EndsRegion (x : Issue) (i : Instr) (k : Bool) : Prop where
  runs : ∀ s, exec i s = issue x s
  i : x.i = i
  k : x.k = k
  chk : ∀ a, x.chk a = {}
  use : ∀ a, x.region a = { counts := false }
  outside : ∀ w a, a.g.region = none → x.body w a = .refuse w { code := fcREGION, detail := 11 }

theorem exec_ac (k : Bool) : ∃ x, EndsRegion x (.ac k) k :=
  ⟨_, fun _ => rfl, rfl, rfl, fun _ => rfl, fun _ => rfl, fun w a plain => by simp [plain]⟩

theorem exec_aa (k : Bool) : ∃ x, EndsRegion x (.aa k) k ∧
    ∀ w a rg, a.g.region = some rg → x.body w a = .done (w.abortRegion a.r rg 1 0) none false :=
  ⟨_, ⟨fun _ => rfl, rfl, rfl, fun _ => rfl, fun _ => rfl, fun w a plain => by simp [plain]⟩,
    fun w a rg inside => by simp [inside]⟩

/-- The checks before the body pass where the word is free to issue and an open region has room for it. -/
theorem EndsRegion.checks {x : Issue} {i : Instr} {k : Bool} {s : State} {a : At} (ends : EndsRegion x i k)
    (f : Free s a i k {}) (room : HasRoom a { counts := false }) : firstFault x a = none :=
  firstFault_eq_none (ends.i ▸ f.formed) (by rw [ends.chk]) (by rw [ends.chk]; exact f.declared) (by rw [ends.chk])
    (by rw [ends.chk]) (by rw [ends.chk]) (by rw [ends.chk]; exact f.calm) (by rw [ends.use]; exact room)

/-- Outside a region `ac` and `aa` raise REGION with detail 11, where each slot has one pair in the group table (16 R372). -/
theorem regionEnd_raises_outside {s : State} {a : At} {k : Bool} {i : Instr} (word : i = .ac k ∨ i = .aa k)
    (f : Free s a i k {}) (calm : Calm s a) (one : OneGroupASlot s) :
    ∃ t g e, exec i s = .next t ∧ Taken s t a 0x13 11 none a.e.pc g e := by
  have known : ∃ x, EndsRegion x i k := by
    rcases word with rfl | rfl
    · exact exec_ac k
    · obtain ⟨x, ends, -⟩ := exec_aa k
      exact ⟨x, ends⟩
  obtain ⟨x, ends⟩ := known
  have room : HasRoom a { counts := false } := fun rg inside => by simp [calm.plain] at inside
  rw [ends.runs]
  exact issue_refuses f.toHere calm one (ends.checks f room) (by rw [ends.chk]) f.atHand
    fun w => ends.outside w a calm.plain

/-! ## The checkpoint -/

/-- The value of a vector register at a region's `ab`. -/
def Region.vAt (rg : Region) (n : Nat) : VReg := ((AList.get? rg.v n).map VMap.bits).getD 0

/-- The vector registers whose value is no longer that of a region's `ab`. -/
def Region.changed (rg : Region) (g : Group) : List Nat :=
  ((g.v ++ rg.v).map Prod.fst).eraseDups.filter fun n => rg.vAt n != g.vget n

/-- A register that has not changed holds its value at `ab`. -/
theorem Region.vget_of_notMem_changed {rg : Region} {g : Group} {n : Nat} (same : n ∉ rg.changed g) :
    g.vget n = rg.vAt n := by
  by_cases named : n ∈ (g.v ++ rg.v).map Prod.fst
  · by_cases kept : rg.vAt n = g.vget n
    · exact kept.symm
    · have differs : (rg.vAt n != g.vget n) = true := bne_iff_ne.2 kept
      exact absurd (List.mem_filter.2 ⟨List.mem_eraseDups.2 named, differs⟩) same
  · simp only [List.map_append, List.mem_append, not_or] at named
    obtain ⟨inGroup, inRegion⟩ := named
    simp only [Group.vget, Region.vAt, AList.get?_eq_none_of_notMem inGroup, AList.get?_eq_none_of_notMem inRegion]

/-- Register writes that give each listed register its value of a function. -/
theorem lastV_map (ns : List Nat) (f : Nat → VReg) (n : Nat) (old : VReg) :
    lastV (ns.map fun m => .v m (f m)) n old = if n ∈ ns then f n else old := by
  induction ns generalizing old with
  | nil => rfl
  | cons m ns ih =>
    show lastV (ns.map fun m => .v m (f m)) n (if m = n then f m else old) = _
    rw [ih]
    by_cases rest : n ∈ ns
    · simp [rest]
    · by_cases hm : m = n
      · simp [hm]
      · simp [rest, hm, Ne.symm hm]

/-- Writing back the changed vector registers gives every vector register its value at `ab`. -/
theorem setV_changed_only {w : W} {r : GroupRef} {g : Group} (hg : w.group r = some g) (rg : Region) :
    ∃ v s p, OnlyGroup w r (g.withRegs v s p) (w.each (rg.changed g) fun w n => w.setV r n (rg.vAt n)) ∧
      ∀ n, (g.withRegs v s p).vget n = rg.vAt n := by
  obtain ⟨_, only, ⟨v, s, p, rfl⟩, values, -, -⟩ :=
    writeRegs_only ((rg.changed g).map fun n => .v n (rg.vAt n)) hg
  rw [W.each, List.foldl_map] at only
  refine ⟨v, s, p, only, fun n => ?_⟩
  rw [values, lastV_map]
  split
  · rfl
  · next same => exact Region.vget_of_notMem_changed same

/-- The fragment of a restored region, at its address with its mode state (16 R385). -/
def Entry.restoredTo (e : Entry) (ms : ModeState) (pc : DWord) : Entry := { e.setModeState ms with pc := pc, wait := none }

/-- The restore of a checkpoint: of the machine it changes the group and cores' tables alone, and of the group the
checkpointed registers, the region, the fragment, and the V-class operations (16 R385). -/
theorem restoreRegion_only {w : W} {r : GroupRef} {g : Group} (hg : w.group r = some g) (rg : Region) (ms : ModeState)
    (pc : DWord) : ∃ g', OnlyGroup w r g' (w.restoreRegion r rg ms pc) ∧ AtCheckpoint g' rg ∧ g'.late = g.late ∧
      g'.rgn = g.rgn ∧ g'.entries = AList.upd g.entries rg.entry fun e => e.restoredTo ms pc := by
  obtain ⟨v, s, p, only, values⟩ := setV_changed_only hg rg
  simp only [W.restoreRegion, hg]
  exact ⟨_, only.put _, ⟨values, rfl, rfl, rfl, rfl⟩, rfl, rfl, rfl⟩

/-! ## The abort -/

/-- An acquire discards copies of lines that cores and the chip hold: memory and every group are as they were (14 R320). -/
theorem acquire_keeps (w : W) (r : GroupRef) (ctx scope : Nat) :
    (w.acquire r ctx scope).m = w.m ∧ (w.acquire r ctx scope).s.groups = w.s.groups ∧
      (w.acquire r ctx scope).s.missing = w.s.missing := by
  unfold W.acquire W.acquireLoads W.dropLoads
  dsimp only
  split <;> split <;> split <;> exact ⟨rfl, rfl, rfl⟩

/-- A group with another `%rgn`. -/
def Group.withRgn (g : Group) (v : DWord) : Group := { g with rgn := v }

@[simp] theorem Group.withRgn_rgn (g : Group) (v : DWord) : (g.withRgn v).rgn = v := rfl
@[simp] theorem Group.withRgn_late (g : Group) (v : DWord) : (g.withRgn v).late = g.late := rfl
@[simp] theorem Group.withRgn_entries (g : Group) (v : DWord) : (g.withRgn v).entries = g.entries := rfl
theorem Group.withRgn_atCheckpoint {g : Group} {rg : Region} (back : AtCheckpoint g rg) (v : DWord) :
    AtCheckpoint (g.withRgn v) rg := ⟨back.v, back.s, back.p, back.windows, back.region⟩

theorem abortRegion_eq {w : W} {r : GroupRef} {g : Group} {rg : Region}
    (hg : (w.restoreRegion r rg rg.after rg.fallback).group r = some g) (cause nchg : Nat) :
    w.abortRegion r rg cause nchg =
      ((w.restoreRegion r rg rg.after rg.fallback).acquire r g.ctx 5).updGroup r fun g =>
        g.withRgn (rgnOf 4 cause nchg (rgnRst g.rgn) 0) := by
  simp only [W.abortRegion, hg]
  rfl

/-- What an abort does: the checkpoint is back with the mode state after `ab`, the fragment is at the fallback, `%rgn` names
the outcome, and memory is as it was (16 R384, R385, R389). -/
theorem abortRegion_leaves {w : W} {r : GroupRef} {g : Group} (hg : w.group r = some g) (rg : Region) (cause nchg : Nat) :
    ∃ g', (w.abortRegion r rg cause nchg).group r = some g' ∧ AtCheckpoint g' rg ∧ g'.late = g.late ∧
      g'.entries = AList.upd g.entries rg.entry (fun e => e.restoredTo rg.after rg.fallback) ∧
      g'.rgn = rgnOf 4 cause nchg (rgnRst g.rgn) 0 ∧ (w.abortRegion r rg cause nchg).m = w.m ∧
      (w.abortRegion r rg cause nchg).s.missing = w.s.missing := by
  obtain ⟨g1, only, back, late, rgn, entries⟩ := restoreRegion_only hg rg rg.after rg.fallback
  obtain ⟨memory, groups, missing⟩ := acquire_keeps (w.restoreRegion r rg rg.after rg.fallback) r g1.ctx 5
  have acquired : ((w.restoreRegion r rg rg.after rg.fallback).acquire r g1.ctx 5).group r = some g1 := by
    rw [W.group, groups]
    exact only.group
  have restored : (w.restoreRegion r rg rg.after rg.fallback).m = w.m := by
    obtain ⟨cs, h⟩ := only
    rw [h]
    rfl
  rw [abortRegion_eq only.group]
  exact ⟨_, by rw [W.group_updGroup, acquired, Option.map_some], Group.withRgn_atCheckpoint back _,
    (Group.withRgn_late ..).trans late, (Group.withRgn_entries ..).trans entries, by rw [Group.withRgn_rgn, rgn],
    memory.trans restored, missing.trans only.missing⟩

/-- `%rgn` after an abort reads its outcome and its cause (16 R389). -/
theorem rgnOf_abort (cause : Nat) (small : cause < 256) (v : DWord) :
    rgnOut (rgnOf 4 cause 0 (rgnRst v) 0) = 4 ∧ fieldOf (rgnOf 4 cause 0 (rgnRst v) 0).toNat 8 8 = cause := by
  have bound : rgnRst v < 256 := Nat.mod_lt _ (by decide)
  generalize rgnRst v = rst at bound
  simp only [rgnOut, rgnOf, fieldOf, BitVec.toNat_ofNat]
  omega

/-! ## `aa` inside a region -/

/-- An issue leaves a group at its checkpoint there. -/
theorem endedAs_atCheckpoint {g : Group} {rg : Region} (back : AtCheckpoint g rg) (x : Issue) (a : At) (pc : Option DWord)
    (w : W) : AtCheckpoint (endedAs x a pc w g) rg := by
  have registers : (endedAs x a pc w g).s = g.s ∧ (endedAs x a pc w g).p = g.p ∧
      (endedAs x a pc w g).windows = g.windows := by
    unfold endedAs parkedAs
    split
    · split <;> exact ⟨rfl, rfl, rfl⟩
    · exact ⟨rfl, rfl, rfl⟩
  obtain ⟨s, p, windows⟩ := registers
  exact { v := fun n => (endedAs_vget ..).trans (back.v n), s := s.trans back.s, p := p.trans back.p
          windows := windows.trans back.windows, region := by rw [endedAs_region, back.region]; rfl }

/-- A restored fragment that an issue leaves where its body placed it. -/
theorem endedAs_restored {g : Group} {rg : Region} {a : At} {e : Entry} {ms : ModeState} {pc : DWord}
    (back : AtCheckpoint g rg) (own : rg.entry = a.ei) (he : AList.get? g.entries a.ei = some (e.restoredTo ms pc))
    (x : Issue) (w : W) : Restored (endedAs x a none w g) rg pc ms where
  toAtCheckpoint := endedAs_atCheckpoint back x a none w
  entry := by
    refine ⟨{ e.restoredTo ms pc with wait := none, stall := none, linkWait := false, refill := none }, ?_, rfl, rfl, rfl,
      rfl⟩
    rw [endedAs_entries, own]
    exact (Group.updEntry_entry ..).trans (congrArg (Option.map _) he)

/-- `aa` inside a region aborts it with cause 1, in every state (16 R372, R385). -/
theorem aa_aborts {s : State} {a : At} {k : Bool} {rg : Region} (inside : a.g.region = some rg) (own : rg.entry = a.ei)
    (room : HasRoom a { counts := false }) (f : Free s a (.aa k) k {}) :
    ∃ t g, exec (.aa k) s = .next t ∧ AList.get? t.groups a.r = some g ∧ Restored g rg rg.fallback rg.after ∧
      rgnOut g.rgn = 4 ∧ fieldOf g.rgn.toNat 8 8 = 1 ∧ ∀ m, readCell t.mem m = readCell s.mem m := by
  obtain ⟨x, ends, aborts⟩ := exec_aa k
  obtain ⟨-, he⟩ := issuing_eq f.here
  let w := (s.toW f.wf).putGroup a.r (startedAs x a)
  obtain ⟨g, hg, back, late, entries, rgn, memory, missing⟩ :=
    abortRegion_leaves (w := w) (W.group_putGroup _ _ _) rg 1 0
  obtain ⟨e, started⟩ : ∃ e, AList.get? (startedAs x a).entries a.ei = some e :=
    ⟨_, (Group.updEntry_entry ..).trans (congrArg (Option.map _) he)⟩
  have entry : AList.get? g.entries a.ei = some (e.restoredTo rg.after rg.fallback) := by
    rw [entries, own, AList.get?_upd_self, started, Option.map_some]
  have next := issue_done f.toHere (ends.checks f room) (by rw [ends.chk]; exact f.atHand) (aborts w a rg inside) hg
    (fun marker => late.trans (f.early (ends.k ▸ marker))) (missing.trans f.whole)
  have ended : (endedAs x a none (w.abortRegion a.r rg 1 0) g).rgn = rgnOf 4 1 0 (rgnRst a.g.rgn) 0 :=
    (congrArg (fun y => y.2.1) (endedAs_specials ..)).trans rgn
  obtain ⟨out, cause⟩ := rgnOf_abort 1 (by decide) a.g.rgn
  refine ⟨_, _, (ends.runs s).trans next, AList.get?_put_self _ _ _, endedAs_restored back own entry x _, ?_, ?_, fun m => ?_⟩
  · rw [ended, out]
  · rw [ended, cause]
  · rw [W.toState_mem, W.putGroup_m, W.account_m, memory, W.putGroup_m, State.toW_m]

/-! ## The statement -/

theorem twiceAt_free_aa : Free twiceInTable twiceAt (.aa false) false {} where
  toHere := twiceAt_free.toHere
  formed := rfl
  declared := by decide
  calm := nofun
  atHand := Nat.le_refl 0
  early := nofun

/-- REGION 11 stops the first pair's group; the dump that it starts finds the second pair, still ACTIVE, and halts the slot's
group again. -/
theorem twiceInTable_aa_halts : stopCauseIn (exec (.aa false) twiceInTable) = some .dumpHalt := by
  decide +kernel

/-- Refutes O17, in its first clause alone. Inside a region `aa` aborts as the statement says, in every state (`aa_aborts`), and
outside one `aa` and `ac` raise REGION 11 wherever each slot has one pair in the group table (`regionEnd_raises_outside`). But the
statement speaks of every state, so of one whose group table holds two pairs for the slot that issues: there `aa` with DUMPEN set
leaves the group stopped by the halt of the dump, not by the fault. -/
theorem not_regionEdges : ¬ Obligations.RegionEdges := by
  rintro ⟨outside, -⟩
  obtain ⟨t, g, e, next, taken⟩ := outside twiceInTable twiceAt false (.aa false) (.inr rfl) twiceAt_free_aa twiceAt_calm
  obtain ⟨-, -, -, byFault⟩ := taken.stops (.inl rfl)
  have byDump := twiceInTable_aa_halts
  rw [next, stopCauseIn, show AList.get? t.groups twiceSlot = some g from taken.group, Option.bind_some, byFault] at byDump
  cases byDump

end Sys2Proof.Machine
end

section
/-! SUPPORT. `regrp` with another entry in the split table: it refuses with BARRIER 5, whatever the state of that entry
(08 R181; 22 R454). -/
namespace Sys2Proof.Machine
open Sys2Proof.Statement

/-! ## The word -/

/-- The one pair of a table has the key under which the table has a value. -/
theorem key_of_get?_singleton {α β : Type} [DecidableEq α] {k n : α} {w x : β} (h : AList.get? [(k, w)] n = some x) :
    k = n := by
  rw [AList.get?_cons] at h
  split at h
  · next same => exact same
  · cases h

/-- A table that has a value under each of two keys has at least two pairs. -/
theorem one_lt_length_of_two_keys {α β : Type} [DecidableEq α] {t : AList α β} {i j : α} {u v : β} (other : j ≠ i)
    (hi : AList.get? t i = some u) (hj : AList.get? t j = some v) : 1 < t.length := by
  match t with
  | [] => cases hi
  | [(k, w)] =>
    have ki : k = i := key_of_get?_singleton hi
    have kj : k = j := key_of_get?_singleton hj
    exact absurd (kj.symm.trans ki) other
  | _ :: _ :: _ => exact Nat.succ_lt_succ (Nat.succ_pos _)

/-- The issue x is `regrp` with switch marker k: it has no operands, no region may be open, and a fragment that has not
arrived and is not alone in the split table refuses with BARRIER 5 (08 R181). -/
structure GathersGroups (x : Issue) (k : Bool) : Prop where
  runs : ∀ s, exec (.regrp k) s = issue x s
  i : x.i = .regrp k
  chk : ∀ a, x.chk a = {}
  region : x.region = outside
  crowded : ∀ w a, a.e.wait ≠ some .regroup → 1 < a.g.entries.length →
    x.body w a = .refuse w { code := fcBARRIER, detail := 5 }

theorem exec_regrp (k : Bool) : ∃ x, GathersGroups x k := by
  refine ⟨_, fun _ => rfl, rfl, fun _ => rfl, rfl, fun w a coming crowd => ?_⟩
  dsimp only
  split
  · next arrived => exact absurd arrived coming
  · rw [if_pos crowd]

/-- The checks before the body pass where the word is free to issue outside a region. -/
theorem GathersGroups.checks {x : Issue} {k : Bool} {s : State} {a : At} (gathers : GathersGroups x k)
    (f : Free s a (.regrp k) k {}) (plain : a.g.region = none) : firstFault x a = none :=
  firstFault_eq_none (gathers.i ▸ f.formed) (by rw [gathers.chk]) (by rw [gathers.chk]; exact f.declared)
    (by rw [gathers.chk]) (by rw [gathers.chk]) (by rw [gathers.chk]) (by rw [gathers.chk]; exact f.calm)
    fun rg inside => by simp [plain] at inside

/-- An entry beside the issuing one, in any state, makes `regrp` raise BARRIER with detail 5, where each slot has one pair in
the group table (22 R454). -/
theorem regrp_raises_beside {s : State} {a : At} {k : Bool} {j : Nat} {e' : Entry} (other : j ≠ a.ei)
    (beside : AList.get? a.g.entries j = some e') (coming : a.e.wait ≠ some .regroup) (f : Free s a (.regrp k) k {})
    (calm : Calm s a) (one : OneGroupASlot s) :
    ∃ t g e, exec (.regrp k) s = .next t ∧ Taken s t a 0x11 5 none a.e.pc g e := by
  obtain ⟨x, gathers⟩ := exec_regrp k
  obtain ⟨-, own⟩ := issuing_eq f.here
  have crowd : 1 < a.g.entries.length := one_lt_length_of_two_keys other own beside
  rw [gathers.runs]
  exact issue_refuses f.toHere calm one (gathers.checks f calm.plain) (by rw [gathers.chk]) f.atHand
    fun w => gathers.crowded w a coming crowd

/-! ## The statement -/

/-- The group of slot 0 with a HOLLOW entry beside its RUN entry. -/
def splitGroup : Group := { twiceGroup with entries := twiceGroup.entries ++ [(31, { st := .hollow, lanes := 0 })] }

/-- A state whose group table holds that group in n + 1 pairs for the slot, in a context with DUMPEN set. -/
def splitInTable (n : Nat) : State := { twiceInTable with groups := List.replicate (n + 1) (twiceSlot, splitGroup) }

/-- The fragment that issues there. -/
def splitAt : At := { twiceAt with g := splitGroup }

theorem splitAt_free (n : Nat) : Free (splitInTable n) splitAt (.regrp false) false {} where
  wf := twiceAt_free.wf
  whole := rfl
  here := rfl
  unwatched := .inr nofun
  formed := rfl
  declared := by decide
  calm := nofun
  atHand := Nat.le_refl 0
  early := nofun

theorem splitAt_calm (n : Nat) : Calm (splitInTable n) splitAt := ⟨rfl, rfl, rfl, twiceAt_calm.staying⟩

/-- With one pair for the slot the HOLLOW entry makes `regrp` raise BARRIER 5. -/
theorem splitInTable_one_raises :
    ∃ t g e, exec (.regrp false) (splitInTable 0) = .next t ∧ Taken (splitInTable 0) t splitAt 0x11 5 none splitAt.e.pc g e :=
  regrp_raises_beside (j := 31) (by decide) rfl nofun (splitAt_free 0) (splitAt_calm 0)
    (List.nodup_cons.2 ⟨List.not_mem_nil, List.nodup_nil⟩)

/-- With two pairs, BARRIER 5 stops the first pair's group; the dump that it starts finds the second pair, still ACTIVE, and
halts the slot's group again. -/
theorem splitInTable_two_halts : stopCauseIn (exec (.regrp false) (splitInTable 1)) = some .dumpHalt := by
  decide +kernel

/-- Refutes O19. An entry beside the issuing one, in whatever state, does make `regrp` raise BARRIER 5 wherever each slot has one
pair in the group table (`regrp_raises_beside`, `splitInTable_one_raises`). But the statement speaks of every state, so of one
whose group table holds two pairs for the slot that issues: there `regrp` beside a HOLLOW entry with DUMPEN set leaves the group
stopped by the halt of the dump, not by the fault. -/
theorem not_regroupNeedsOne : ¬ Obligations.RegroupNeedsOne := by
  intro h
  obtain ⟨t, g, e, next, taken⟩ := h (splitInTable 1) splitAt false 31 _ (by decide) rfl nofun (splitAt_free 1) (splitAt_calm 1)
  obtain ⟨-, -, -, byFault⟩ := taken.stops (.inl rfl)
  have byDump := splitInTable_two_halts
  rw [next, stopCauseIn, show AList.get? t.groups twiceSlot = some g from taken.group, Option.bind_some, byFault] at byDump
  cases byDump

end Sys2Proof.Machine
end
